-- ==== Sys2Proof/Word.lean ====
section
/-! DEFINITION. The word types of the module: bytes and the 64-bit words of headers, registers and descriptors. -/

namespace Sys2Proof

/-- One byte of a frame, a page or a flash bank. -/
abbrev Byte := BitVec 8

/-- A header word, a register or a descriptor word (R67, R467). -/
abbrev W64 := BitVec 64

/-- An endpoint id (R345). -/
abbrev Ep := BitVec 16

/-- A logical port number, 0 to 511 (R88). -/
abbrev PortNo := BitVec 9

end Sys2Proof
end

