-- ==== Sys2Proof/Syntax.lean ====
section
/-! DEFINITION. The commands that reach the module: one constructor of `Instr` for each row of the table of
operations and events, with the row's operands. -/

namespace Sys2Proof

/-- The fields of a frame header (R67). `HCRC` is not a field here: it is a function of the others (R68). -/
structure Header where
  version : BitVec 4
  cls : BitVec 3
  opcode : BitVec 8
  flags : BitVec 13
  dest : Ep
  src : Ep
  comp : BitVec 12
  epoch : BitVec 16
  tenant : BitVec 12
  keySlot : BitVec 10
  keyGen : BitVec 6
  status : BitVec 8
  seq : BitVec 32
  length : BitVec 16
  addr : W64
  etag : W64
  stepLo : BitVec 24
  tstamp : BitVec 32
  deriving DecidableEq, Repr

/-- A frame: a header, the payload it actually carries (R69), and the poisoned-tail mark of its last cell (R121). `pcrc` is the payload CRC
that it arrived with, which every hop carries on (R97); none where this module makes the payload. Of a frame whose cells are still arriving,
`rx` is the name it arrives under and `more` the number of payload bytes to come. -/
structure Frame where
  hdr : Header
  payload : List Byte
  poisoned : Bool
  pcrc : Option (BitVec 32) := none
  rx : Option Nat := none
  more : Nat := 0
  deriving DecidableEq, Repr

/-- A whole frame that has arrived on a logical port. -/
structure Arrival where
  port : PortNo
  frame : Frame
  deriving DecidableEq, Repr

/-- A cell and its envelope (R95). `bytes` 0 encodes 256. -/
structure Cell where
  sof : Bool
  eof : Bool
  cls : BitVec 3
  bytes : BitVec 9
  lseq : BitVec 16
  poison : Bool
  pcrc : BitVec 32
  ccrc : BitVec 32
  content : List Byte
  deriving DecidableEq, Repr

/-- What comes out as a link comes up: whether its two directions differ too much (R33), the initial credits of TC1 to TC7 that the partner
advertises (R105), and the position that the alignment marker of each lane gives, in lane order (R91). -/
structure Training where
  asymmetric : Bool
  credits : List (BitVec 24)
  order : List Nat
  deriving DecidableEq, Repr

/-- What a phase's limit of the Equinox has passed for (R32): a logical port, the bridge between the dies, or a stack controller. -/
inductive EqxSubject where
  | port (p : PortNo)
  | bridge
  | stack (k : BitVec 4)
  deriving DecidableEq, Repr

/-- The kinds of engine that carry an `xx_ENG_STATE` register (R477). -/
inductive EngineKind where
  | reduce | score | gather | tier | scrub
  deriving DecidableEq, Repr

/-- Where a page lies (R171). -/
inductive Tier where
  | t0 | t1 | t2 | t2n
  deriving DecidableEq, Repr

/-- A Finug command's place: the session it came on and its number s (R392, R462). -/
structure CmdRef where
  session : BitVec 32
  seq : W64
  deriving DecidableEq, Repr

/-- The extent body of a map entry (R360). -/
structure ExtBody where
  extIdx : BitVec 20
  home : Ep
  homeExt : BitVec 20
  mode : BitVec 2
  published : Bool
  svc : Bool
  writer : Ep
  codec : BitVec 3
  elem : BitVec 3
  keySlot : BitVec 10
  keyGen : BitVec 6
  newHome : Ep
  newHomeExt : BitVec 20
  deriving DecidableEq, Repr

/-- The body of a fence entry (R425). -/
structure FenceBody where
  subject : Ep
  port : BitVec 16
  kind : BitVec 3
  action : BitVec 3
  cls : BitVec 5
  by_ : BitVec 2
  spare : Ep
  comp : BitVec 12
  witnesses : BitVec 16
  element : Ep
  elemPort : BitVec 16
  elemKind : BitVec 3
  faultDay : BitVec 48
  deriving DecidableEq, Repr

/-- One run of a warren's module list in a creating command (R264): module, first extent index, partitions, spares. -/
structure WarrenRun where
  module : Ep
  extFirst : BitVec 20
  firstPart : BitVec 16
  parts : BitVec 16
  spareA : BitVec 20
  spareB : BitVec 20
  deriving DecidableEq, Repr

/-- What `WARREN_CREATE` carries (R267 words 0 and 2, R264). -/
structure WarrenSpec where
  warren : BitVec 24
  comp : BitVec 12
  fmt : BitVec 3
  metric : BitVec 2
  dim : BitVec 13
  attr : BitVec 2
  pTotal : BitVec 16
  cap : BitVec 32
  side : BitVec 20
  harvestFill : BitVec 3
  runs : List WarrenRun
  deriving DecidableEq, Repr

/-- One sample of the Sett's inputs (R486): junction and stack temperatures in °C, raw input power in W,
raw input current in mA and input voltage in mV. -/
structure SettReading where
  junction : List (BitVec 8)
  stackTemps : List (BitVec 8)
  powerW : BitVec 12
  currentMA : BitVec 20
  voltageMV : BitVec 20
  wakeLow : Bool
  deriving DecidableEq, Repr

/-- What a Keeper signature is for (R382, R386, R391, R393, R408). -/
inductive SignUse where
  | attest (m : CmdRef) (nonce : BitVec 256)
  | offer (handshake : Nat)
  | link (port : PortNo)
  | handover (m : CmdRef)
  deriving DecidableEq, Repr

/-- A command: one row of spec/opcode_table.json. -/
inductive Instr where
  -- loads, stores, atomics, combining, copies and counters
  | rd (a : Arrival)
  | rdOwn (a : Arrival)
  | wr (a : Arrival)
  | wrAppend (a : Arrival)
  | binvCompletion (a : Arrival)
  | atFaddI32 (a : Arrival)
  | atFaddI64 (a : Arrival)
  | atFaddF32 (a : Arrival)
  | atFaddBf16 (a : Arrival)
  | atMin (a : Arrival)
  | atMax (a : Arrival)
  | atSwap (a : Arrival)
  | atCas64 (a : Arrival)
  | atCas128 (a : Arrival)
  | atAnd (a : Arrival)
  | atOr (a : Arrival)
  | atXor (a : Arrival)
  | combinedFetchAdd (a : Arrival)
  | combineWindowClose (entry : Nat)
  | combinedReply (a : Arrival)
  | cpStart (a : Arrival)
  | cpData (a : Arrival)
  | cpPieceComplete (a : Arrival)
  | ctrArm (a : Arrival)
  | ctrArmDeadline (wait : Nat)
  -- collectives and Reduce commands
  | reContrib (a : Arrival)
  | chunkDeadline (chunk : Nat)
  | chunkRecordExpiry (record : Nat)
  | engineQueueRoom (kind : EngineKind) (engine : BitVec 6)
  | reResult (a : Arrival)
  | reCmd (a : Arrival)
  -- vector search
  | seSearch (a : Arrival)
  | warrenInsert (a : Arrival)
  | warrenDelete (a : Arrival)
  | partitionScanStart (scan : Nat)
  | partitionScanEnd (scan : Nat)
  | warrenUpdateTimeout (update : Nat)
  | harvestStart (comp : BitVec 12) (warren : BitVec 24) (part : BitVec 16)
  | harvestCopyEnd (die : Bool)
  | harvestOldRelease (die : Bool)
  | harvestFault (die : Bool)
  -- KV page service
  | seAttn (a : Arrival)
  | kvCreate (a : Arrival)
  | kvFork (a : Arrival)
  | kvTruncate (a : Arrival)
  | kvTruncateApply (held : Nat)
  | kvRelease (a : Arrival)
  | kvScanStart (scan : Nat)
  | kvScanEnd (scan : Nat)
  | kvHeldTimeout (held : Nat)
  | sePartial (a : Arrival)
  -- gather engines
  | geGather (a : Arrival)
  | geScatter (a : Arrival)
  | geBag (a : Arrival)
  | geKvasm (a : Arrival)
  | geWalk (a : Arrival)
  -- coded groups and the Equinox
  | ecMemberArrival (flow : BitVec 16) (group : BitVec 16) (member : BitVec 4) (a : Arrival)
  | ecDecodeCycle (flow : BitVec 16) (group : BitVec 16)
  | eqxEcho (port : PortNo) (roundTrip : Option (BitVec 20))
  | eqxTree (port : PortNo) (hops : BitVec 4)
  | eqxStart (port : PortNo) (startCycle : BitVec 60)
  | equinoxDayZero (localCount : BitVec 60)
  | equinoxPhaseAdvance
  | equinoxPhaseTimeout (subject : EqxSubject)
  | runningFabricJoin (port : PortNo) (day : BitVec 48) (cycle : BitVec 12)
  -- the Chronicle and the Day
  | chEntry (a : Arrival)
  | voteReq (a : Arrival)
  | chVote (a : Arrival)
  | leaderNop
  | electionTimeout
  | candidateTimeout
  | entryResend (module : Ep) (index : W64)
  | settleQueryTimeout (index : W64)
  | dayBoundary
  | funcDrainDeadline (drain : Nat)
  | graceEnd (comp : BitVec 12)
  -- health, reports and fences
  | softVerdictRepeat (port : PortNo) (peer : Bool)
  | hbLost (subject : Ep)
  | verdictResend (subject : Ep)
  | heartbeat (a : Arrival)
  | faultReport (a : Arrival)
  | fenceDevice (a : Arrival)
  -- lends, trays and timeouts of waiting requests
  | lendNotice (a : Arrival)
  | lendDrainComplete (lend : BitVec 8)
  | lendDeadline (lend : BitVec 8)
  | completionReturn (a : Arrival)
  | trayCompletion (a : Arrival)
  | trayResend (fetch : Nat)
  | trayTimeout (fetch : Nat)
  | binvResend (line : Nat) (ep : Ep)
  | binvTimeout (line : Nat)
  | flaggedStoreTimeout (store : Nat)
  | noPathTimeout (request : Nat)
  | pathUpForward (request : Nat)
  | ledgerRecordExpiry (src : Ep) (seq : BitVec 32)
  | allocationWaitTimeout (held : Nat)
  | t1FrameFree
  -- tiers and migration
  | denMoveDecision (homeExt : BitVec 20) (page : BitVec 14) (dest : Tier) (tray : Ep) (trayPage : BitVec 40)
  | t1FloorDemotion
  | prefetchCursorAdvance (comp : BitVec 12)
  | moveStart (order : Nat)
  | movePassEnd (move : Nat)
  | moveSourceFree (move : Nat)
  | teQueueRoom (engine : BitVec 4)
  | publicationHashDone (publication : Nat)
  | revocationDeadline (comp : BitVec 12) (ext : BitVec 20)
  | revocationComplete (comp : BitVec 12) (ext : BitVec 20)
  | scrubPageDone (engine : BitVec 2)
  | scrubItemDone
  | sweepPageDone (slot : BitVec 10)
  | sweepComplete (slot : BitVec 10)
  -- the link layer
  | cellReceive (port : PortNo) (cell : Cell)
  | frameDepart (port : PortNo)
  | ack (port : PortNo) (lseq : BitVec 16)
  | nak (port : PortNo) (lseq : BitVec 16)
  | credit (port : PortNo) (cls : BitVec 3) (freed : BitVec 24)
  | release (port : PortNo) (lseq : BitVec 16)
  | resend (port : PortNo) (lseq : BitVec 16)
  | dayMarker (port : PortNo) (dayLo : BitVec 20) (late : BitVec 16)
  | spareReq (port : PortNo) (failing spare : BitVec 10) (hard : Bool)
  | spareAck (port : PortNo) (failing spare : BitVec 10) (switchDay : Option (BitVec 20))
  | spareSwitchGuard (lane : BitVec 10)
  | linkDown (port : PortNo) (reason : BitVec 4)
  | retxTimeout (port : PortNo)
  | retxLimit (port : PortNo)
  | linkSilenceTimeout (port : PortNo)
  | resendRepeat (port : PortNo) (lseq : BitVec 16)
  | tc6HoldExpiry (port : PortNo) (lseq : BitVec 16)
  | cutThroughStallLimit (port : PortNo)
  | laneHardTrigger (lane : BitVec 10)
  | laneSoftTrigger (lane : BitVec 10)
  | alignmentLoss
  -- the Sett, faults and resets
  | settSample (r : SettReading)
  | throttleLower
  | leakN
  | denWatchdogExpiry (core : BitVec 6)
  | channelRetire (stack : BitVec 4) (channel : BitVec 5)
  | channelFailure (stack : BitVec 4) (channel : BitVec 5)
  | stackLoss (stack : BitVec 4)
  | engineNoProgress (kind : EngineKind) (engine : BitVec 6)
  | t0CarveError (slice : BitVec 9)
  | unitResetEnd (kind : EngineKind) (engine : BitVec 6)
  | warmResetEnd
  | packageResetEnd
  | inputTurnOn
  | railFail
  | undervoltage
  | overvoltage
  | porN
  | wakeN
  | pwrEn (high : Bool)
  | s3RealignRetry (neighbour : Option (PortNo × BitVec 48 × BitVec 12))
  -- the Keeper
  | keeperSign (use : SignUse)
  | signTokenRefill
  | bottomTreeBuilt
  | entropyFail
  | kpMboxCmd (value : W64)
  | kpMboxDoneClear (value : W64)
  -- register writes
  | stWdogKick (core : BitVec 6)
  | portRetrain (port : PortNo)
  | stThreshWrite (value : W64)
  | xbMirCtrlWrite (value : W64)
  | xbMirRuleWrite (rule : BitVec 4) (word : BitVec 2) (value : W64)
  | skewAlarmClear
  | registerWriteOther (addr : BitVec 48) (value : W64) (fromDen : Bool)
  -- the Finug port
  | finugFrame (bytes : List Byte)
  | finugAck (isNak : Bool) (seq : BitVec 32)
  | finugRetxTimeout
  | finugPortDown
  | finugLaneLoss (lane : Bool)
  | kxHello (version : Byte) (nonce : BitVec 256) (chain : List Byte)
  | kxAccept (handshake : Nat) (ciphertext : List Byte) (signature : List Byte)
  | kxClose (m : CmdRef)
  | handshakeTimeout (handshake : Nat)
  | sessionLifetimeEnd (session : BitVec 32)
  | lxMsg (m : CmdRef) (peer : Ep) (kind : BitVec 2) (body : List Byte)
  | regRead (m : CmdRef) (addrs : List (BitVec 48))
  | regWrite (m : CmdRef) (pairs : List (BitVec 48 × W64))
  | carveRead (m : CmdRef) (slice : BitVec 9) (offset : BitVec 24) (length : BitVec 17)
  -- Almanac transactions
  | alBegin (m : CmdRef) (txn : W64) (participants : List Ep)
  | alStage (m : CmdRef) (offset : BitVec 32) (piece : List Byte)
  | alSeal (m : CmdRef)
  | alCommit (m : CmdRef) (txn : W64) (day : BitVec 48)
  | almanacPrepare (txn : W64)
  | almanacCommitEntry (txn : W64) (flipDay : BitVec 48)
  | almanacRollbackEntry (txn : W64) (flipDay : BitVec 48)
  | alRollback (m : CmdRef) (txn : W64)
  | txnTimeout
  | txnVoteTimeout (module : Ep)
  | alRead (m : CmdRef) (bank : Bool) (offset : BitVec 32) (length : BitVec 17)
  -- map commands
  | extGrant (m : CmdRef) (comp : BitVec 12) (body : ExtBody) (day : BitVec 48)
  | extTake (m : CmdRef) (comp : BitVec 12) (body : ExtBody) (day : BitVec 48)
  | extMode (m : CmdRef) (comp : BitVec 12) (body : ExtBody) (day : BitVec 48)
  | keyRevoke (m : CmdRef) (comp : BitVec 12) (slot : BitVec 10) (gen : BitVec 6) (destroy : Bool) (day : BitVec 48)
  | lendGrant (m : CmdRef) (lender : Ep) (base : W64) (pages : BitVec 32) (home : Ep)
  | pubRegion (m : CmdRef) (comp : BitVec 12) (region : BitVec 32) (anchor : W64)
  | publish (m : CmdRef) (comp : BitVec 12) (region version : BitVec 32) (base : W64) (extents : BitVec 16)
  | promote (m : CmdRef) (comp : BitVec 12) (region version : BitVec 32)
  | retire (m : CmdRef) (comp : BitVec 12) (region version : BitVec 32)
  | pinClear (m : CmdRef) (comp : BitVec 12) (region version : BitVec 32) (count : BitVec 56)
  | warrenCreate (m : CmdRef) (spec : WarrenSpec)
  | warrenDissolve (m : CmdRef) (comp : BitVec 12) (warren : BitVec 24)
  | harvest (m : CmdRef) (comp : BitVec 12) (warren : BitVec 24) (part : BitVec 16)
  | fence (m : CmdRef) (body : FenceBody) (day : BitVec 48)
  | admission (m : CmdRef) (device : Ep) (comp : BitVec 12) (asSpare : Bool)
  -- Keeper commands
  | attest (m : CmdRef) (nonce : BitVec 256)
  | fwStage (m : CmdRef) (offset : BitVec 32) (piece : List Byte)
  | fwActivate (m : CmdRef)
  | fwCommit (m : CmdRef)
  | ownerEnrol (m : CmdRef) (root : BitVec 256)
  | ownerTransfer (m : CmdRef) (root : BitVec 256) (statement : List Byte)
  | idRoll (m : CmdRef)
  -- resets and power states ordered by the control node
  | resetUnit (m : CmdRef) (kind : EngineKind) (engine : BitVec 6)
  | resetWarm (m : CmdRef)
  | resetPackage (m : CmdRef)
  | resetPowerOn (m : CmdRef)
  | enterS1 (m : CmdRef)
  | enterS3 (m : CmdRef)
  | leaveS1 (m : CmdRef)
  -- telemetry
  | subscribe (m : CmdRef) (mask : BitVec 7) (rateLog2 : BitVec 5) (samples : List (BitVec 48))
  | unsubscribe (m : CmdRef) (mask : BitVec 7)
  | telemetrySample (session : BitVec 32)
  -- the last rows of the table
  | linkUp (port : PortNo) (delay : BitVec 16) (training : Training)
  | dayMarkerSend (port : PortNo)
  | requestDeadline (work : Nat)
  | entropyTestsPass
  | topTreeCacheRebuilt
  | keeperRequestDone (status : BitVec 8) (answer : List Byte)
  | finugLaneLock (lane : Bool)
  deriving DecidableEq, Repr

end Sys2Proof
end

