-- ==== Sys2Proof/Decode.lean ====
section
/-! DEFINITION. The table of commands gives bits to no row, so no word spells a command. -/

namespace Sys2Proof

/-- The command a word spells: none, since no row of spec/opcode_table.json has bit fields. -/
def decodeTableWord (_nbits _w : Nat) : Option Instr := none

end Sys2Proof
end

