-- ==== Sys2Proof/Machine/State.lean ====
section
/-! DEFINITION. The state of the module: every register, table, queue, buffer, counter, mode and pin the manual gives it,
as plain data, and the state right after reset. Numbers that count (Days, cycles, lengths, indices) are `Nat`;
fields that software or a frame sees as bits are bit vectors. -/

namespace Sys2Proof.Machine

/-- A finite table: key and value pairs, keys strictly rising (Machine/Table.lean keeps that form). -/
abbrev KMap (α : Type) := List (Nat × α)

/-- The orderable variants (R2). -/
inductive Variant where
  | f9616 | p9616 | f9608
  deriving DecidableEq, Repr

/-- A fault: the module stops. Raised by no meaning of this model: the manual reports every failure as a completion. -/
inductive Fault where
  /-- An access to storage the manual says does not exist. Raised by no meaning; kept for the interface. Safe. -/
  | noSuchStorage
  deriving DecidableEq, Repr

/-- A refusal: a command without a meaning in the model. -/
inductive Refusal where
  /-- The command of this mnemonic has no meaning yet. Raised by an arm of `exec` only. Safe. -/
  | notModelled (mnemonic : String)
  deriving DecidableEq, Repr

/-! ## Sett, power and resets -/

/-- The Day count and its alignment (R22, R36, `ST_DAY_NOW`, `ST_DAY_STATUS`). `extra` marks the second of the two cycles numbered 4,095
of a lengthened Day. -/
structure TimeSt where
  day : Nat
  cycle : Nat
  extra : Bool
  dayLen : Nat
  leapCount : Nat
  skew : Int
  diffs : List Int
  meds : List Int
  skewAlarm : Bool
  aligned : Bool
  root : Bool
  treeDepth : Nat
  over4 : Nat
  freeRun : Bool
  hasCount : Bool
  deriving DecidableEq, Repr

/-- The Equinox as this module runs it (R31, R32, R34). `phase` 0 means none running; `offers` holds the last timing-tree offer heard on
each link; `stuck`, `stacksDown` and `bridgeDown` name what phase 4 keeps down; `late` the links that had not finished phase 2 at its limit;
`rejoin` marks a module that runs the phases to join a running fabric. -/
structure EqxSt where
  phase : Nat
  offers : KMap Nat
  parent : Option Nat
  echoes : KMap (List Nat)
  startCycle : Option Nat
  out : Bool
  heldDown : List Nat
  stuck : List Nat
  unmeasured : List Nat
  late : List Nat
  stacksDown : List Nat
  bridgeDown : Bool
  rejoin : Bool
  done : Bool
  deriving DecidableEq, Repr

/-- Power states (R483). P1 is P0 with at least one lane parked. -/
inductive PowerState where
  | p0 | s1 | s3 | off
  deriving DecidableEq, Repr

/-- Power, thermal limits and throttling (R479, R486 to R490) and the sideband pins (R502). `pNow` is in 1/65,536 W. -/
structure PowerSt where
  pstate : PowerState
  inputOn : Bool
  pwrEn : Bool
  leakLow : Bool
  thermtripLow : Bool
  alertLow : Bool
  tThrottle : Nat
  pLimit : Nat
  pNow : Nat
  tMax : Nat
  step : Nat
  okSamples : Nat
  junctionHist : List (List Nat)
  stackHist : List (List Nat)
  throttledDay : Bool
  throttledPrev : Bool
  deriving DecidableEq, Repr

/-- Reset classes that reset the core dies at a Day boundary (R493). -/
inductive ResetClass where
  | warm | package
  deriving DecidableEq, Repr

/-- Resets ordered and running, and the self-fence (R493, R495, R496, R426). -/
structure ResetSt where
  order : Option ResetClass
  running : Option (ResetClass × Nat)
  answerTo : Option CmdRef
  units : KMap (Nat × Option CmdRef)
  selfFenced : Bool
  unaligned : Bool
  deriving DecidableEq, Repr

/-- The Den's cores and their watchdog (R442, `ST_WDOG`, `DN_STATUS`). -/
structure DenSt where
  coreUp : BitVec 48
  retired : BitVec 48
  lastKick : KMap Nat
  weekExpiries : KMap Nat
  expired : Nat
  deriving DecidableEq, Repr

/-! ## Keeper and flash -/

/-- A key slot (`KP_SLOT`). `keys` gives the key number (a DRBG draw) of each generation still held. -/
structure KeySlot where
  state : BitVec 2
  gen : BitVec 6
  comp : BitVec 12
  sweepExt : Nat
  sweepPage : Nat
  keys : KMap Nat
  deriving DecidableEq, Repr

/-- An open control-node session (R391, R392, R463, R465). -/
structure Session where
  ident : BitVec 256
  kCmd : List Byte
  kRsp : List Byte
  lastSeq : Nat
  discards : Nat
  commands : Nat
  openDay : Nat
  unanswered : List W64
  streams : BitVec 7
  rateLog2 : Nat
  samples : List (BitVec 48)
  deriving DecidableEq, Repr

/-- A control-node handshake in progress (R391): what has been exchanged so far. -/
structure Handshake where
  openDay : Nat
  hello : List Byte
  offer : List Byte
  ident : BitVec 256
  decapsKey : Nat
  deriving DecidableEq, Repr

/-- The keys of a fabric link (R394 to R396): the link secret and the counters per (stream, phase). `sure` lists those of them whose next
value on arrival is known: a frame has been accepted and no transmission can have been lost since. -/
structure LinkKey where
  secret : List Byte
  txCtr : KMap Nat
  rxCtr : KMap Nat
  week : Nat
  keptPrev : Option Nat
  sure : List Nat := []
  deriving DecidableEq, Repr

/-- A link handshake in progress (R393): the command that waits for this module's message, that message up to its signature, what has
been exchanged before it, and the decapsulation key or, at the answering end, the shared secret. -/
structure LinkHs where
  peer : Ep
  m : Option CmdRef
  own : List Byte
  transcript : List Byte
  decapsKey : Nat
  secret : List Byte
  deriving DecidableEq, Repr

/-- A signature waiting for a token or a tree (R383, R384). -/
abbrev SignWait := SignUse

/-- A Finug command that the Den relays to the Keeper (R464, R480). -/
inductive KeeperAsk where
  | attest (m : CmdRef) (nonce : BitVec 256)
  | fwStage (m : CmdRef) (offset : BitVec 32) (piece : List Byte)
  | fwActivate (m : CmdRef)
  | fwCommit (m : CmdRef)
  | ownerEnrol (m : CmdRef) (root : BitVec 256)
  | ownerTransfer (m : CmdRef) (root : BitVec 256) (statement : List Byte)
  | idRoll (m : CmdRef)
  deriving DecidableEq, Repr

/-- The Keeper (R377 to R401, R480) and the counters it keeps in the replay-protected region. `noImage`: neither image slot passed
(R388). -/
structure KeeperSt where
  idOk : Bool
  idFail : Bool
  identity : BitVec 2
  ownerRoot : Option (BitVec 256)
  activeSlot : Bool
  fwPending : Bool
  fallback : Bool
  entropyFail : Bool
  badMac : Nat
  svnFw : BitVec 16
  tree : Nat
  qNext : Nat
  qRes : Nat
  nextReady : Bool
  building : Bool
  topCacheOk : Bool
  exhausted : Bool
  tokens : Nat
  signQueue : List SignWait
  drbg : Nat
  ready : KMap Nat
  slots : KMap KeySlot
  sessions : KMap Session
  handshakes : KMap Handshake
  linkKeys : KMap LinkKey
  linkHs : KMap LinkHs
  mboxBusy : Bool
  mboxDone : Bool
  mboxOverrun : Bool
  mboxRlen : Nat
  mboxStatus : BitVec 8
  mboxCode : BitVec 16
  mboxLen : Nat
  mboxBuf : List Byte
  relay : Option CmdRef := none
  asks : List KeeperAsk := []
  fwSlots : KMap (List Byte)
  bootOther : Bool
  noImage : Bool
  deriving DecidableEq, Repr

/-! ## The Almanac -/

/-- Carves and module settings (section 0x01, R445). Carves count whole slices. -/
structure Settings where
  bufSlices : Nat
  pageTableSlices : Nat
  dirSlices : Nat
  l3Slices : Nat
  mirrorSlices : Nat
  calendarSlices : Nat
  warrenSlices : Nat
  objectSlices : Nat
  pageSlices : List Nat
  heatLog2 : Nat
  upPagesDay : Nat
  downPagesDay : Nat
  t0PagesDay : Nat
  movesMax : Nat
  t1FreeFloor : Nat
  promoteHeat : Nat
  t0Heat : Nat
  demoteHeat : Nat
  combineWindow : Nat
  combineFixed : Bool
  overcommit : Nat
  tc0Reserve : List Nat
  weights : List Nat
  funcEn : BitVec 8
  drainFn : Nat
  deriving DecidableEq, Repr

/-- The binding of a logical port (section 0x02): edge or fabric, and what R71 stamps. `comp` is none on a tray port (R505).
`credits` are the initial credits of TC1 to TC7 (R105), `spares` its spare lanes, each with the partner's spare that it is cabled to
(R107). -/
structure PortBind where
  fabric : Bool
  ep : Ep
  comp : Option (BitVec 12)
  tenant : BitVec 12
  lanes : Nat
  primary : Bool
  edgeGcm : Bool
  credits : List Nat
  spares : List (Nat × Nat)
  deriving DecidableEq, Repr

/-- A prefetch calendar (R192): cursor, lead, keep count and entries of two words. -/
structure Prefetch where
  cursorGfa : Nat
  lead : Nat
  keep : Nat
  entries : List (W64 × W64)
  deriving DecidableEq, Repr

/-- A gather object (R326). -/
structure GatherObj where
  obj : BitVec 24
  graph : Bool
  fmt : BitVec 4
  rowElems : Nat
  count : Nat
  base : Nat
  edges : Nat
  delmap : Nat
  deriving DecidableEq, Repr

/-- A composition's Almanac entry (R346, R507). -/
structure CompEntry where
  tenant : BitVec 12
  strict : Bool
  seed : BitVec 128
  retryDays : Nat
  drainDays : Nat
  reMask : W64
  seMask : W64
  geMask : W64
  reWeight : Nat
  seWeight : Nat
  geWeight : Nat
  t0Grant : Nat
  lendUse : Bool
  kvPool : List Nat
  prefetch : Option Prefetch
  objects : List GatherObj
  ovfFrames : Nat
  funcEn : BitVec 8
  edges : List Ep
  deriving DecidableEq, Repr

/-- A scheduled flow (R43): its owner, ends, this module's hop and expected cycles, with several output ports where it is multicast (R126); for a coded flow its k, encoder, decoder, the output
port of each member at the encoder, and group layout at the decoder (R49), of each group in turn: port and arrival cycle of each member,
address and length of each data member's target. -/
structure Flow where
  comp : BitVec 12
  src : Ep
  dst : Ep
  inPort : Nat
  outPorts : List Nat
  latency : Nat
  expected : List Nat
  ecK : Nat
  encoder : Ep
  decoder : Ep
  sends : List Nat
  targets : List (Nat × Nat)
  members : List (Nat × Nat)
  deriving DecidableEq, Repr

/-- Scheduled engine work of a template (R18, R44): the engine, the composition, the first cycle and how many. -/
structure EngWork where
  kind : EngineKind
  engine : Nat
  comp : BitVec 12
  start : Nat
  cycles : Nat
  deriving DecidableEq, Repr

/-- A Day template in the form of R445: for each output port, runs (first slot, slots, flow id); and the engines' reserved cycles (R44). -/
structure Template where
  runs : KMap (List (Nat × Nat × Nat))
  work : List EngWork := []
  deriving DecidableEq, Repr

/-- A Reduce node entry (R242). -/
structure NodeEntry where
  collId : BitVec 24
  op : BitVec 4
  inFmt : BitVec 4
  outFmt : BitVec 4
  comp : BitVec 12
  nContrib : Nat
  lo : Nat
  hi : Nat
  chunkElems : Nat
  chunks : Nat
  outKind : BitVec 3
  mcast : Nat
  outEp : Ep
  deadline : Nat
  die : Bool
  engMask : BitVec 32
  row : Nat
  outGfa : Nat
  inputs : List Nat
  deriving DecidableEq, Repr

/-- The health policy (R419). -/
structure Policy where
  hbDead : Nat
  scoreOk : Nat
  scoreSoft : Nat
  spares : KMap (List Ep)
  spareModules : List Ep
  spareFloor : Nat
  expelMax : Nat
  corrMin : Nat
  corrShare : Nat
  probationDays : Nat
  reportMax : Nat
  solWeeks : Nat
  softUncorrDays : Nat
  softRatioLog10 : Nat
  deriving DecidableEq, Repr

/-- An endpoint of the topology: the module and logical port that bind it, its kind, its power feed and its port's width. -/
structure TopoEp where
  module : Ep
  port : Nat
  kind : Nat
  feed : Nat
  lanes : Nat
  deriving DecidableEq, Repr

/-- A fabric link of the topology. -/
structure TopoLink where
  a : Ep
  portA : Nat
  b : Ep
  portB : Nat
  deriving DecidableEq, Repr

/-- The topology (section 0x09). `modules` pairs each module with its feed; `ptSlices` gives the page-table carves of the modules that do not
keep the default (R174), and `noScore` names those without Score engines (R265, log 125). -/
structure Topo where
  modules : KMap Nat
  ptSlices : KMap Nat := []
  noScore : List Nat := []
  endpoints : KMap TopoEp
  links : List TopoLink
  deriving DecidableEq, Repr

/-- What a certificate is for (R387). -/
inductive CertUse where
  | almanac | control | device | endpoint
  deriving DecidableEq, Repr

/-- The contents of an Almanac image (R443, R445). -/
structure Almanac where
  self : Ep
  imgSeq : Nat
  txnId : W64
  fabricHash : BitVec 256
  reqUnits : W64
  reqMem : W64
  settings : Settings
  split : KMap Nat
  ports : KMap PortBind
  comps : KMap CompEntry
  templates : KMap Template
  weekPlan : KMap (BitVec 16)
  flows : KMap Flow
  nodes : List NodeEntry
  mcast : KMap (List Nat)
  policy : Policy
  members : List Ep
  topo : Topo
  denied : List W64
  sections : List Nat
  deriving DecidableEq, Repr

/-- Participant states of a transaction (R448). -/
inductive TxnState where
  | idle | open_ | sealed | prepared | pending
  deriving DecidableEq, Repr

/-- The pending record of R451. -/
structure PendingRec where
  txn : W64
  bank : Bool
  flipDay : Nat
  deriving DecidableEq, Repr

/-- The leader's view of a transaction (R450, R452). -/
structure LeaderTxn where
  txn : W64
  participants : List Ep
  votes : KMap (BitVec 256)
  startDay : Nat
  askDay : Nat
  flipDay : Option Nat
  deriving DecidableEq, Repr

/-- A function being drained (R456): composition (none for the module), bit and deadline. -/
structure Drain where
  comp : Option (BitVec 12)
  bit : Nat
  day : Nat
  deriving DecidableEq, Repr

/-- The Almanac banks and the transaction (R448 to R453, `AL_BANK`, `AL_TXN`). -/
structure AlmSt where
  cur : Almanac
  curBank : Bool
  seq : Nat
  txnState : TxnState
  txnId : W64
  participants : List Ep
  openDay : Nat
  sealDay : Nat
  staged : List Byte
  stagedImage : Option Almanac
  banks : KMap (List Byte)
  pending : Option PendingRec
  leader : Option LeaderTxn
  rollbacks : List W64
  drains : KMap Drain
  waiting : Option CmdRef
  deriving DecidableEq, Repr

/-! ## Requests -/

/-- A request this module has admitted: its header after stamping, payload, ingress and admission time, and what was in force then: the mode
of its composition and its Almanac entry (R27, R56). `lseq` is its first cell's `LSEQ` where it came as cells; `pcrc`, `rx` and `more` are
its frame's, `flow` its scheduled flow (R43); `mir` is the reason for which its header is mirrored, if it is (R132). `judged` marks a request whose rights at its home were
found good at its admission there; `ord` orders the requests by admission. -/
structure Req where
  hdr : Header
  payload : List Byte
  port : Nat
  lseq : Option (BitVec 16)
  edge : Bool
  day : Nat
  cycle : Nat
  poisoned : Bool
  strict : Bool
  ord : Nat := 0
  entry : Option CompEntry := none
  judged : Option (BitVec 20) := none
  mir : Option Nat := none
  flow : Option Nat := none
  pcrc : Option (BitVec 32) := none
  rx : Option Nat := none
  more : Nat := 0
  deriving DecidableEq, Repr

/-- A frame in arrival on one stream of a link (R96): the cells' bytes so far, the cells counted whether they passed or not, and what has been
decided about it. `name` is the frame's name while it arrives; `req` is the frame as the port took it, and `here` marks one that waits here
for its last cell (R120); `known` marks one whose header has been looked up (R119), `count` is the counter that it is then taken to be
sealed under (R395); `skip` counts first cells that were lost (R102). -/
structure OpenFrame where
  bytes : List Byte
  cells : Nat
  firstLseq : BitVec 16
  name : Nat
  req : Option Req
  here : Bool
  known : Bool
  count : Nat
  skip : Nat
  discard : Bool
  poisoned : Bool
  deriving DecidableEq, Repr

/-! ## Ports, links and lanes -/

/-- The health scores of a logical port (R415 to R417, `ST_SCORE`). -/
structure PortHealth where
  pLink : List Nat
  pHb : List Nat
  pEcc : List Nat
  pTemp : List Nat
  fLink : Nat
  fHb : Nat
  fEcc : Nat
  fTemp : Nat
  hbSeen : Bool
  hbMiss : Nat
  hbEcc : Nat
  hbTemp : Nat
  failures : Nat
  worstToday : Nat
  standing : BitVec 2
  softLinkDay : Option Nat
  softPeerDay : Option Nat
  goodDays : Nat
  linkDays : Nat
  deriving DecidableEq, Repr


/-- A frame that was sent on a link and is not acknowledged in full: the `LSEQ` of its last cell, the port and cell it came in by, and the
stored copy it came from. -/
structure SentFrame where
  frame : Frame
  last : BitVec 16
  inPort : Nat
  copy : Option Nat
  deriving DecidableEq, Repr

/-- A cell that was sent and is not acknowledged, and how often it has been sent again (R101, R103). -/
structure SentCell where
  cell : Cell
  resent : Nat
  deriving DecidableEq, Repr

/-- A TC6 frame that has been asked for again (R106), and when last. -/
structure ResendWait where
  src : Ep
  seq : BitVec 32
  addr : W64
  time : Nat
  deriving DecidableEq, Repr

/-- A logical port's link layer (R89, R98 to R106) and its registers (R476). `credInit` are the partner's initial credits of TC1 to TC7 and
`advertised` this module's own (R105); `wire` holds the cells that have been put on the link, each with its time; `slotUsed` is the last cell
slot used; `resendQ` names the cells still to be sent again; `txTc0` and `txOther` are the queue entries of the two frames being sent
(R96); `laneOrder` is the position that each lane's alignment marker gives (R91). -/
structure PortSt where
  up : Bool
  retraining : Bool
  delay : BitVec 16
  delayValid : Bool
  treeExcl : Bool
  malformed : Nat
  tailPoison : Nat
  gcmFail : Nat
  tc0Misfit : Nat
  txSeq : BitVec 16
  rxExpect : BitVec 16
  unacked : List SentCell
  sent : List SentFrame
  resendQ : List (BitVec 16)
  wire : List (Nat × Cell)
  slotUsed : Option Nat
  txTc0 : Option Nat
  txOther : Option Nat
  nakSent : Bool
  lastCtrl : Nat
  lastAck : Nat
  ackHeard : Nat
  credInit : List Nat
  advertised : List Nat
  credFreed : KMap (BitVec 24)
  credSent : KMap (BitVec 24)
  rxFreed : KMap (BitVec 24)
  withheld : List Nat
  tc6Sent : KMap (Frame × Nat)
  tc6Wait : KMap ResendWait
  openTc0 : Option OpenFrame
  openOther : Option OpenFrame
  laneOrder : List Nat
  deficit : List Nat
  w : Nat
  wElig : Nat
  wComb : Nat
  mirCount : Nat
  control : List (BitVec 128)
  health : PortHealth
  deriving DecidableEq, Repr

/-- A lane (`PT_LANE_STATUS`) and the sparing in progress on it (R109 to R112). -/
structure LaneSt where
  serves : BitVec 10
  uncorr : Nat
  corrSym : Nat
  role : BitVec 2
  lock : Bool
  spared : Bool
  polInv : Bool
  switchDay : Option Nat
  toSpare : Option Nat
  listening : Bool
  deriving DecidableEq, Repr

/-! ## The crossbar -/

/-- A frame that a port has begun to send (R96): its first cell's `LSEQ`, the cells sent, its counter on a protected port, and since when its
next cell has been missing (R125). -/
structure TxSt where
  first : BitVec 16
  sent : Nat
  count : Nat
  stall : Option Nat
  deriving DecidableEq, Repr

/-- A frame in an output queue (R116, R117, R129), with the cells stored, those of them that lie in the shared region, its scheduled flow
(R43), and the reason for which it is mirrored, if it is (R132). `admitted` is its admission by this module; `skip` counts first cells that
were lost before they came here (R102); `cut` marks one that may leave before its last cell has come (R119). -/
structure QFrame where
  port : Nat
  frame : Frame
  cells : Nat
  isReq : Bool
  copy : Option Nat
  inPort : Nat
  inLseq : Option (BitVec 16)
  shared : Nat
  admitted : Nat
  notBefore : Nat
  qdepth : Nat
  mir : Option Nat
  flow : Option Nat := none
  skip : Nat := 0
  cut : Bool := false
  begun : Option TxSt := none
  deriving DecidableEq, Repr

/-- A stored multicast copy (R127): the targets whose share is not yet released, and the ingress port whose credits go back with it. -/
structure McCopy where
  frame : Frame
  die : Bool
  targets : List Nat
  inPort : Nat := 512
  deriving DecidableEq, Repr

/-- A header-mirror record (R133). -/
structure MirRec where
  hdr : Header
  event : BitVec 4
  reason : Nat
  inPort : Nat
  outPort : Nat
  qdepth : Nat
  tAdmit : Nat
  tEvent : Nat
  deriving DecidableEq, Repr

/-- An open combine entry (R148, R150): its kind, members in joining order, egress and opening time. -/
structure Combine where
  isRead : Bool
  members : List Req
  egress : Nat
  line : Nat
  opened : Nat
  sentSeq : Option (BitVec 32)
  home : Ep
  isOpen : Bool
  deriving DecidableEq, Repr

/-- A flagged store or a later store held at the first hop (R161, R163). -/
structure FlagHeld where
  req : Req
  home : Ep
  flagged : Bool
  before : List (Nat × Nat)
  day : Nat
  deriving DecidableEq, Repr

/-- A lease at the first hop (R440). -/
structure Lease where
  req : Req
  pool : Ep
  deriving DecidableEq, Repr

/-- A coded group at the decoder (R52, R55): the members that arrived, by index, none where lost on arrival; at the encoder (R50), the data
members that have gone out; with the Day of the first of them. -/
structure EcGroup where
  members : KMap (Option Frame)
  day : Nat
  deriving DecidableEq, Repr

/-- A request that waits for a path (R506), or behind requests still out on the path it has left (R160). -/
structure PathWait where
  req : Req
  dest : Ep
  day : Nat
  moving : Bool
  deriving DecidableEq, Repr

/-- The pinned path of a (source, home, class), and whether it is draining to a new one (R159, R160). -/
structure Pin where
  port : Nat
  moving : Bool
  deriving DecidableEq, Repr

/-- Why this module sent a request of its own: what its completion means. -/
inductive Own where
  | binv (line : Nat) (ep : Ep)
  | fetch (id : Nat)
  | combine (entry : Nat)
  | piece (copy : Nat) (len : Nat)
  | search (id : Nat) (input : Nat)
  | attn (id : Nat) (seg : Nat)
  | partial_ (chunk : Nat)
  | vote (index : Nat) (query : Bool)
  | other
  deriving DecidableEq, Repr

/-- A request of the module's own that is out: what a completion of it echoes (R79), whoever sends it. -/
structure OwnReq where
  why : Own
  dest : Ep
  opcode : BitVec 8
  addr : W64
  etag : W64
  deriving DecidableEq, Repr

/-- The crossbar and the module's first-hop and switch roles. `mirNext` counts the mirror records written since the ring was placed;
`loop` holds frames that the module sends to itself. -/
structure XbSt where
  queue : KMap QFrame
  ecRebuilt : Nat
  ecLost : Nat
  fenceLate : Nat
  mirLost : Nat
  pushout : KMap Nat
  mirCtrl : W64
  mirRules : KMap W64
  mirRing : List MirRec
  mirNext : Nat
  regWrites : List (BitVec 48 × W64 × Bool)
  combine : KMap Combine
  waiting : KMap PathWait
  pins : KMap Pin
  outstanding : KMap (List (Nat × Nat))
  flagged : KMap FlagHeld
  leases : KMap Lease
  ec : KMap EcGroup
  copies : KMap McCopy
  template : Option Nat
  own : KMap OwnReq
  seqOf : KMap (BitVec 32)
  tc0Worst : KMap (BitVec 8)
  loop : List Frame
  deriving DecidableEq, Repr

/-! ## Compositions and the map -/

/-- An Extent Table entry (R137). -/
structure ExtEntry where
  home : Ep
  mode : BitVec 2
  state : BitVec 2
  writer : Ep
  homeExt : BitVec 20
  published : Bool
  svc : Bool
  deriving DecidableEq, Repr

/-- A draining or revoked extent (R366 to R370). -/
structure RevSt where
  notice : Nat
  revDay : Nat
  home : Ep
  homeExt : Nat
  newHome : Ep
  scrubbing : Bool
  stopped : Bool
  deriving DecidableEq, Repr

/-- Metering counters (R372). -/
structure Meter where
  t0 : W64
  t1 : W64
  t2 : W64
  t2n : W64
  re : W64
  se : W64
  ge : W64
  week : Nat
  deriving DecidableEq, Repr

/-- A composition at this module: epochs, Extent Table, revocations, violation counter and metering. -/
structure CompSt where
  epoch : BitVec 16
  epochDay : Nat
  graceEnd : Option Nat
  ext : KMap ExtEntry
  old : KMap ExtEntry
  rev : KMap RevSt
  keySlot : BitVec 10
  violKind : BitVec 4
  violSrc : Ep
  violCount : Nat
  meter : Meter
  snap : Meter
  deriving DecidableEq, Repr

/-! ## Home memory -/

/-- The place of a page (`LOC`, R175). -/
inductive Loc where
  | t0 (slice slot : Nat)
  | t1 (stack frame : Nat)
  | t2 (ep : Ep) (page : Nat)
  | t2n (ep : Ep) (page : Nat) (lend : Nat)
  deriving DecidableEq, Repr

/-- Page states (R177). -/
inductive PageState where
  | unmapped | resident | moving | poisoned | keyLost
  deriving DecidableEq, Repr

/-- A page-table entry (R175), with the counts of R155 and R186 that the home keeps for the page. -/
structure Pte where
  loc : Loc
  state : PageState
  codec : BitVec 3
  pro : Bool
  pin : Bool
  anchor : Bool
  written : Bool
  heat : Nat
  move : Nat
  hold : Nat
  deriving DecidableEq, Repr

/-- A codec block's tag (R222) and escape (R218). -/
structure BlockTag where
  raw : Bool
  bpoison : Bool
  stored : Nat
  escape : Option Nat
  deriving DecidableEq, Repr

/-- A home extent (R174): the composition it is granted to, its codec (R209) and its page table. `lost`: a page without an entry
is key-lost (R497); `proAll`: it has `PRO` set (R197). -/
structure HomeExt where
  comp : BitVec 12
  tenant : BitVec 12
  idx : Nat
  codec : BitVec 3
  elem : BitVec 3
  pages : KMap Pte
  lost : Bool
  proAll : Bool
  blocks : KMap BlockTag
  overflow : List Nat
  ovfArea : List (Nat × Nat)
  deriving DecidableEq, Repr

/-- Directory states of a line (R141). -/
inductive DirState where
  | s | o
  deriving DecidableEq, Repr

/-- A directory entry (R141). A line without an entry is in I. -/
structure DirEntry where
  state : DirState
  holders : List Ep
  broadcast : Bool
  age : Nat
  deriving DecidableEq, Repr

/-- Back-invalidates of a line (R142, R144): who has not completed, and since when. -/
structure BinvSt where
  await : List Ep
  firstDay : Nat
  lastDay : Nat
  comp : BitVec 12
  evict : Bool
  deriving DecidableEq, Repr

/-- A ledger record (R165), its key being (`L_SRC`, `L_SEQ`). -/
structure LedgerRec where
  op : BitVec 8
  status : BitVec 8
  day : Nat
  result : List Byte
  deriving DecidableEq, Repr

/-- The expired mark of a source (R166), or resync (R169). -/
inductive Mark where
  | at_ (x : BitVec 32)
  | resync
  deriving DecidableEq, Repr

/-- A running copy or KV assembly (R156, R336): the runs (source, destination, length) still to cut into pieces, and the
pieces outstanding (key, length). -/
structure CopyWork where
  req : Req
  counter : Nat
  runs : List (Nat × Nat × Nat)
  toEp : Bool
  dstEp : Ep
  outstanding : List (Nat × Nat)
  worst : BitVec 8
  scanOf : Option Nat
  extIdx : Nat
  deriving DecidableEq, Repr

/-- An armed wait (R158). -/
structure ArmedWait where
  req : Req
  counter : Nat
  target : Nat
  wake : Ep
  deadline : Nat
  deriving DecidableEq, Repr

/-- Why a request waits at the home. -/
inductive HeldWhy where
  | alloc | promote | flip | teQueue | sweep | binv | behind
  deriving DecidableEq, Repr

/-- A request held at the home, and the line or page it waits for (R142, R159, R176, R185, R188, R226, R401). -/
structure HeldReq where
  req : Req
  why : HeldWhy
  homeExt : Nat
  page : Nat
  day : Nat
  deriving DecidableEq, Repr

/-- The kinds of move, in the precedence of R182. -/
inductive MoveKind where
  | withdraw | retire | promote | prefetch | den
  deriving DecidableEq, Repr

/-- An ordered move that has not started, and the Day before which it does not (R509). -/
structure MoveOrder where
  homeExt : Nat
  page : Nat
  dest : Tier
  ep : Ep
  trayPage : Nat
  kind : MoveKind
  notBefore : Nat := 0
  deriving DecidableEq, Repr

/-- An open move record (R185). -/
structure MoveRec where
  homeExt : Nat
  page : Nat
  src : Loc
  dst : Loc
  dirty : List Nat
  passes : Nat
  holding : Bool
  kind : MoveKind
  copied : KMap (List Byte)
  deriving DecidableEq, Repr

/-- A source not yet freed (R186): its place, the 64 KiB units it takes and the accesses still translated to it. -/
structure OldSource where
  loc : Loc
  units : Nat
  accesses : Nat
  deriving DecidableEq, Repr

/-- What a frame to a tray or lender serves (R191). -/
inductive FetchWhy where
  | read (req : Req)
  | moveRead (move : Nat) (piece : Nat)
  | moveWrite (move : Nat) (piece : Nat)
  | scrubWrite (item : Nat)
  | sweepFrame (slot : Nat)
  | operand (work : Nat) (block : Nat)
  | piece (copy : Nat) (src dst len : Nat)
  | hash (publication : Nat) (block : Nat)
  deriving DecidableEq, Repr

/-- A frame outstanding to a tray or lender (R191), with the page's place, its codec and the block's tag when it was translated (R186). -/
structure Fetch where
  why : FetchWhy
  frame : Frame
  loc : Loc
  codec : BitVec 3
  tag : BlockTag
  ep : Ep
  homeExt : Nat
  page : Nat
  firstDay : Nat
  lastDay : Nat
  deriving DecidableEq, Repr

/-- Engine or copy work that waits for operand blocks from trays or lenders: the request and the fetches left. -/
structure OperandWait where
  req : Req
  left : List Nat
  blocks : List Nat
  deriving DecidableEq, Repr

/-- A publication (R197 to R199): the Day that committed it, and blocks that trays have sent for its hash. -/
structure Publication where
  comp : BitVec 12
  region : BitVec 32
  version : BitVec 32
  base : Nat
  extents : Nat
  slot : Nat
  hashed : Bool
  hash : BitVec 256
  commitDay : Nat := 0
  blocks : KMap (List Byte) := []
  deriving DecidableEq, Repr

/-- A write of an anchor page that waits for its lines at a Day boundary (R142, R196): the whole layout, line 0, a slot's line with its
state, or pins taken off a slot (R203). -/
inductive AnchorJob where
  | layout
  | current (slot : Nat) (version : BitVec 32) (hash : BitVec 256)
  | slot (slot state : Nat) (v : Publication)
  | unpin (slot count : Nat)
  deriving DecidableEq, Repr

/-- A published region (R196): its anchor page where this module knows it, the versions in it by slot, the slots that are retiring or retired,
the current one, and what is still to write on the anchor page. -/
structure Region where
  comp : BitVec 12
  region : BitVec 32
  anchor : Option Nat
  versions : KMap Publication
  retiring : List Nat
  current : Nat
  todo : List AnchorJob := []
  deriving DecidableEq, Repr

/-- A lend at its home (R204 to R208). -/
structure Lend where
  lender : Ep
  base : Nat
  pages : Nat
  notice : Option Nat
  used : List Nat
  ended : Bool
  deriving DecidableEq, Repr

/-- Channels and ECC of a stack (`SC_CH_STATE`, `SC_ECC`). -/
structure StackSt where
  retired : BitVec 32
  failed : BitVec 32
  penalty : Nat
  worstCh : Nat
  lost : Bool
  corrected : Nat
  penaltyHist : List Nat
  deriving DecidableEq, Repr

/-- The statistics of a Tier engine (`TE_MIG_STATS`, `TE_CODEC_STATS`) and its codec queue. -/
structure TeStats where
  pfLate : Nat
  abandoned : Nat
  moves : Nat
  sizeErr : Nat
  crcErr : Nat
  ovfFull : Nat
  rawBlocks : Nat
  queue : Nat
  deriving DecidableEq, Repr

/-- The module as a home: page tables, storage, directory, ledger, copies, moves, regions and lends. -/
structure HomeSt where
  exts : KMap HomeExt
  poison : List Nat
  tags : KMap Nat
  usedT1 : KMap (List Nat)
  usedT0 : KMap (List Nat)
  stackSt : KMap StackSt
  dir : KMap DirEntry
  dirAge : Nat
  binv : KMap BinvSt
  ledger : KMap LedgerRec
  marks : KMap Mark
  resync : Bool
  copies : KMap CopyWork
  waits : KMap ArmedWait
  held : KMap HeldReq
  orders : KMap MoveOrder
  moves : KMap MoveRec
  olds : KMap OldSource
  upToday : Nat
  downToday : Nat
  t0Today : Nat
  te : KMap TeStats
  heatTick : KMap Nat
  cursor : KMap (List Nat)
  fetches : KMap Fetch
  operandWaits : KMap OperandWait
  fetched : KMap (List Byte)
  regions : KMap Region
  pubs : KMap Publication
  lends : KMap Lend
  deriving DecidableEq, Repr

/-! ## Engines -/

/-- Engine service states (R477). -/
inductive EngState where
  | service | held | retired
  deriving DecidableEq, Repr

/-- An engine's state register and its statistics (R477, R251, R298, R344). The three 16-bit counters are, by kind:
Reduce `LATE`, `DUP`, `TIMEOUTS`; Score `TIMEOUTS`, `POISONED`, `HELD`; Gather `SKIPS`, `BAD_EDGE`, `SKIP_IDX`;
Scrub `PAGES` in the first (32 bits). -/
structure EngineSt where
  state : EngState
  unitResets : Nat
  busy : Nat
  weekResets : Nat
  c0 : Nat
  c1 : Nat
  c2 : Nat
  deriving DecidableEq, Repr

/-- One input of an open chunk (R244): frames by first element, and whether a tag shows it complete. -/
structure ChunkInput where
  frames : KMap (List Byte)
  fromModule : Bool
  deriving DecidableEq, Repr

/-- An open chunk (R245), under the entry and the mode it opened with (R251). -/
structure Chunk where
  node : NodeEntry
  step : BitVec 24
  chunk : Nat
  engine : Nat
  openDay : Nat
  strict : Bool
  epoch : BitVec 16
  inputs : KMap ChunkInput
  search : Option Nat
  deriving DecidableEq, Repr

/-- A closed chunk's record (R248): its status and the inputs that were folded. -/
structure ChunkRecord where
  collId : BitVec 24
  lo : Nat
  hi : Nat
  step : BitVec 24
  chunk : Nat
  comp : BitVec 12
  status : BitVec 8
  day : Nat
  folded : List Nat
  engine : Nat
  deriving DecidableEq, Repr

/-- A frame waiting in an engine's input queue (R245, R292). -/
structure EngWait where
  kind : EngineKind
  engine : Nat
  req : Req
  qdepth : Nat := 0
  deriving DecidableEq, Repr

/-- A vector of a partition: id, vector bytes, its fields for filters. -/
structure VecEntry where
  id : W64
  vec : List Byte
  attr : List (BitVec 32)
  deriving DecidableEq, Repr

/-- A warren entry (R267). -/
structure Warren where
  spec : WarrenSpec
  pFirst : Nat
  pLocal : Nat
  inIdx : Nat
  spareA : Nat
  spareB : Nat
  extFirst : Nat
  deriving DecidableEq, Repr

/-- A partition (R269, R270): body, side list with `INS_DAY`, bitmap, pending tombstones with `DEL_DAY`, directory. -/
structure Part where
  ext : Nat
  gen : BitVec 6
  body : List VecEntry
  side : List (VecEntry × Nat)
  bitmap : List Nat
  pend : KMap Nat
  dir : KMap Nat
  harvesting : Bool
  deriving DecidableEq, Repr

/-- A warren update held under R278: the items still to apply. -/
structure HeldUpdate where
  req : Req
  part : Nat
  items : List (Bool × VecEntry)
  stamp : Nat
  count : Nat
  day : Nat
  deriving DecidableEq, Repr

/-- A Harvest (R284): its partition and die, the settle line, the version as it stood at the start, the new version once the
copy has ended, the answers it owes, and the old extent after the flip until its last query ends. -/
structure HarvestSt where
  part : Nat
  die : Nat
  lineDay : Nat
  start : Part
  next : Option Part
  oldExt : Option (Nat × BitVec 6)
  deriving DecidableEq, Repr

/-- A top-k entry (R252). -/
structure TopEntry where
  key : BitVec 32
  aux : BitVec 32
  id : W64
  deriving DecidableEq, Repr

/-- A search at this module (R292, R293): as coordinator or as a module of the list. -/
structure Search where
  req : Req
  coordinator : Bool
  mergeId : Nat
  mergeEp : Ep
  inIdx : Nat
  snap : Nat
  started : Bool
  done : Bool
  views : KMap Part
  lists : KMap (List TopEntry)
  statuses : KMap (BitVec 8)
  deadline : Nat
  deriving DecidableEq, Repr

/-- A sequence record (R301) with its page map (R303). -/
structure SeqRec where
  state : BitVec 2
  nLayers : Nat
  hKv : Nat
  headDim : Nat
  fmt : BitVec 3
  tpp : Nat
  stride : Nat
  basePos : Nat
  prefix_ : Nat
  parent : BitVec 32
  forked : Bool
  scans : Nat
  len : KMap Nat
  map : KMap Nat
  mapPages : KMap Nat
  comp : BitVec 12
  deriving DecidableEq, Repr

/-- A held append or KV command (R306). -/
structure KvHeld where
  req : Req
  seqId : Nat
  day : Nat
  deriving DecidableEq, Repr

/-- An attention scan or KV assembly at a segment's home (R316, R319, R336). -/
structure KvScan where
  req : Req
  seqId : Nat
  layer : Nat
  coordinator : Option Nat
  mergeId : Nat
  mergeEp : Ep
  segIdx : Nat
  last : Bool
  started : Bool
  ended : Nat
  queries : List Byte
  assembly : Bool
  deadline : Nat
  deriving DecidableEq, Repr

/-- An attention request at its coordinator (R314, R321): the partial records of each segment, as they arrive. -/
structure Attn where
  req : Req
  mergeId : Nat
  segs : Nat
  heads : Nat
  row : Nat
  final : Bool
  outFmt : BitVec 4
  outGfa : Nat
  partials : KMap (KMap (List Byte))
  deadline : Nat
  strict : Bool
  deriving DecidableEq, Repr

/-- Frames of a multi-frame attention sub-request staged before the one at offset 0 (R314). -/
structure SubStage where
  src : Ep
  mergeId : Nat
  slices : KMap (List Byte)
  first : Option Req
  deriving DecidableEq, Repr

/-- Work on a deadline that is still waiting (R343): a Gather, KV assembly or walk request. -/
structure GatherWait where
  req : Req
  deadline : Nat
  deriving DecidableEq, Repr

/-- The completion of an engine command that waits for those of the source's earlier commands on the same engines (R19). -/
structure ParkedAnswer where
  req : Req
  frame : Frame
  notBefore : Nat
  deriving DecidableEq, Repr

/-- Reduce, Score and Gather engines and the services that use them. `used` counts the engine cycles that each composition has used in the
current Day (R18). -/
structure EngSt where
  eng : KMap EngineSt
  chunks : KMap Chunk
  records : KMap ChunkRecord
  queue : KMap EngWait
  warrens : KMap Warren
  parts : KMap Part
  searches : KMap Search
  updates : KMap HeldUpdate
  harvests : KMap HarvestSt
  ordered : KMap (List CmdRef)
  spares : KMap Nat
  seqs : KMap SeqRec
  kvPages : KMap Nat
  kvHeld : KMap KvHeld
  kvScans : KMap KvScan
  attns : KMap Attn
  subStage : KMap SubStage
  gwaits : KMap GatherWait
  used : KMap Nat
  parked : KMap ParkedAnswer
  deriving DecidableEq, Repr

/-! ## The Chronicle -/

/-- The bodies of Chronicle entries (R359). -/
inductive EntryBody where
  | nop
  | void (kind : BitVec 8) (comp : BitVec 12)
  | grant (b : ExtBody)
  | take (b : ExtBody)
  | mode (b : ExtBody)
  | done (idx : BitVec 20)
  | keyRevoke (slot : BitVec 10) (gen : BitVec 6) (destroy : Bool)
  | pubRegion (region : BitVec 32) (anchor : W64)
  | freeze (region version : BitVec 32) (base : W64) (extents : BitVec 16)
  | publication (region version : BitVec 32) (hash : BitVec 256) (base : W64) (reject : Bool)
  | promote (region version : BitVec 32)
  | retire (region version : BitVec 32)
  | pinClear (region version : BitVec 32) (count : BitVec 56)
  | lend (lender : Ep) (base : W64) (pages : BitVec 32) (home : Ep)
  | warren (spec : WarrenSpec)
  | warrenEnd (warren : BitVec 24)
  | almCommit (txn : W64) (flipDay : BitVec 48) (raised : List (BitVec 12))
  | almRollback (txn : W64) (flipDay : BitVec 48)
  | fence (b : FenceBody)
  deriving DecidableEq, Repr

/-- A Chronicle entry (R358). -/
structure Entry where
  index : Nat
  term : Nat
  comp : BitVec 12
  day : Nat
  epoch : BitVec 16
  body : EntryBody
  deriving DecidableEq, Repr

/-- A Finug command that waits for an entry (R463). -/
structure CmdWait where
  m : CmdRef
  ident : BitVec 256
  deriving DecidableEq, Repr

/-- A map command passed to the leader (R352). -/
structure Proposal where
  comp : BitVec 12
  body : EntryBody
  day : Nat
  m : Option CmdRef
  deriving DecidableEq, Repr

/-- An inherited entry being settled (R354): modules asked, answers, and the Day the wait began. -/
structure Settle where
  asked : List Ep
  holds : List Ep
  answered : List Ep
  day : Nat
  deriving DecidableEq, Repr

/-- A vote that has come back (R351): from whom, its term and granted flag, the index of its last stored entry, and the entry it
answers; index 0 is a vote request. `query` marks the answer to a question of R354. -/
structure VoteIn where
  src : Ep
  term : Nat
  granted : Bool
  last : Nat
  about : Nat
  query : Bool
  deriving DecidableEq, Repr

/-- The Chronicle at this module (R349 to R357, `CH_STATUS`, `CH_APPLIED`). -/
structure ChSt where
  role : BitVec 2
  leader : Ep
  term : Nat
  rank : Nat
  applied : Nat
  log : KMap Entry
  commit : Nat
  acks : KMap (List Ep)
  votedTerm : Nat
  votes : List Ep
  lastHeard : Nat
  candSince : Nat
  lastSent : Nat
  entries : KMap Entry
  unacked : KMap (List (Ep × Nat))
  settle : KMap Settle
  waiting : KMap CmdWait
  toLeader : List Proposal
  appliedSet : List Nat
  inbox : List VoteIn
  deriving DecidableEq, Repr

/-! ## Health, scrubbing and the Finug port -/

/-- A report (R421), merged by (subject, class). -/
structure Report where
  subject : Ep
  port : BitVec 16
  kind : BitVec 3
  cls : BitVec 5
  score : BitVec 8
  witnesses : Nat
  first : Ep
  day : Nat
  deriving DecidableEq, Repr

/-- A verdict at the detector (R433). -/
structure Verdict where
  subject : Ep
  port : BitVec 16
  kind : BitVec 3
  cls : BitVec 5
  hard : Bool
  witnesses : Nat
  faultDay : Nat
  day : Nat
  deriving DecidableEq, Repr

/-- Reports, verdicts, fences and the detector's state (R420 to R434). -/
structure HealthSt where
  reports : List Report
  sentToday : Nat
  sentPairs : List (Nat × Nat)
  localCount : Nat
  verdicts : List Verdict
  fenced : KMap Nat
  resend : KMap (Report × Nat)
  probation : KMap Nat
  softThisWeek : KMap Nat
  spares : KMap (List Ep)
  active : List Nat
  expelled : List Nat
  collateral : List Nat
  portsDown : List Nat
  hbTable : KMap Nat
  linkDownSeen : List (Nat × Nat)
  orders : List FenceBody
  deriving DecidableEq, Repr

/-- The kinds of scrub work, in the order of R403. -/
inductive ScrubKind where
  | extent | keyLost | sweep
  deriving DecidableEq, Repr

/-- An item of the Scrub queue (R403): the pages still to do; `comp` and `idx` for an extent scrub; `trayFrames` the frames of a whole
range still to send. -/
structure ScrubItem where
  kind : ScrubKind
  homeExt : Nat
  comp : BitVec 12
  idx : Nat
  pages : List Nat
  trayFrames : Nat
  begun : Bool
  deriving DecidableEq, Repr

/-- A running rotation sweep (R401); a page at a tray or lender is being rewritten to `dest` (R498). -/
structure Sweep where
  pagesLeft : List (Nat × Nat)
  rewriting : Option Nat
  dest : Option Loc
  deriving DecidableEq, Repr

/-- A telemetry note (R466). -/
structure Note where
  stream : Nat
  time : Nat
  seq : Nat
  body : List W64
  deriving DecidableEq, Repr

/-- An answer on its way to the control node (R462, R463), with the key of its tag; none for a message without a tag. -/
structure Answer where
  m : CmdRef
  code : BitVec 16
  status : BitVec 8
  reason : BitVec 16
  body : List Byte
  key : List Byte
  deriving DecidableEq, Repr

/-- A register read or write-back that waits for its sample cycle (R471, R472). -/
structure ReadWait where
  m : CmdRef
  addrs : List (BitVec 48)
  day : Nat
  clears : Bool
  deriving DecidableEq, Repr

/-- The Finug port (R459 to R466, `FN_LINK`). -/
structure FinugSt where
  lane0 : Bool
  lane1 : Bool
  crcErr : Nat
  retx : Nat
  rxExpect : BitVec 32
  txSeq : BitVec 32
  unacked : KMap (List Byte)
  control : List (Bool × BitVec 32)
  wire : List (Bool × List Byte)
  partialMsg : List Byte
  inbox : List (CmdRef × Nat × List Byte)
  out : List Answer
  codes : List (CmdRef × BitVec 16)
  txMsg : BitVec 32
  ackHeard : Nat
  lastFrame : Nat
  stored : List Answer
  storedIdent : KMap (BitVec 256)
  notes : KMap (List Note)
  noteSeq : KMap Nat
  dropped : KMap Nat
  reads : KMap ReadWait
  deriving DecidableEq, Repr

/-! ## The whole state -/

/-- The module. `pending` is the queue of commands waiting, first in first out; `nextId` and `freeTick` are the model's own. -/
structure State where
  variant : Variant
  time : TimeSt
  eqx : EqxSt
  power : PowerSt
  rst : ResetSt
  den : DenSt
  kp : KeeperSt
  alm : AlmSt
  ports : KMap PortSt
  lanes : KMap LaneSt
  xb : XbSt
  comps : KMap CompSt
  home : HomeSt
  mem : List Host.Cell
  eng : EngSt
  ch : ChSt
  health : HealthSt
  scrub : KMap ScrubItem
  sweeps : KMap Sweep
  fn : FinugSt
  meterReset : BitVec 2 × Option Nat
  nextId : Nat
  freeTick : Nat
  pending : List Instr
  deriving DecidableEq, Repr

/-! ## Reset values -/

/-- The module settings of an empty Almanac: the defaults of the rules (R113, R114, R117, R149, R174, R181, R456). -/
def Settings.default : Settings where
  bufSlices := 16
  pageTableSlices := 16
  dirSlices := 0
  l3Slices := 0
  mirrorSlices := 0
  calendarSlices := 0
  warrenSlices := 0
  objectSlices := 0
  pageSlices := []
  heatLog2 := 6
  upPagesDay := 16
  downPagesDay := 16
  t0PagesDay := 64
  movesMax := 16
  t1FreeFloor := 16384
  promoteHeat := 16
  t0Heat := 64
  demoteHeat := 1
  combineWindow := 64
  combineFixed := false
  overcommit := 2
  tc0Reserve := [0, 0]
  weights := [8, 8, 8, 4, 2]
  funcEn := 0xFF
  drainFn := 1024

/-- The health policy's defaults (R419), and the soft lane thresholds of R109. -/
def Policy.default : Policy where
  hbDead := 16
  scoreOk := 192
  scoreSoft := 96
  spares := []
  spareModules := []
  spareFloor := 1
  expelMax := 2
  corrMin := 4
  corrShare := 4
  probationDays := 4096
  reportMax := 64
  solWeeks := 16
  softUncorrDays := 2
  softRatioLog10 := 5

/-- An Almanac that binds nothing. -/
def Almanac.empty : Almanac where
  self := 0
  imgSeq := 0
  txnId := 0
  fabricHash := 0
  reqUnits := 0
  reqMem := 0
  settings := Settings.default
  split := []
  ports := []
  comps := []
  templates := []
  weekPlan := []
  flows := []
  nodes := []
  mcast := []
  policy := Policy.default
  members := []
  topo := { modules := [], endpoints := [], links := [] }
  denied := []
  sections := []

/-- Health of a port that has just come up: f starts at 0 and Days before count as 0 (R416). -/
def PortHealth.init : PortHealth where
  pLink := [0, 0, 0, 0, 0]
  pHb := [0, 0, 0, 0, 0]
  pEcc := [0, 0, 0, 0, 0]
  pTemp := [0, 0, 0, 0, 0]
  fLink := 0
  fHb := 0
  fEcc := 0
  fTemp := 0
  hbSeen := false
  hbMiss := 0
  hbEcc := 0
  hbTemp := 0
  failures := 0
  worstToday := 0
  standing := 0
  softLinkDay := none
  softPeerDay := none
  goodDays := 0
  linkDays := 0

/-- A logical port at reset: down, with its registers at their reset values (R476, `PT_LINK_DELAY`). -/
def PortSt.init : PortSt where
  up := false
  retraining := false
  delay := 0
  delayValid := false
  treeExcl := false
  malformed := 0
  tailPoison := 0
  gcmFail := 0
  tc0Misfit := 0
  txSeq := 0
  rxExpect := 0
  unacked := []
  sent := []
  resendQ := []
  wire := []
  slotUsed := none
  txTc0 := none
  txOther := none
  nakSent := false
  lastCtrl := 0
  lastAck := 0
  ackHeard := 0
  credInit := []
  advertised := []
  credFreed := []
  credSent := []
  rxFreed := []
  withheld := []
  tc6Sent := []
  tc6Wait := []
  openTc0 := none
  openOther := none
  laneOrder := []
  deficit := [0, 0, 0, 0, 0]
  w := 64
  wElig := 0
  wComb := 0
  mirCount := 0
  control := []
  health := PortHealth.init

/-- A lane at power-on reset: the last four lanes of each chiplet are idle spares (R9, `PT_LANE_STATUS` ROLE). -/
def LaneSt.init (lane : Nat) : LaneSt where
  serves := 0
  uncorr := 0
  corrSym := 0
  role := if lane % 68 < 64 then 0 else 1
  lock := false
  spared := false
  polInv := false
  switchDay := none
  toSpare := none
  listening := false

/-- A metering record at reset (R372). -/
def Meter.zero : Meter := { t0 := 0, t1 := 0, t2 := 0, t2n := 0, re := 0, se := 0, ge := 0, week := 0 }

/-- A composition of which the module knows nothing yet: epoch 0x0000 and no extents (R348). -/
def CompSt.init : CompSt where
  epoch := 0
  epochDay := 0
  graceEnd := none
  ext := []
  old := []
  rev := []
  keySlot := 0
  violKind := 0
  violSrc := 0
  violCount := 0
  meter := Meter.zero
  snap := Meter.zero

/-- An Extent Table entry at reset: not granted (R137). -/
def ExtEntry.none_ : ExtEntry where
  home := 0
  mode := 0
  state := 0
  writer := 0
  homeExt := 0
  published := false
  svc := false

/-- A page-table entry at reset: unmapped, `TIER` 0b01 (R175). -/
def Pte.init : Pte where
  loc := .t1 0 0
  state := .unmapped
  codec := 0
  pro := false
  pin := false
  anchor := false
  written := false
  heat := 0
  move := 0
  hold := 0

/-- A block tag at reset (R222). -/
def BlockTag.init : BlockTag := { raw := false, bpoison := false, stored := 0, escape := none }

/-- A stack at reset (`SC_CH_STATE`, `SC_ECC`). -/
def StackSt.init : StackSt where
  retired := 0
  failed := 0
  penalty := 0
  worstCh := 0
  lost := false
  corrected := 0
  penaltyHist := []

/-- Tier engine statistics at reset. -/
def TeStats.init : TeStats where
  pfLate := 0
  abandoned := 0
  moves := 0
  sizeErr := 0
  crcErr := 0
  ovfFull := 0
  rawBlocks := 0
  queue := 0

/-- An engine at reset: in service (R477), counters zero. -/
def EngineSt.init : EngineSt where
  state := .service
  unitResets := 0
  busy := 0
  weekResets := 0
  c0 := 0
  c1 := 0
  c2 := 0

/-- A key slot at reset: free (`KP_SLOT`). -/
def KeySlot.init : KeySlot := { state := 0, gen := 0, comp := 0, sweepExt := 0, sweepPage := 0, keys := [] }

/-- The Day count at reset: cleared (R25). -/
def TimeSt.init : TimeSt where
  day := 0
  cycle := 0
  extra := false
  dayLen := 4096
  leapCount := 0
  skew := 0
  diffs := []
  meds := []
  skewAlarm := false
  aligned := false
  root := false
  treeDepth := 0
  over4 := 0
  freeRun := false
  hasCount := false

/-- No Equinox running. -/
def EqxSt.init : EqxSt where
  phase := 0
  offers := []
  parent := none
  echoes := []
  startCycle := none
  out := false
  heldDown := []
  stuck := []
  unmeasured := []
  late := []
  stacksDown := []
  bridgeDown := false
  rejoin := false
  done := false

/-- Power at reset: P0 with the limits of `ST_THRESH`. -/
def PowerSt.init : PowerSt where
  pstate := .p0
  inputOn := true
  pwrEn := true
  leakLow := false
  thermtripLow := false
  alertLow := false
  tThrottle := 100
  pLimit := 1800
  pNow := 0
  tMax := 0
  step := 0
  okSamples := 0
  junctionHist := []
  stackHist := []
  throttledDay := false
  throttledPrev := false

/-- No reset ordered or running. -/
def ResetSt.init : ResetSt :=
  { order := none, running := none, answerTo := none, units := [], selfFenced := false, unaligned := false }

/-- The Den at reset (`DN_STATUS`, `ST_WDOG`). -/
def DenSt.init : DenSt := { coreUp := 0, retired := 0, lastKick := [], weekExpiries := [], expired := 0 }

/-- The Keeper at reset (`KP_STATUS`, `KP_LMS`, `KP_MBOX_STAT`). -/
def KeeperSt.init : KeeperSt where
  idOk := false
  idFail := false
  identity := 0
  ownerRoot := none
  activeSlot := false
  fwPending := false
  fallback := false
  entropyFail := false
  badMac := 0
  svnFw := 0
  tree := 0
  qNext := 0
  qRes := 0
  nextReady := false
  building := false
  topCacheOk := true
  exhausted := false
  tokens := 1024
  signQueue := []
  drbg := 0
  ready := []
  slots := []
  sessions := []
  handshakes := []
  linkKeys := []
  linkHs := []
  mboxBusy := false
  mboxDone := false
  mboxOverrun := false
  mboxRlen := 0
  mboxStatus := 0
  mboxCode := 0
  mboxLen := 0
  mboxBuf := []
  fwSlots := []
  bootOther := false
  noImage := false

/-- The Almanac banks at reset (`AL_BANK`, `AL_TXN`). -/
def AlmSt.init : AlmSt where
  cur := Almanac.empty
  curBank := false
  seq := 0
  txnState := .idle
  txnId := 0
  participants := []
  openDay := 0
  sealDay := 0
  staged := []
  stagedImage := none
  banks := []
  pending := none
  leader := none
  rollbacks := []
  drains := []
  waiting := none

/-- The crossbar at reset (R476, `XB_MIR_CTRL` with `SAMPLE_LOG2` 0x1F). -/
def XbSt.init : XbSt where
  queue := []
  ecRebuilt := 0
  ecLost := 0
  fenceLate := 0
  mirLost := 0
  pushout := []
  mirCtrl := 0x3E00000000000000
  mirRules := []
  mirRing := []
  mirNext := 0
  regWrites := []
  combine := []
  waiting := []
  pins := []
  outstanding := []
  flagged := []
  leases := []
  ec := []
  copies := []
  template := none
  own := []
  seqOf := []
  tc0Worst := []
  loop := []

/-- The home side at reset: nothing granted, nothing stored. -/
def HomeSt.init : HomeSt where
  exts := []
  poison := []
  tags := []
  usedT1 := []
  usedT0 := []
  stackSt := []
  dir := []
  dirAge := 0
  binv := []
  ledger := []
  marks := []
  resync := false
  copies := []
  waits := []
  held := []
  orders := []
  moves := []
  olds := []
  upToday := 0
  downToday := 0
  t0Today := 0
  te := []
  heatTick := []
  cursor := []
  fetches := []
  operandWaits := []
  fetched := []
  regions := []
  pubs := []
  lends := []

/-- The engines at reset: idle. -/
def EngSt.init : EngSt where
  eng := []
  chunks := []
  records := []
  queue := []
  warrens := []
  parts := []
  searches := []
  updates := []
  harvests := []
  ordered := []
  spares := []
  seqs := []
  kvPages := []
  kvHeld := []
  kvScans := []
  attns := []
  subStage := []
  gwaits := []
  used := []
  parked := []

/-- The Chronicle at reset (`CH_STATUS`, `CH_APPLIED`). -/
def ChSt.init : ChSt where
  role := 0
  leader := 0
  term := 0
  rank := 0
  applied := 0
  log := []
  commit := 0
  acks := []
  votedTerm := 0
  votes := []
  lastHeard := 0
  candSince := 0
  lastSent := 0
  entries := []
  unacked := []
  settle := []
  waiting := []
  toLeader := []
  appliedSet := []
  inbox := []

/-- No reports, verdicts or fences. -/
def HealthSt.init : HealthSt where
  reports := []
  sentToday := 0
  sentPairs := []
  localCount := 0
  verdicts := []
  fenced := []
  resend := []
  probation := []
  softThisWeek := []
  spares := []
  active := []
  expelled := []
  collateral := []
  portsDown := []
  hbTable := []
  linkDownSeen := []
  orders := []

/-- The Finug port at reset (`FN_LINK`). -/
def FinugSt.init : FinugSt where
  lane0 := false
  lane1 := false
  crcErr := 0
  retx := 0
  rxExpect := 0
  txSeq := 0
  unacked := []
  control := []
  wire := []
  partialMsg := []
  inbox := []
  out := []
  codes := []
  txMsg := 0
  ackHeard := 0
  lastFrame := 0
  stored := []
  storedIdent := []
  notes := []
  noteSeq := []
  dropped := []
  reads := []

/-- The module right after reset. -/
def State.reset : State where
  variant := .f9616
  time := TimeSt.init
  eqx := EqxSt.init
  power := PowerSt.init
  rst := ResetSt.init
  den := DenSt.init
  kp := KeeperSt.init
  alm := AlmSt.init
  ports := []
  lanes := []
  xb := XbSt.init
  comps := []
  home := HomeSt.init
  mem := []
  eng := EngSt.init
  ch := ChSt.init
  health := HealthSt.init
  scrub := []
  sweeps := []
  fn := FinugSt.init
  meterReset := (2, none)
  nextId := 0
  freeTick := 0
  pending := []

end Sys2Proof.Machine
end

