-- ==== Sys2Proof/Machine/Table.lean ====
section
/-! DEFINITION. Operations on finite tables: lists of key and value pairs whose keys rise strictly. -/

namespace Sys2Proof.Machine

/-- Put an element into a sorted list, before the first that it does not come after. -/
def insertBy {α : Type} (le : α → α → Bool) (x : α) (l : List α) : List α :=
  match l with
  | [] => [x]
  | y :: r => if le x y then x :: y :: r else y :: insertBy le x r

/-- A list in order, equal elements as they stood. -/
def sortBy {α : Type} (le : α → α → Bool) (l : List α) : List α := l.foldr (insertBy le) []

/-- The value under a key. -/
def KMap.find {α : Type} (m : KMap α) (k : Nat) : Option α :=
  match m with
  | [] => none
  | (k', v) :: r => if k' = k then some v else KMap.find r k

/-- The value under a key, or a default. -/
def KMap.getD {α : Type} (m : KMap α) (k : Nat) (d : α) : α := (KMap.find m k).getD d

/-- Set the value under a key, keeping keys rising. -/
def KMap.put {α : Type} (m : KMap α) (k : Nat) (v : α) : KMap α :=
  match m with
  | [] => [(k, v)]
  | (k', v') :: r =>
    if k < k' then (k, v) :: (k', v') :: r
    else if k = k' then (k, v) :: r
    else (k', v') :: KMap.put r k v

/-- Remove a key. -/
def KMap.del {α : Type} (m : KMap α) (k : Nat) : KMap α :=
  match m with
  | [] => []
  | (k', v') :: r => if k' = k then KMap.del r k else (k', v') :: KMap.del r k

/-- Change the value under a key, starting from a default. -/
def KMap.upd {α : Type} (m : KMap α) (k : Nat) (d : α) (f : α → α) : KMap α := KMap.put m k (f (KMap.getD m k d))

/-- Change every value. -/
def KMap.mapVals {α β : Type} (m : KMap α) (f : α → β) : KMap β := m.map (fun p => (p.1, f p.2))

/-- Keep the pairs that satisfy a test. -/
def KMap.keep {α : Type} (m : KMap α) (f : Nat → α → Bool) : KMap α := m.filter (fun p => f p.1 p.2)

/-- The first pair, in key order, that satisfies a test. -/
def KMap.first? {α : Type} (m : KMap α) (f : Nat → α → Bool) : Option (Nat × α) := m.find? (fun p => f p.1 p.2)

/-- The keys of a table rise strictly. -/
def KMap.wf {α : Type} (m : KMap α) : Bool :=
  match m with
  | [] => true
  | [_] => true
  | (a, _) :: (b, v) :: r => decide (a < b) && KMap.wf ((b, v) :: r)

/-- Add one to a saturating counter of the given width. -/
def satAdd (width n k : Nat) : Nat := min (n + k) (2 ^ width - 1)

/-- Remove the first element that equals `x`. -/
def removeOne {α : Type} [DecidableEq α] (l : List α) (x : α) : List α := l.erase x

/-- Add an element to a list without repeats. -/
def addOnce {α : Type} [DecidableEq α] (l : List α) (x : α) : List α := if x ∈ l then l else l ++ [x]

end Sys2Proof.Machine
end

