-- ==== Sys2Proof/Machine/Operands.lean ====
section
/-! DEFINITION. Operand forms: bytes and words, bit fields, the frame header as bytes, addresses, and the descriptors
that payloads carry. -/

namespace Sys2Proof.Machine

/-! ## Bytes, words and bit fields -/

/-- The number spelled by bytes, most significant first (R67). -/
def beNat (bs : List Byte) : Nat := bs.foldl (fun n b => n * 256 + b.toNat) 0

/-- The number spelled by bytes, least significant first: element data (log 11). -/
def leNat (bs : List Byte) : Nat := beNat bs.reverse

/-- A number as `n` bytes, most significant first. -/
def beBytes (n v : Nat) : List Byte := (List.range n).map (fun i => BitVec.ofNat 8 (v / 256 ^ (n - 1 - i)))

/-- A number as `n` bytes, least significant first (log 11). -/
def leBytes (n v : Nat) : List Byte := (List.range n).map (fun i => BitVec.ofNat 8 (v / 256 ^ i))

/-- Bits `hi` down to `lo` of a number. -/
def bits (hi lo v : Nat) : Nat := v / 2 ^ lo % 2 ^ (hi + 1 - lo)

/-- Bit `i` of a number. -/
def bit (i v : Nat) : Bool := v / 2 ^ i % 2 == 1

/-- A Boolean as a bit. -/
def b2n (b : Bool) : Nat := if b then 1 else 0

/-- Word `n` of a payload: bytes 8n to 8n+7, most significant first, zero beyond the payload. -/
def wordAt (bs : List Byte) (n : Nat) : Nat := beNat ((bs.drop (8 * n)).take 8) * 256 ^ (8 - ((bs.drop (8 * n)).take 8).length)

/-- Words as bytes. -/
def wordsBytes (ws : List Nat) : List Byte := ws.flatMap (beBytes 8)

/-- `n` zero bytes. -/
def zeros (n : Nat) : List Byte := List.replicate n 0

/-- Pad with zeros, or cut, to `n` bytes. -/
def padTo (n : Nat) (bs : List Byte) : List Byte := bs.take n ++ zeros (n - bs.length)

/-- Cut a list into pieces of `n` elements; the fuel is the list's length. -/
def chunksOf {α : Type} (n fuel : Nat) (l : List α) : List (List α) :=
  match fuel with
  | 0 => []
  | f + 1 => if l.isEmpty then [] else l.take n :: chunksOf n f (l.drop n)

/-- Bytewise exclusive or, the shorter padded with zeros (R50). -/
def xorBytes (a b : List Byte) : List Byte :=
  let n := max a.length b.length
  List.zipWith (· ^^^ ·) (padTo n a) (padTo n b)

/-- Replace bytes of a list from position `o`. -/
def overlay (base : List Byte) (o : Nat) (bs : List Byte) : List Byte :=
  base.take o ++ bs ++ base.drop (o + bs.length)

/-! ## Checksums -/

/-- One byte of CRC-32C, reflected (R68). -/
def crc32cByte (c : Nat) (b : Byte) : Nat :=
  (List.range 8).foldl (fun c _ => if c % 2 = 1 then (c / 2) ^^^ 0x82F63B78 else c / 2) (c ^^^ b.toNat)

/-- CRC-32C with the parameters of R68. -/
def crc32c (bs : List Byte) : BitVec 32 := BitVec.ofNat 32 (bs.foldl crc32cByte 0xFFFFFFFF ^^^ 0xFFFFFFFF)

/-- `PCRC` of a payload: an empty payload carries zero (R97). -/
def payloadCrc (bs : List Byte) : BitVec 32 := if bs.isEmpty then 0 else crc32c bs

/-- CRC-16 with polynomial 0x8BB7 over the high 112 bits of a control word (R98; log 16 for its initial value). -/
def crc16 (v : Nat) : Nat :=
  (List.range 112).foldl (fun c i =>
    let top := (c / 32768 % 2) != (v / 2 ^ (111 - i) % 2)
    let c' := c * 2 % 65536
    if top then c' ^^^ 0x8BB7 else c') 0

/-! ## The header as bytes (R67) -/

/-- The eight words of a header, `HCRC` left zero. -/
def headerWords (h : Header) : List Nat :=
  [ h.version.toNat * 2 ^ 60 + h.cls.toNat * 2 ^ 57 + h.opcode.toNat * 2 ^ 49 + h.flags.toNat * 2 ^ 36
      + h.dest.toNat * 2 ^ 20 + h.src.toNat * 2 ^ 4,
    h.comp.toNat * 2 ^ 52 + h.epoch.toNat * 2 ^ 36 + h.tenant.toNat * 2 ^ 24 + h.keySlot.toNat * 2 ^ 14
      + h.keyGen.toNat * 2 ^ 8 + h.status.toNat,
    h.seq.toNat * 2 ^ 32 + h.length.toNat * 2 ^ 16,
    h.addr.toNat,
    h.etag.toNat,
    h.stepLo.toNat * 2 ^ 40 + h.tstamp.toNat * 2 ^ 8,
    0,
    0 ]

/-- Header bytes 0 to 59, over which `HCRC` is taken (R68). -/
def headerBytes60 (h : Header) : List Byte := (wordsBytes (headerWords h)).take 60

/-- `HCRC` of a header (R68). -/
def hcrc (h : Header) : BitVec 32 := crc32c (headerBytes60 h)

/-- The 64 bytes of a header as it is sent. -/
def headerBytes (h : Header) : List Byte := headerBytes60 h ++ beBytes 4 (hcrc h).toNat

/-- The fields of a header read from its bytes. -/
def parseHeader (bs : List Byte) : Header :=
  let w := wordAt bs
  { version := .ofNat 4 (bits 63 60 (w 0)), cls := .ofNat 3 (bits 59 57 (w 0)), opcode := .ofNat 8 (bits 56 49 (w 0)),
    flags := .ofNat 13 (bits 48 36 (w 0)), dest := .ofNat 16 (bits 35 20 (w 0)), src := .ofNat 16 (bits 19 4 (w 0)),
    comp := .ofNat 12 (bits 63 52 (w 1)), epoch := .ofNat 16 (bits 51 36 (w 1)), tenant := .ofNat 12 (bits 35 24 (w 1)),
    keySlot := .ofNat 10 (bits 23 14 (w 1)), keyGen := .ofNat 6 (bits 13 8 (w 1)), status := .ofNat 8 (bits 7 0 (w 1)),
    seq := .ofNat 32 (bits 63 32 (w 2)), length := .ofNat 16 (bits 31 16 (w 2)), addr := .ofNat 64 (w 3),
    etag := .ofNat 64 (w 4), stepLo := .ofNat 24 (bits 63 40 (w 5)), tstamp := .ofNat 32 (bits 39 8 (w 5)) }

/-- Whether the 64 bytes of a received header pass `HCRC` (R68). -/
def hcrcPasses (bs : List Byte) : Bool :=
  beNat ((bs.drop 60).take 4) == (crc32c (bs.take 60)).toNat

/-- The bytes of a whole frame. -/
def frameBytes (f : Frame) : List Byte := headerBytes f.hdr ++ f.payload

/-- Cells of a frame with a payload of `n` bytes (R69, R95). -/
def cellsOf (n : Nat) : Nat := (64 + n + 255) / 256

/-! ## Flags (R73) -/

end Sys2Proof.Machine

namespace Sys2Proof

/-- `FENCE`. -/
def Header.isFence (h : Header) : Bool := h.flags.getLsbD 12
/-- `MAY_VARY`. -/
def Header.mayVary (h : Header) : Bool := h.flags.getLsbD 11
/-- `LAST_OF_STEP`. -/
def Header.lastOfStep (h : Header) : Bool := h.flags.getLsbD 10
/-- `RESP`. -/
def Header.isResp (h : Header) : Bool := h.flags.getLsbD 9
/-- `RETRY`. -/
def Header.isRetry (h : Header) : Bool := h.flags.getLsbD 8
/-- `NO_COMBINE`. -/
def Header.noCombine (h : Header) : Bool := h.flags.getLsbD 7

end Sys2Proof

namespace Sys2Proof.Machine

/-- `MAY_VARY` as a mask. -/
def flagMayVary : BitVec 13 := 0x800
/-- `RETRY` alone. -/
def flagRetry : BitVec 13 := 0x100
/-- `RESP` as a mask. -/
def flagResp : BitVec 13 := 0x200

/-! ## Opcodes (R76) and classes (R74) -/

/-- Opcodes assigned by the table "Opcodes". -/
def assignedOps : List Nat :=
  [0x10, 0x11, 0x14, 0x15, 0x18, 0x20, 0x21, 0x22, 0x23, 0x24, 0x25, 0x26, 0x27, 0x28, 0x29, 0x2A, 0x2B, 0x30, 0x31, 0x32,
   0x33, 0x40, 0x41, 0x42, 0x48, 0x49, 0x4A, 0x50, 0x51, 0x52, 0x53, 0x54, 0x70, 0x71, 0x72, 0x73, 0x80, 0x81, 0x82, 0x83,
   0x84, 0x85]

/-- Opcodes whose frames get no completion: the table's "—". -/
def noCompletionOps : List Nat := [0x33, 0x41, 0x4A, 0x70, 0x71, 0x72, 0x73, 0x81, 0x82, 0x83, 0x84, 0x85]

/-- Opcodes routed by address. -/
def addressRouted (op : Nat) : Bool :=
  decide (op = 0x10 ∨ op = 0x11 ∨ op = 0x14 ∨ op = 0x15 ∨ (0x20 ≤ op ∧ op ≤ 0x2B) ∨ op = 0x30 ∨ op = 0x32)

/-- Whether an opcode is an atomic. -/
def isAtomic (op : Nat) : Bool := decide (0x20 ≤ op ∧ op ≤ 0x2B)

/-- Whether an opcode is a fetch-add. -/
def isFadd (op : Nat) : Bool := decide (0x20 ≤ op ∧ op ≤ 0x23)

/-- Stores of R161: `WR`, `WR_APPEND` and atomics. -/
def isStoreOp (op : Nat) : Bool := decide (op = 0x14 ∨ op = 0x15) || isAtomic op

/-- Whether a class carries an opcode (R74). `fromModule` allows the TC6 `RD` and `WR` that only a module sends. -/
def classCarries (cls op : Nat) (fromModule : Bool) : Bool :=
  match cls with
  | 0 => assignedOps.contains op && !noCompletionOps.contains op || op == 0x70
  | 1 => decide ((0x80 ≤ op ∧ op ≤ 0x8F) ∨ (0x71 ≤ op ∧ op ≤ 0x73))
  | 2 => decide (0x20 ≤ op ∧ op ≤ 0x2F)
  | 3 => decide (op = 0x10 ∨ op = 0x11)
  | 4 => decide (0x14 ≤ op ∧ op ≤ 0x18)
  | 5 => decide (0x40 ≤ op ∧ op ≤ 0x6F)
  | 6 => decide (0x30 ≤ op ∧ op ≤ 0x33) || (fromModule && decide (op = 0x10 ∨ op = 0x14))
  | _ => decide (op = 0x10 ∨ op = 0x14 ∨ op = 0x31)

/-- The class in which an opcode travels when nothing else names one (R74). -/
def ownClass (op : Nat) : BitVec 3 :=
  if op = 0x70 then 0
  else if 0x71 ≤ op ∧ op ≤ 0x8F then 1
  else if 0x20 ≤ op ∧ op ≤ 0x2F then 2
  else if op = 0x10 ∨ op = 0x11 then 3
  else if 0x14 ≤ op ∧ op ≤ 0x18 then 4
  else if 0x40 ≤ op ∧ op ≤ 0x6F then 5
  else 6

/-- Operand bytes of an atomic (R76, R77); 0 when `ETAG` names no valid type. -/
def atomicBytes (op : Nat) (etag : W64) : Nat :=
  let ty := etag.toNat % 8
  let sized := if ty = 0 ∨ ty = 2 ∨ ty = 4 then 4 else if ty = 1 ∨ ty = 3 then 8 else if ty = 5 then 2 else 0
  if op = 0x20 ∨ op = 0x22 then 4
  else if op = 0x21 ∨ op = 0x27 then 8
  else if op = 0x23 then 2
  else if op = 0x28 then 16
  else if op = 0x24 ∨ op = 0x25 ∨ op = 0x26 then sized
  else if op = 0x29 ∨ op = 0x2A ∨ op = 0x2B then (if ty < 4 then sized else 0)
  else 0

/-- Payload bytes of an atomic's request: a compare and a swap for the two CAS forms (R76). -/
def atomicPayload (op : Nat) (etag : W64) : Nat :=
  if op = 0x27 then 16 else if op = 0x28 then 32 else atomicBytes op etag

/-! ## Fabric addresses (R136) -/

/-- Extent index, bits 49:30. -/
def extOf (a : W64) : Nat := bits 49 30 a.toNat
/-- Page within the extent, bits 29:16. -/
def pageOf (a : W64) : Nat := bits 29 16 a.toNat
/-- Byte within the page. -/
def byteOf (a : W64) : Nat := bits 15 0 a.toNat
/-- An address lies outside every extent when bits 63:50 are not all zero (R136). -/
def outsideExtents (a : W64) : Bool := decide (a.toNat ≥ 2 ^ 50)
/-- The directory key of a line: home extent and line within it (1 GiB of 128-byte lines). -/
def lineKey (homeExt page off : Nat) : Nat := homeExt * 2 ^ 23 + page * 512 + off / 128

/-- The key of a ledger record or of an outstanding request. -/
def pairKey (a : Ep) (seq : BitVec 32) : Nat := a.toNat * 2 ^ 32 + seq.toNat

/-! ## Time (R24) -/

/-- `TSTAMP`: the low 20 bits of the Day and 12 bits of the cycle. -/
def stampOf (day cycle : Nat) : BitVec 32 := .ofNat 32 (day % 2 ^ 20 * 4096 + cycle % 4096)

/-- The whole Day a stamp names: the Day within 2^19 of the receiver's own whose low 20 bits match (R24). -/
def stampDay (day : Nat) (t : BitVec 32) : Nat :=
  let d := (t.toNat / 4096 + 2 ^ 20 - day % 2 ^ 20) % 2 ^ 20
  if d < 2 ^ 19 then day + d else day - (2 ^ 20 - d)

end Sys2Proof.Machine
end

