-- ==== Sys2Proof/Machine/Aes.lean ====
section
/-! DEFINITION. AES-256 with its XTS mode, under which the stack controllers keep lines (R399), and its GCM mode, which protects frames on
fabric ports (R395). -/

namespace Sys2Proof.Machine

/-! ## Bytes as field elements -/

/-- Twice a byte in the field of AES. -/
def aesDouble (x : Nat) : Nat := if x < 128 then 2 * x else (2 * x) ^^^ 0x11B

/-- A product in the field of AES. -/
def aesMul (a b : Nat) : Nat :=
  (List.range 8).foldl (fun r i => aesDouble r ^^^ (if b.testBit (7 - i) then a else 0)) 0

/-- The inverse of a byte, its 254th power; 0 of 0. -/
def aesInv (a : Nat) : Nat :=
  let p := (List.range 6).foldl (fun r _ => aesMul (aesMul r r) a) a
  aesMul p p

/-- A byte turned left by some bits. -/
def turnByte (b n : Nat) : Nat := b * 2 ^ n % 256 ||| b / 2 ^ (8 - n)

/-- The substitution of a byte. -/
def aesSub (a : Nat) : Nat := [1, 2, 3, 4].foldl (fun x n => x ^^^ turnByte (aesInv a) n) (aesInv a ^^^ 0x63)

/-- The substitution taken back. -/
def aesUnsub (c : Nat) : Nat := aesInv (turnByte c 1 ^^^ turnByte c 3 ^^^ turnByte c 6 ^^^ 0x05)

/-! ## Blocks: 16 bytes, column by column -/

/-- Add bytes to bytes. -/
def aesAdd (a b : List Nat) : List Nat := a.zipWith (· ^^^ ·) b

/-- Each row turned by its number of columns; by three times that, the turn is taken back. -/
def aesRows (n : Nat) (s : List Nat) : List Nat := (List.range 16).map (fun i => s.getD ((i + 4 * n * (i % 4)) % 16) 0)

/-- Each column multiplied by the matrix whose rows are turns of some coefficients. -/
def aesMix (m s : List Nat) : List Nat :=
  (List.range 16).map (fun i =>
    (List.range 4).foldl (fun x j => x ^^^ aesMul (m.getD ((j + 4 - i % 4) % 4) 0) (s.getD (i / 4 * 4 + j) 0)) 0)

/-- The round keys of a 32-byte key, each of 16 bytes: 60 words, the newest in front while they are made. -/
def aesKeys (key : List Nat) : List (List Nat) :=
  let word (ws : List (List Nat)) (n : Nat) : List (List Nat) :=
    let last := ws.getD 0 []
    let mixed := if n % 8 = 0 then aesAdd ((last.drop 1 ++ last.take 1).map aesSub) [2 ^ (n / 8 - 1), 0, 0, 0]
      else if n % 8 = 4 then last.map aesSub
      else last
    aesAdd (ws.getD 7 []) mixed :: ws
  let ws := ((List.range 52).foldl (fun ws i => word ws (i + 8)) (chunksOf 4 32 key).reverse).reverse
  (chunksOf 4 60 ws).map (fun k => k.flatMap id)

/-- One block under AES-256. -/
def aesEncrypt (keys : List (List Nat)) (b : List Nat) : List Nat :=
  let s := ((keys.drop 1).take 13).foldl (fun s k => aesAdd (aesMix [2, 3, 1, 1] (aesRows 1 (s.map aesSub))) k) (aesAdd b (keys.headD []))
  aesAdd (aesRows 1 (s.map aesSub)) (keys.getD 14 [])

/-- One block back. -/
def aesDecrypt (keys : List (List Nat)) (b : List Nat) : List Nat :=
  let s := ((keys.drop 1).take 13).reverse.foldl (fun s k => aesMix [14, 11, 13, 9] (aesAdd ((aesRows 3 s).map aesUnsub) k)) (aesAdd b (keys.getD 14 []))
  aesAdd ((aesRows 3 s).map aesUnsub) (keys.headD [])

/-! ## Lines (R399) -/

/-- The mask of a data unit's block: the encrypted tweak times the `n`-th power of the field's generator. -/
def xtsMask (t : BitVec 128) (n : Nat) : BitVec 128 :=
  match n with
  | 0 => t
  | k + 1 => let m := xtsMask t k; (m <<< 1) ^^^ (if m.msb then 0x87 else 0)

/-- A line of 128 bytes as one data unit, or back. The first half of the 64-byte key encrypts data and the second the tweak, which is
encoded little-endian (log 13). -/
def xtsLine (enc : Bool) (key : List Byte) (tweak : BitVec 128) (line : List Byte) : List Byte :=
  let nats (l : List Byte) : List Nat := l.map (·.toNat)
  let data := aesKeys (nats (key.take 32))
  let t := aesEncrypt (aesKeys (nats (key.drop 32))) (nats (leBytes 16 tweak.toNat))
  let start : BitVec 128 := .ofNat 128 (leNat (t.map (BitVec.ofNat 8)))
  (chunksOf 16 line.length line).zipIdx.flatMap (fun p =>
    let mask := nats (leBytes 16 (xtsMask start p.2).toNat)
    let x := aesAdd (padTo 16 p.1 |> nats) mask
    (aesAdd (if enc then aesEncrypt data x else aesDecrypt data x) mask).map (BitVec.ofNat 8))

/-! ## Frames (R395) -/

/-- A block of the key stream: the IV with a 32-bit counter. -/
def gcmBlock (keys : List (List Nat)) (iv n : Nat) : List Byte :=
  (aesEncrypt keys ((beBytes 16 (iv * 2 ^ 32 + n)).map (·.toNat))).map (BitVec.ofNat 8)

/-- Bytes of the key stream of a message, from a place on. -/
def gcmStream (key : List Byte) (iv place n : Nat) : List Byte :=
  let keys := aesKeys (key.map (·.toNat))
  (((List.range (n / 16 + 2)).flatMap (fun i => gcmBlock keys iv (2 + place / 16 + i))).drop (place % 16)).take n

/-- A product in the field of the tag, whose elements have their lowest power in the top bit. -/
def tagMul (x y : BitVec 128) : BitVec 128 :=
  ((List.range 128).foldl (fun (zv : BitVec 128 × BitVec 128) i =>
    (if x.getMsbD i then zv.1 ^^^ zv.2 else zv.1, (zv.2 >>> 1) ^^^ (if zv.2.getLsbD 0 then BitVec.ofNat 128 (0xE1 * 2 ^ 120) else 0))) (0, y)).1

/-- The tag of ciphertext with additional data. -/
def gcmTag (key : List Byte) (iv : Nat) (clear sealed : List Byte) : BitVec 128 :=
  let keys := aesKeys (key.map (·.toNat))
  let whole (l : List Byte) : List Byte := l ++ zeros ((16 - l.length % 16) % 16)
  let blocks := chunksOf 16 (clear.length + sealed.length + 48)
    (whole clear ++ whole sealed ++ beBytes 8 (8 * clear.length) ++ beBytes 8 (8 * sealed.length))
  let field (l : List Byte) : BitVec 128 := .ofNat 128 (beNat l)
  let h := field ((aesEncrypt keys (List.replicate 16 0)).map (BitVec.ofNat 8))
  blocks.foldl (fun y b => tagMul (y ^^^ field b) h) 0 ^^^ field (gcmBlock keys iv 1)

end Sys2Proof.Machine
end

