-- ==== Sys2Proof/Config.lean ====
section
/-! DEFINITION. What the manual leaves open: constants without a body. Nothing in Lean can see a value of them, so what is
proved holds for every value. Each has a row in the assumption log. -/

namespace Sys2Proof.Config

open Sys2Proof.Machine

/-- A value the manual leaves open. The step applies it to `State.freeTick`, which it then advances (log 10). -/
opaque freeNat : Nat → Nat

/-- The translation unit of a home that translates an access to a page: home extent and page (R179, log 185). -/
opaque translationUnit : Nat → Nat → Nat

/-- A byte that a copier would have to read from another home: time and address (R157, log 183). -/
opaque farByte : Nat → Nat → Nat

/-- The hash of (source, home, class) that picks among the equal-cost paths (R159, log 12). -/
opaque pathHash : Nat → Nat → Nat → Nat

/-- The Keeper's DRBG: the n-th 512-bit draw (R378, log 13). -/
opaque drbg : Nat → BitVec 512

/-- The 256-bit device secret that the PUF gives (R379). -/
opaque deviceSecret : BitVec 256

/-- The ML-KEM-1024 encapsulation key that belongs to a DRBG draw (R391, R393, log 13). -/
opaque kemPublic : Nat → List Byte

/-- ML-KEM-1024 encapsulation against a key, with a DRBG draw: ciphertext and shared secret (R391, R393, log 13). -/
opaque kemEncaps : List Byte → Nat → List Byte × List Byte

/-- ML-KEM-1024 decapsulation with the key of a DRBG draw (R391, R393, log 13). -/
opaque kemDecaps : Nat → List Byte → List Byte

/-- An HSS/LMS signature of a message with index (tree, q), from SEED and I of the top tree and of the bottom tree (R380 to R382, log 13). -/
opaque hssSign : List Byte → List Byte → Nat → Nat → List Byte → List Byte

/-- Whether a signature of a message verifies under a root (R387, R388, R447, log 13). -/
opaque hssVerify : BitVec 256 → List Byte → List Byte → Bool

/-- Whether a certificate chain verifies under a root for a use, and the subject's identity (R387, R391, R393, log 13). -/
opaque certIdentity : BitVec 256 → CertUse → List Byte → Option (BitVec 256)

/-- The serial numbers of the certificates in a chain (R387, log 13). -/
opaque certSerials : List Byte → List W64

/-- The module's certificate chain (R387, log 13). -/
opaque ownChain : BitVec 2 → List Byte

/-- The endpoint named by a certificate, as a fabric peer (R393, log 13). -/
opaque certEndpoint : List Byte → Ep

/-- The vendor root (R387, log 13). -/
opaque vendorRoot : BitVec 256

/-- The serial number of the device (R408, log 13). -/
opaque serial : BitVec 64

/-- The firmware image that a slot holds before a command writes it (R388, log 13). -/
opaque factoryImage : List Byte

/-- The HSS public key that belongs to SEED and I of a top tree: 60 bytes (R380, R381, R386, log 13). -/
opaque hssPublic : List Byte → List Byte

/-- The security version number and the length of a firmware image in a slot (R388, R389, log 13). -/
opaque imageSvn : List Byte → BitVec 16

/-- The LZ4 stream that the codec L encoder writes for a shuffled block (R221, log 14). -/
opaque lz4Encode : List Byte → List Byte

/-- The sections of an Almanac image, whose layouts the manual does not give; what its header says is read from the header (R445, log 2). -/
opaque parseAlmanac : List Byte → Option Almanac

/-- Bytes of the capacity pages that the manual does not lay out: a Chronicle entry's body of the kinds without a layout
(R359, log 15). -/
opaque encodeBody : EntryBody → List Byte

/-- Reading such a body (R359, log 15). -/
opaque decodeBody : BitVec 8 → List Byte → Option EntryBody

end Sys2Proof.Config
end

