-- ==== Sys2Proof/Machine/Flags.lean ====
section
/-! DEFINITION. Status words and flags that one part of the state determines: the Keeper's, the lanes', the key slots', the
metering records', the thresholds' and the time status. -/

namespace Sys2Proof.Machine

/-- Signatures that the identity has left (R382, R385). -/
def signaturesLeft (k : KeeperSt) : Nat := (32768 - k.tree) * 32768 - k.qNext

/-- The state of the trees once the next index lies in a tree that is built (R383). -/
def enterTree (k : KeeperSt) : KeeperSt :=
  if k.qNext ≥ 32768 ∧ k.nextReady = true then { k with tree := k.tree + 1, qNext := 0, qRes := 0, nextReady := false } else k

/-- Whether only the indices kept for `ID_ROLL` remain (R385). -/
def onlyReserve (k : KeeperSt) : Bool := decide (k.tree ≥ 32767 ∧ k.qNext ≥ 32752)

/-- `KP_LMS`. -/
def lmsBits (k : KeeperSt) : Nat :=
  let k := enterTree k
  k.tree % 2 ^ 15 * 2 ^ 49 + k.qNext % 2 ^ 16 * 2 ^ 33 + k.qRes % 2 ^ 16 * 2 ^ 17 + b2n k.nextReady * 2 ^ 16 + b2n (decide (signaturesLeft k ≤ 2 ^ 20)) * 2 ^ 15
    + b2n k.exhausted * 2 ^ 14 + min 1024 k.tokens * 2 ^ 3

/-- `PT_LANE_STATUS`. -/
def laneBits (x : LaneSt) : Nat :=
  x.serves.toNat * 2 ^ 54 + x.uncorr * 2 ^ 32 + x.corrSym * 2 ^ 8 + x.role.toNat * 2 ^ 4 + b2n x.lock * 2 ^ 3 + b2n x.spared * 2 ^ 2 + b2n x.polInv * 2

/-- Words of a metering record. -/
def meterWord (m : Meter) (snap : Bool) (w : Nat) : Nat :=
  match w with
  | 0 => m.t0.toNat | 1 => m.t1.toNat | 2 => m.t2.toNat | 3 => m.t2n.toNat | 4 => m.re.toNat | 5 => m.se.toNat | 6 => m.ge.toNat
  | _ => if snap then m.week % 2 ^ 36 * 2 ^ 28 else 0

/-- `KP_SLOT`. -/
def slotBits (k : KeySlot) : Nat :=
  k.state.toNat * 2 ^ 62 + k.gen.toNat * 2 ^ 56 + k.comp.toNat * 2 ^ 44 + k.sweepExt % 2 ^ 20 * 2 ^ 24 + k.sweepPage % 2 ^ 14 * 2 ^ 10

/-- `ST_THRESH`. -/
def threshBits (p : PowerSt) : Nat :=
  p.tThrottle % 256 * 2 ^ 56 + 110 * 2 ^ 48 + p.pLimit % 4096 * 2 ^ 36 + p.pNow / 65536 % 4096 * 2 ^ 24 + p.tMax % 256 * 2 ^ 16 + p.step % 16 * 2 ^ 12

/-- `ST_DAY_STATUS`. -/
def dayStatusBits (t : TimeSt) : Nat :=
  t.leapCount % 2 ^ 32 * 2 ^ 32 + (BitVec.ofInt 16 t.skew).toNat * 2 ^ 16 + t.treeDepth % 16 * 2 ^ 8 + b2n t.root * 4 + b2n t.aligned * 2 + b2n t.skewAlarm

/-- `KP_MBOX_STAT`. -/
def mboxBits (k : KeeperSt) : Nat :=
  b2n k.mboxBusy * 2 ^ 63 + b2n k.mboxDone * 2 ^ 62 + b2n k.mboxOverrun * 2 ^ 61 + k.mboxRlen % 2 ^ 13 * 2 ^ 48 + k.mboxStatus.toNat * 2 ^ 40

end Sys2Proof.Machine
end

