-- ==== Sys2Proof/Machine/Float.lean ====
section
/-! DEFINITION. Exact arithmetic on floating-point values and its roundings (R57 to R59, R65, R213, R232 to R235,
R255, R256). A finite value is a sign, a magnitude and a power of two, so sums and products are exact until rounded. -/

namespace Sys2Proof.Machine

/-- A floating-point value: NaN, an infinity, or (-1)^neg × m × 2^e, the sign of a zero included. -/
inductive Fp where
  | nan
  | inf (neg : Bool)
  | fin (neg : Bool) (m : Nat) (e : Int)
  deriving DecidableEq, Repr

/-- A binary format: exponent bits, fraction bits and bias. `kind` 0 has infinities and NaN, 1 is E4M3, 2 has neither. -/
structure Fmt where
  ebits : Nat
  mbits : Nat
  bias : Nat
  kind : Nat
  deriving DecidableEq, Repr

/-- FP32. -/
def fmtF32 : Fmt := ⟨8, 23, 127, 0⟩
/-- BF16. -/
def fmtBf16 : Fmt := ⟨8, 7, 127, 0⟩
/-- FP16. -/
def fmtF16 : Fmt := ⟨5, 10, 15, 0⟩
/-- FP8 E4M3. -/
def fmtE4m3 : Fmt := ⟨4, 3, 7, 1⟩
/-- FP8 E5M2. -/
def fmtE5m2 : Fmt := ⟨5, 2, 15, 0⟩
/-- MX element E2M3. -/
def fmtE2m3 : Fmt := ⟨2, 3, 1, 2⟩
/-- MX element E3M2. -/
def fmtE3m2 : Fmt := ⟨3, 2, 3, 2⟩
/-- MX element E2M1. -/
def fmtE2m1 : Fmt := ⟨2, 1, 1, 2⟩

/-- Bits of a format. -/
def Fmt.width (f : Fmt) : Nat := 1 + f.ebits + f.mbits

/-- The canonical NaN of a format (R59, R235). -/
def Fmt.nanBits (f : Fmt) : Nat :=
  if f.kind = 1 then 0x7F
  else if f.ebits = 5 ∧ f.mbits = 2 then 0x7E
  else (2 ^ f.ebits - 1) * 2 ^ f.mbits + 2 ^ (f.mbits - 1)

/-- The value an encoding stands for. -/
def Fmt.decode (f : Fmt) (v : Nat) : Fp :=
  let neg := v / 2 ^ (f.ebits + f.mbits) % 2 == 1
  let ex := v / 2 ^ f.mbits % 2 ^ f.ebits
  let fr := v % 2 ^ f.mbits
  if f.kind = 1 ∧ v % 128 = 127 then .nan
  else if f.kind = 0 ∧ ex = 2 ^ f.ebits - 1 then (if fr = 0 then .inf neg else .nan)
  else if ex = 0 then .fin neg fr (1 - (f.bias : Int) - f.mbits)
  else .fin neg (fr + 2 ^ f.mbits) ((ex : Int) - f.bias - f.mbits)

/-- Bits in a positive number's binary form. -/
def bitLen (m : Nat) : Nat := if m = 0 then 0 else Nat.log2 m + 1

/-- Rounding to nearest, ties to even: `d` is the discarded field, `b` its width, `odd` the last kept bit. -/
def rne (d b : Nat) (odd : Bool) : Bool := decide (2 * d > 2 ^ b) || (decide (2 * d = 2 ^ b) && decide (b > 0) && odd)

/-- The U(0,1) value in FP32 that the generator makes of a word (R65). No command of the module draws one. -/
def uniformF32 (w : BitVec 32) : Fp := .fin false (w.toNat / 256) (-24)

/-- Stochastic rounding with the first word of an element (R65). -/
def stochUp (w0 d b : Nat) (_odd : Bool) : Bool :=
  if b ≤ 32 then decide (d + w0 % 2 ^ b ≥ 2 ^ b) && decide (b > 0) else decide (d / 2 ^ (b - 32) + w0 ≥ 2 ^ 32)

/-- Round a magnitude m × 2^e to a format's encoding without its sign, before any overflow is judged. -/
def Fmt.roundMag (f : Fmt) (up : Nat → Nat → Bool → Bool) (m : Nat) (e : Int) : Nat :=
  if m = 0 then 0 else
  let emin : Int := 1 - f.bias
  let q : Int := max (e + bitLen m - 1) emin - f.mbits
  let n :=
    if q ≤ e then m * 2 ^ (e - q).toNat
    else
      let s := (q - e).toNat
      m / 2 ^ s + (if up (m % 2 ^ s) s (m / 2 ^ s % 2 == 1) then 1 else 0)
  (q - (emin - f.mbits)).toNat * 2 ^ f.mbits + n

/-- The largest finite encoding of a format, without its sign. -/
def Fmt.maxMag (f : Fmt) : Nat :=
  if f.kind = 0 then (2 ^ f.ebits - 1) * 2 ^ f.mbits - 1 else if f.kind = 1 then 0x7E else 2 ^ (f.ebits + f.mbits) - 1

/-- Round a value into a format (R59, R235): overflow gives ±∞ by sign, 0x7F in E4M3. -/
def Fmt.encodeWith (f : Fmt) (up : Nat → Nat → Bool → Bool) (x : Fp) : Nat :=
  let sgn (neg : Bool) : Nat := if neg then 2 ^ (f.ebits + f.mbits) else 0
  match x with
  | .nan => f.nanBits
  | .inf neg => if f.kind = 0 then sgn neg + (2 ^ f.ebits - 1) * 2 ^ f.mbits else f.nanBits
  | .fin neg m e =>
    let r := f.roundMag up m e
    if r > f.maxMag then (if f.kind = 0 then sgn neg + (2 ^ f.ebits - 1) * 2 ^ f.mbits else f.nanBits)
    else sgn neg + r

/-- Round to nearest, ties to even, into a format. -/
def Fmt.encode (f : Fmt) (x : Fp) : Nat := f.encodeWith rne x

/-- Round a value through a format and back: one rounding. -/
def Fmt.round (f : Fmt) (x : Fp) : Fp := f.decode (f.encode x)

/-- Plus zero. -/
def Fp.zero : Fp := .fin false 0 0

/-- One. -/
def Fp.one : Fp := .fin false 1 0

/-- A signed integer as a value. -/
def Fp.ofInt (i : Int) (e : Int) : Fp := .fin (decide (i < 0)) i.natAbs e

/-- Whether a value is a zero. -/
def Fp.isZero (x : Fp) : Bool := match x with | .fin _ m _ => m == 0 | _ => false

/-- The exact sum of two values (R59): an exact zero is +0 unless both addends were −0. -/
def Fp.add (a b : Fp) : Fp :=
  match a, b with
  | .nan, _ => .nan
  | _, .nan => .nan
  | .inf n, .inf k => if n = k then .inf n else .nan
  | .inf n, .fin .. => .inf n
  | .fin .., .inf k => .inf k
  | .fin n m e, .fin k m' e' =>
    let lo := min e e'
    let v : Int := (if n then -1 else 1) * (m * 2 ^ (e - lo).toNat : Nat) + (if k then -1 else 1) * (m' * 2 ^ (e' - lo).toNat : Nat)
    if v = 0 then .fin (n && k && m == 0 && m' == 0) 0 lo else Fp.ofInt v lo

/-- The negated value. -/
def Fp.neg (a : Fp) : Fp := match a with | .nan => .nan | .inf n => .inf (!n) | .fin n m e => .fin (!n) m e

/-- The exact difference: the sum of a and −b (R59). -/
def Fp.sub (a b : Fp) : Fp := a.add b.neg

/-- The exact product, its sign the exclusive or of the signs (R59). -/
def Fp.mul (a b : Fp) : Fp :=
  match a, b with
  | .nan, _ => .nan
  | _, .nan => .nan
  | .inf n, .inf k => .inf (n != k)
  | .inf n, .fin k m _ => if m = 0 then .nan else .inf (n != k)
  | .fin n m _, .inf k => if m = 0 then .nan else .inf (n != k)
  | .fin n m e, .fin k m' e' => .fin (n != k) (m * m') (e + e')

/-- The quotient to 300 significant bits with a sticky last bit, so that one later rounding is the exact one's (R258). -/
def Fp.div (a b : Fp) : Fp :=
  match a, b with
  | .nan, _ => .nan
  | _, .nan => .nan
  | .inf _, .inf _ => .nan
  | .inf n, .fin k _ _ => .inf (n != k)
  | .fin n _ _, .inf k => .fin (n != k) 0 0
  | .fin n m e, .fin k m' e' =>
    if m' = 0 then (if m = 0 then .nan else .inf (n != k))
    else
      let num := m * 2 ^ (300 + bitLen m')
      .fin (n != k) (2 * (num / m') + (if num % m' = 0 then 0 else 1)) (e - e' - 301 - bitLen m')

/-- Order of two finite or infinite values, −0 below +0 when `zeros` asks for it (R146): a < b. -/
def Fp.lt (signedZero : Bool) (a b : Fp) : Bool :=
  match a, b with
  | .nan, _ => false
  | _, .nan => false
  | .inf n, .inf k => n && !k
  | .inf n, .fin .. => n
  | .fin .., .inf k => !k
  | .fin n m e, .fin k m' e' =>
    if m = 0 ∧ m' = 0 then signedZero && n && !k
    else
      let lo := min e e'
      decide ((if n then -1 else 1) * ((m * 2 ^ (e - lo).toNat : Nat) : Int)
        < (if k then -1 else 1) * ((m' * 2 ^ (e' - lo).toNat : Nat) : Int))

/-- The lesser value; NaN if either is NaN (R146, R238). -/
def Fp.minimum (a b : Fp) : Fp :=
  match a, b with
  | .nan, _ => .nan
  | _, .nan => .nan
  | a, b => if Fp.lt true b a then b else a

/-- The greater value; NaN if either is NaN (R146, R238). -/
def Fp.maximum (a b : Fp) : Fp :=
  match a, b with
  | .nan, _ => .nan
  | _, .nan => .nan
  | a, b => if Fp.lt true a b then b else a

/-- An FP32 encoding's value. -/
def f32 (v : Nat) : Fp := fmtF32.decode v
/-- The FP32 encoding of a value, rounded once. -/
def toF32 (x : Fp) : Nat := fmtF32.encode x
/-- One FP32 rounding. -/
def rnd32 (x : Fp) : Fp := fmtF32.round x

/-! ## exp and ln (R256), evaluated with 220 fractional bits and rounded once (log 17) -/

/-- Fractional bits of the evaluation. -/
def fixBits : Nat := 220

/-- ln 2 with `fixBits` fractional bits: the series Σ 1 / (n 2^n). -/
def fixLn2 : Nat := (List.range 240).foldl (fun a i => a + 2 ^ fixBits / ((i + 1) * 2 ^ (i + 1))) 0

/-- e^r for 0 ≤ r < 1 in fixed point. -/
def fixExp (r : Nat) : Nat :=
  ((List.range 70).foldl (fun (acc : Nat × Nat) i => let t := acc.2 * r / 2 ^ fixBits / (i + 1); (acc.1 + t, t))
    (2 ^ fixBits, 2 ^ fixBits)).1

/-- e^x, rounded once into FP32 (R256). -/
def fpExp (x : Fp) : Fp :=
  match x with
  | .nan => .nan
  | .inf neg => if neg then Fp.zero else .inf false
  | .fin neg m e =>
    if m = 0 then Fp.one
    else if e + bitLen m > 8 then (if neg then Fp.zero else .inf false)
    else
      let mag : Nat := if e + fixBits ≥ 0 then m * 2 ^ (e + fixBits).toNat else m / 2 ^ (-(e + fixBits)).toNat
      let y : Int := if neg then -(mag : Int) else mag
      let n := y / (fixLn2 : Int)
      let r := (y - n * fixLn2).toNat
      rnd32 (.fin false (2 * fixExp r + 1) (n - fixBits - 1))

/-- Natural logarithm of m/2^k in [1, 2), in fixed point: 2 artanh((x − 1)/(x + 1)). -/
def fixLn (x : Nat) : Nat :=
  let z := (x - 2 ^ fixBits) * 2 ^ fixBits / (x + 2 ^ fixBits)
  let z2 := z * z / 2 ^ fixBits
  2 * ((List.range 72).foldl (fun (acc : Nat × Nat) i => (acc.1 + acc.2 / (2 * i + 1), acc.2 * z2 / 2 ^ fixBits)) (0, z)).1

/-- ln x, rounded once into FP32 (R256). -/
def fpLn (x : Fp) : Fp :=
  match x with
  | .nan => .nan
  | .inf neg => if neg then .nan else .inf false
  | .fin neg m e =>
    if m = 0 then .inf true
    else if neg then .nan
    else
      let k := bitLen m - 1
      let v : Int := (e + k) * fixLn2 + fixLn (m * 2 ^ fixBits / 2 ^ k)
      if v = 0 then Fp.zero else rnd32 (Fp.ofInt v (-(fixBits : Int)))

/-! ## Random values (R63, R64) -/

/-- Philox4x32 with 10 rounds. -/
def philox (c : Nat × Nat × Nat × Nat) (k : Nat × Nat) : Nat × Nat × Nat × Nat :=
  ((List.range 10).foldl (fun (st : (Nat × Nat × Nat × Nat) × (Nat × Nat)) _ =>
    let (c0, c1, c2, c3) := st.1
    let p := 0xD2511F53 * c0
    let q := 0xCD9E8D57 * c2
    (((q / 2 ^ 32) ^^^ c1 ^^^ st.2.1, q % 2 ^ 32, (p / 2 ^ 32) ^^^ c3 ^^^ st.2.2, p % 2 ^ 32),
      ((st.2.1 + 0x9E3779B9) % 2 ^ 32, (st.2.2 + 0xBB67AE85) % 2 ^ 32))) (c, k)).1

/-- The words of an element (R64): seed, step, unit id, element index. -/
def randomWords (s n u e : Nat) : Nat × Nat × Nat × Nat :=
  let lo (v : Nat) : Nat := v % 2 ^ 32
  let (b0, b1, b2, b3) := philox (lo n, lo (n / 2 ^ 32), lo u, lo s ^^^ 0x53544550) (lo (s / 2 ^ 64), lo (s / 2 ^ 96))
  philox (lo e, lo (e / 2 ^ 32), b2, b3 ^^^ lo (s / 2 ^ 32)) (b0, b1)

/-! ## Formats of engine operands (R232, R233) -/

/-- The scalar format of a code, for FP codes 0x0 to 0x4. -/
def fpFormat (code : Nat) : Option Fmt :=
  match code with
  | 0 => some fmtF32
  | 1 => some fmtBf16
  | 2 => some fmtF16
  | 3 => some fmtE4m3
  | 4 => some fmtE5m2
  | _ => none

/-- The element format of an MX code 0x5 to 0x9. -/
def mxFormat (code : Nat) : Option Fmt :=
  match code with
  | 5 => some fmtE4m3
  | 6 => some fmtE5m2
  | 7 => some fmtE2m3
  | 8 => some fmtE3m2
  | 9 => some fmtE2m1
  | _ => none

/-- Stored bytes of `n` elements in a format, with entries and integers (R232); records of code 0xD are not sized here. -/
def formatBytes (code n : Nat) : Nat :=
  match code with
  | 0 => 4 * n
  | 1 => 2 * n
  | 2 => 2 * n
  | 3 => n
  | 4 => n
  | 5 => 33 * (n / 32)
  | 6 => 33 * (n / 32)
  | 7 => 25 * (n / 32)
  | 8 => 25 * (n / 32)
  | 9 => 17 * (n / 32)
  | 0xA => 4 * n
  | 0xB => 8 * n
  | 0xC => 4 * n
  | 0xE => 16 * n
  | _ => 0

/-- One MX block: scale, then packed elements, least significant bit first (R233). -/
def decodeMxBlock (f : Fmt) (bs : List Byte) : List Fp :=
  let x := (bs.headD 0).toNat
  let v := leNat (bs.drop 1)
  (List.range 32).map (fun i =>
    if x = 255 then .nan
    else match f.decode (v / 2 ^ (i * f.width) % 2 ^ f.width) with
      | .fin n m e => .fin n m (e + x - 127)
      | y => y)

/-- The values of FP elements stored in bytes, read with the given byte order (`big` for frames of collectives, R249). -/
def decodeElems (code : Nat) (big : Bool) (bs : List Byte) : List Fp :=
  match fpFormat code with
  | some f => (chunksOf (f.width / 8) bs.length bs).map (fun b => f.decode (if big then beNat b else leNat b))
  | none =>
    match mxFormat code with
    | some f => (chunksOf (4 * f.width + 1) bs.length bs).flatMap (decodeMxBlock f)
    | none => []

/-- A value as the Strict accumulator holds it, in units of 2^-320 (R234): the field that a stochastic rounding discards reaches down to
its last bit (R65). -/
def Fp.accumulated (x : Fp) : Fp :=
  match x with
  | .fin neg m e => if e ≤ -320 then x else .fin neg (m * 2 ^ (e + 320).toNat) (-320)
  | _ => x

/-- Fast mode takes decoded values as FP32: those of 2^128 and more become ±∞ (R233). -/
def fastIn (x : Fp) : Fp := rnd32 x

/-- Integer elements of code 0xA, 0xB or 0xC as bytes read. -/
def decodeInts (code : Nat) (big : Bool) (bs : List Byte) : List Nat :=
  (chunksOf (if code = 0xB then 8 else 4) bs.length bs).map (fun b => if big then beNat b else leNat b)

/-- A two's-complement reading of `w` bits. -/
def asInt (w v : Nat) : Int := if v ≥ 2 ^ (w - 1) then (v : Int) - 2 ^ w else v

/-- An integer wrapped into `w` bits. -/
def wrap (w : Nat) (i : Int) : Nat := (i % (2 ^ w : Nat)).toNat

/-- FP value bytes in an output format. -/
def elemBytes (f : Fmt) (big : Bool) (v : Nat) : List Byte := if big then beBytes (f.width / 8) v else leBytes (f.width / 8) v

/-! ## Codec F (R211 to R213, R218) -/

/-- ⌊log2⌋ of the largest magnitude of a group, or −127. -/
def groupExp (g : List Fp) : Int :=
  g.foldl (fun a x => match x with | .fin _ m e => if m = 0 then a else max a (e + bitLen m - 1) | _ => a) (-127)

/-- The code of one element: q as an integer (R213). -/
def codeFQ (ex : Int) (w : Nat) (x : Fp) : Int :=
  match x with
  | .fin n m e =>
    let s := ex - w + 2
    let q : Nat := if e ≥ s then m * 2 ^ (e - s).toNat
      else let k := (s - e).toNat; m / 2 ^ k + (if rne (m % 2 ^ k) k (m / 2 ^ k % 2 == 1) then 1 else 0)
    let q := min q (2 ^ (w - 1) - 1)
    if n then -(q : Int) else q
  | _ => 0

/-- The wide code width of a source element size and a rate code (R211): rate 1 is 1/2, 2 is 3/8, 3 is 1/4. -/
def codeFWide (srcBits rate : Nat) : Nat :=
  match srcBits, rate with
  | 32, 1 => 16
  | 32, 2 => 12
  | 32, 3 => 8
  | 16, 1 => 8
  | 16, 2 => 6
  | 16, 3 => 4
  | 8, 1 => 4
  | _, _ => 0

/-- The source format of an `ELEM` code (R360). -/
def elemFormat (elem : Nat) : Option Fmt :=
  match elem with
  | 0 => some fmtF32
  | 1 => some fmtBf16
  | 2 => some fmtF16
  | 3 => some fmtE4m3
  | 4 => some fmtE5m2
  | _ => none

/-- A combination that R211 lists. -/
def codecFListed (elem rate : Nat) : Bool :=
  match elemFormat elem with
  | some f => codeFWide f.width rate != 0
  | none => false

/-- Bytes of a codec F slot: 4,096 times the rate. -/
def codecFSlot (rate : Nat) : Nat := if rate = 1 then 2048 else if rate = 2 then 1536 else 1024

/-- Whether a block holds a NaN or an infinity (R218). -/
def blockEscapes (f : Fmt) (bs : List Byte) : Bool :=
  (chunksOf (f.width / 8) bs.length bs).any (fun b => match f.decode (leNat b) with | .fin .. => false | _ => true)

/-- The bit string of a group as a number, bit i weighing 2^i (R212). -/
def encodeGroup (w : Nat) (g : List Fp) : Nat :=
  let ex := groupExp g
  let codes := g.zipIdx.map (fun p =>
    let wi := if p.2 < 24 then w else w - 1
    (wrap wi (codeFQ ex wi p.1), if p.2 < 24 then 8 + p.2 * w else 8 + 24 * w + (p.2 - 24) * (w - 1)))
  (ex + 127).toNat + (codes.map (fun p => p.1 * 2 ^ p.2)).sum

/-- Encode a finite block of 4,096 bytes into its slot (R212, R213). -/
def encodeF (f : Fmt) (rate : Nat) (bs : List Byte) : List Byte :=
  let w := codeFWide f.width rate
  let gb := 8 + 24 * w + 8 * (w - 1)
  let els := (chunksOf (f.width / 8) bs.length bs).map (fun b => f.decode (leNat b))
  let v := ((chunksOf 32 els.length els).zipIdx.map (fun p => encodeGroup w p.1 * 2 ^ (p.2 * gb))).sum
  leBytes (codecFSlot rate) v

/-- Decode a slot into 4,096 source bytes (R213). -/
def decodeF (f : Fmt) (rate : Nat) (slot : List Byte) : List Byte :=
  let w := codeFWide f.width rate
  let gb := 8 + 24 * w + 8 * (w - 1)
  let v := leNat slot
  (List.range (32768 / f.width)).flatMap (fun i =>
    let g := v / 2 ^ (i / 32 * gb)
    let k := i % 32
    let wi := if k < 24 then w else w - 1
    let q := asInt wi (g / 2 ^ (if k < 24 then 8 + k * w else 8 + 24 * w + (k - 24) * (w - 1)) % 2 ^ wi)
    let x := Fp.ofInt q ((g % 256 : Nat) - 127 - wi + 2)
    leBytes (f.width / 8) (f.encode (if q = 0 then Fp.zero else x)))

/-! ## Codec L (R221, R227) -/

/-- Shuffle a block by byte plane for element width `w`. -/
def shuffleL (w : Nat) (bs : List Byte) : List Byte :=
  (List.range w).flatMap (fun k => (List.range (4096 / w)).map (fun i => bs.getD (i * w + k) 0))

/-- Undo the shuffle. -/
def unshuffleL (w : Nat) (bs : List Byte) : List Byte :=
  (List.range (4096 / w)).flatMap (fun i => (List.range w).map (fun k => bs.getD (k * (4096 / w) + i) 0))

/-- An LZ4 length: bytes of 255 go on. -/
def lz4Len (fuel base : Nat) (bs : List Byte) : Option (Nat × List Byte) :=
  match fuel with
  | 0 => none
  | n + 1 =>
    match bs with
    | [] => none
    | b :: r => if b.toNat = 255 then lz4Len n (base + 255) r else some (base + b.toNat, r)

/-- Copy a match of `n` bytes from `off` back; the output is kept reversed. -/
def lz4Copy (n off : Nat) (rout : List Byte) : List Byte :=
  match n with
  | 0 => rout
  | k + 1 => lz4Copy k off (rout.getD (off - 1) 0 :: rout)

/-- Decode an LZ4 block: the bytes produced, up to one past `limit`; none where the stream is not one. -/
def lz4Decode (fuel limit : Nat) (bs rout : List Byte) : Option (List Byte) :=
  match fuel with
  | 0 => none
  | n + 1 =>
    match bs with
    | [] => some rout.reverse
    | t :: r =>
      match (if t.toNat / 16 = 15 then lz4Len r.length 15 r else some (t.toNat / 16, r)) with
      | none => none
      | some (lit, r) =>
        if r.length < lit then none
        else
          let rout := (r.take lit).reverse ++ rout
          if rout.length > limit then some rout.reverse
          else
            match r.drop lit with
            | [] => some rout.reverse
            | [_] => none
            | a :: b :: r =>
              let off := a.toNat + 256 * b.toNat
              match (if t.toNat % 16 = 15 then lz4Len r.length 15 r else some (t.toNat % 16, r)) with
              | none => none
              | some (ml, r) =>
                if off = 0 ∨ off > rout.length then none
                else
                  let rout := lz4Copy (min (ml + 4) (limit + 1 - rout.length)) off rout
                  if rout.length > limit then some rout.reverse else lz4Decode n limit r rout

end Sys2Proof.Machine
end

