-- ==== Sys2Proof/Machine/Setters.lean ====
section
/-! DEFINITION. One named update per part of the state: a meaning changes the state through these. -/

namespace Sys2Proof.Machine

/-- The state with another `time`. -/
def State.setTime (s : State) (x : TimeSt) : State := { s with time := x }

/-- The state with another `eqx`. -/
def State.setEqx (s : State) (x : EqxSt) : State := { s with eqx := x }

/-- The state with another `power`. -/
def State.setPower (s : State) (x : PowerSt) : State := { s with power := x }

/-- The state with another `rst`. -/
def State.setRst (s : State) (x : ResetSt) : State := { s with rst := x }

/-- The state with another `den`. -/
def State.setDen (s : State) (x : DenSt) : State := { s with den := x }

/-- The state with another `kp`. -/
def State.setKp (s : State) (x : KeeperSt) : State := { s with kp := x }

/-- The state with another `alm`. -/
def State.setAlm (s : State) (x : AlmSt) : State := { s with alm := x }

/-- The state with another `ports`. -/
def State.setPorts (s : State) (x : KMap PortSt) : State := { s with ports := x }

/-- The state with another `lanes`. -/
def State.setLanes (s : State) (x : KMap LaneSt) : State := { s with lanes := x }

/-- The state with another `xb`. -/
def State.setXb (s : State) (x : XbSt) : State := { s with xb := x }

/-- The state with another `comps`. -/
def State.setComps (s : State) (x : KMap CompSt) : State := { s with comps := x }

/-- The state with another `home`. -/
def State.setHome (s : State) (x : HomeSt) : State := { s with home := x }

/-- The state with another `mem`. -/
def State.setMem (s : State) (x : List Host.Cell) : State := { s with mem := x }

/-- The state with another `eng`. -/
def State.setEng (s : State) (x : EngSt) : State := { s with eng := x }

/-- The state with another `ch`. -/
def State.setCh (s : State) (x : ChSt) : State := { s with ch := x }

/-- The state with another `health`. -/
def State.setHealth (s : State) (x : HealthSt) : State := { s with health := x }

/-- The state with another `scrub`. -/
def State.setScrub (s : State) (x : KMap ScrubItem) : State := { s with scrub := x }

/-- The state with another `sweeps`. -/
def State.setSweeps (s : State) (x : KMap Sweep) : State := { s with sweeps := x }

/-- The state with another `fn`. -/
def State.setFn (s : State) (x : FinugSt) : State := { s with fn := x }

/-- The state with another `meterReset`. -/
def State.setMeterReset (s : State) (x : BitVec 2 × Option Nat) : State := { s with meterReset := x }

/-- The state with another `nextId`. -/
def State.setNextId (s : State) (x : Nat) : State := { s with nextId := x }

/-- The state with another `freeTick`. -/
def State.setFreeTick (s : State) (x : Nat) : State := { s with freeTick := x }

/-- The state with another queue of waiting commands. -/
def State.setPending (s : State) (q : List Instr) : State := { s with pending := q }

end Sys2Proof.Machine
end

