-- ==== Sys2Proof/Machine/Ops.lean ====
section
/-! DEFINITION. The named operations that every meaning shares: time and identity, memory, storage of pages, access
rights, completions, output queues and routing, violations, reports and answers to the control node. -/

namespace Sys2Proof.Machine

/-- What a step answers. -/
abbrev Out := Host.Outcome State Fault Refusal

/-! ## Memory of bytes (R171): a list in one canonical form, an unlisted address reading 0 (log 7) -/

/-- What an address of T0 or T1 that is not listed reads as (log 7). -/
def Memory.unlisted : Byte := 0

/-- One byte of storage. -/
def Memory.read (m : List Host.Cell) (a : Nat) : Byte := KMap.getD m a Memory.unlisted

/-- Write one byte, keeping the form: writing what an unlisted address reads as removes the entry. -/
def Memory.write (m : List Host.Cell) (a : Nat) (b : Byte) : List Host.Cell :=
  if b = Memory.unlisted then KMap.del m a else KMap.put m a b

/-- `n` bytes from an address. -/
def Memory.readBytes (m : List Host.Cell) (a n : Nat) : List Byte := (List.range n).map (fun i => Memory.read m (a + i))

/-- Write bytes from an address on. -/
def Memory.writeBytes (m : List Host.Cell) (a : Nat) (bs : List Byte) : List Host.Cell :=
  match bs with
  | [] => m
  | b :: r => Memory.writeBytes (Memory.write m a b) (a + 1) r

/-- The canonical form: addresses rise strictly and no entry equals what an unlisted address reads as. -/
def Memory.wf (m : List Host.Cell) : Bool := KMap.wf m && m.all (fun c => c.2 != Memory.unlisted)

/-- A memory in canonical form; one that already is stays as it is. -/
def Memory.canon (m : List Host.Cell) : List Host.Cell :=
  if Memory.wf m then m else m.foldl (fun acc c => Memory.write acc c.1 c.2) []

/-- What every meaning ends in: the state it makes, with the parts no command touches kept. The variant and with it the
capability block are fixed at manufacture and hold across every reset (R3); the queue is the sender's; storage is in its
canonical form. -/
def commit (s t : State) : Out :=
  .next { t with variant := s.variant, pending := s.pending, mem := Memory.canon t.mem }

/-- The cycle after a cycle of a Day (R22, R36): the number stops at the Day's last one, since the Day's end is `DAY_BOUNDARY`, and a
lengthened Day holds 4,095 for two cycles. -/
def TimeSt.tick (t : TimeSt) : TimeSt :=
  if t.cycle + 1 < min t.dayLen 4096 then { t with cycle := t.cycle + 1 }
  else if t.dayLen > 4096 then { t with extra := true }
  else t

/-- A cycle passes with no command waiting (log 23). -/
def idle (s : State) : State := if s.power.inputOn then s.setTime s.time.tick else s

/-! ## Time, identity, presence (R2, R8, R22, R508) -/

/-- Cycles since Day 0. -/
def State.now (s : State) : Nat := s.time.day * 4096 + s.time.cycle
/-- The current Day. -/
def State.day (s : State) : Nat := s.time.day
/-- The time stamp of R24. -/
def State.stamp (s : State) : BitVec 32 := stampOf s.time.day s.time.cycle
/-- The module's own endpoint id. -/
def State.self (s : State) : Ep := s.alm.cur.self

/-- A fresh name for tracked work (log 10). -/
def State.fresh (s : State) : Nat × State := (s.nextId, s.setNextId (s.nextId + 1))

/-- A value the manual leaves open (log 10). -/
def State.free (s : State) : Nat × State := (Config.freeNat s.freeTick, s.setFreeTick (s.freeTick + 1))

/-- Stacks present (R2). -/
def stacksOf (v : Variant) : List Nat :=
  match v with | .f9608 => [0, 1, 2, 3, 8, 9, 10, 11] | _ => List.range 16

/-- T0 slices present (R2). -/
def slicesOf (v : Variant) : Nat := match v with | .f9608 => 256 | _ => 512

/-- Engines present of a kind (R2). -/
def enginesOf (v : Variant) (k : EngineKind) : List Nat :=
  match k with
  | .reduce => match v with | .p9616 => List.range 16 ++ (List.range 16).map (· + 32) | _ => List.range 64
  | .score => match v with | .p9616 => [] | _ => List.range 64
  | .gather => List.range 64
  | .tier => stacksOf v
  | .scrub => List.range 4

/-- A number for each kind of engine. -/
def kindNo (k : EngineKind) : Nat :=
  match k with | .reduce => 0 | .score => 1 | .gather => 2 | .tier => 3 | .scrub => 4

/-- The key of an engine in the engine table. -/
def engKey (k : EngineKind) (n : Nat) : Nat := kindNo k * 64 + n

/-- `AL_CAP_UNITS` (R3). -/
def capUnits (v : Variant) : W64 :=
  let part : Nat := match v with | .f9616 => 1 | .p9616 => 2 | .f9608 => 3
  .ofNat 64 (2 ^ 60 + part * 2 ^ 48 + (enginesOf v .reduce).length * 2 ^ 41 + (enginesOf v .score).length * 2 ^ 34
    + 64 * 2 ^ 27 + (enginesOf v .tier).length * 2 ^ 22 + 4 * 2 ^ 19 + 64 * 2 ^ 12 + 48 * 2 ^ 6)

/-- `AL_CAP_MEM` (R3). -/
def capMem (v : Variant) : W64 :=
  .ofNat 64 ((stacksOf v).length * 2 ^ 43 + 48 * 2 ^ 35 + (slicesOf v / 128) * 2 ^ 32 + slicesOf v * 2 ^ 22 + 1024 * 2 ^ 11)

/-- Die of a logical port: ports P00 to P31 lie on die A (R8). -/
def dieOfPort (p : Nat) : Nat := p / 256 % 2
/-- Die of a T0 slice (R508). -/
def dieOfSlice (v : Variant) (n : Nat) : Nat := if n < slicesOf v / 2 then 0 else 1

/-- The engine's registers and state, in service when nothing has happened to it (R477). -/
def State.engine (s : State) (k : EngineKind) (n : Nat) : EngineSt := KMap.getD s.eng.eng (engKey k n) EngineSt.init

/-- Change one engine. -/
def State.updEngine (s : State) (k : EngineKind) (n : Nat) (f : EngineSt → EngineSt) : State :=
  s.setEng { s.eng with eng := KMap.put s.eng.eng (engKey k n) (f (s.engine k n)) }

/-- Change the statistics of a Tier engine. -/
def State.updTe (s : State) (n : Nat) (f : TeStats → TeStats) : State :=
  s.setHome { s.home with te := KMap.upd s.home.te n TeStats.init f }

/-- A composition's Almanac entry. -/
def State.compEntry (s : State) (c : BitVec 12) : Option CompEntry := KMap.find s.alm.cur.comps c.toNat

/-- Whether a composition runs in Strict mode (R60). -/
def State.strict (s : State) (c : BitVec 12) : Bool := match s.compEntry c with | some e => e.strict | none => false

/-- What the module holds of a composition. -/
def State.comp (s : State) (c : BitVec 12) : CompSt := KMap.getD s.comps c.toNat CompSt.init

/-- Change what the module holds of a composition. -/
def State.updComp (s : State) (c : BitVec 12) (f : CompSt → CompSt) : State :=
  s.setComps (KMap.put s.comps c.toNat (f (s.comp c)))

/-- A logical port. -/
def State.port (s : State) (n : Nat) : PortSt := KMap.getD s.ports n PortSt.init

/-- Change a logical port. -/
def State.updPort (s : State) (n : Nat) (f : PortSt → PortSt) : State := s.setPorts (KMap.put s.ports n (f (s.port n)))

/-- A Day's condition on a link that makes its penalty at least `n` (R415). -/
def markLink (s : State) (port n : Nat) : State :=
  s.updPort port (fun p => { p with health := { p.health with worstToday := max n p.health.worstToday } })

/-- The engines of a kind that a composition's Almanac entry lets it use here (R507). -/
def unitsOf (s : State) (entry : Option CompEntry) (k : EngineKind) : List Nat :=
  match entry with
  | none => []
  | some e =>
    let m := match k with | .reduce => e.reMask | .score => e.seMask | _ => e.geMask
    (enginesOf s.variant k).filter (fun i => m.getLsbD i)

/-- The partition of a composition now in force. -/
def partition (s : State) (c : BitVec 12) (k : EngineKind) : List Nat := unitsOf s (s.compEntry c) k

/-- The engines that serve a request: those of its composition's partition at its admission (R27). -/
def reqUnits (s : State) (r : Req) (k : EngineKind) : List Nat := unitsOf s r.entry k

/-- Whether the module runs: in P0 with no reset running (R483, R493). -/
def State.running (s : State) : Bool := s.power.pstate == .p0 && s.rst.running.isNone && !s.kp.noImage

/-! ## The map (R136, R137, R361, R362, R369) -/

/-- Epochs in force for a composition at this module (R361): the current one, and its predecessor during its grace. -/
def epochInForce (s : State) (c : BitVec 12) (e : BitVec 16) : Bool :=
  e == (s.comp c).epoch || ((s.comp c).graceEnd.isSome && e == (s.comp c).epoch - 1)

/-- The Extent Table entry that a frame of epoch `e` meets: the map of e gives the place and the state, the current table
every other right (R362). -/
def entryFor (s : State) (c : BitVec 12) (e : BitVec 16) (idx : Nat) : ExtEntry :=
  let cur := KMap.getD (s.comp c).ext idx ExtEntry.none_
  if e == (s.comp c).epoch then cur
  else match KMap.find (s.comp c).old idx with
    | some o => { cur with home := o.home, homeExt := o.homeExt, state := o.state }
    | none => cur

/-- The outcome of a rights check. -/
inductive Right where
  | ok (home : Ep) (homeExt : Nat)
  | viol (kind : Nat) (home : Option Ep)
  deriving DecidableEq, Repr

/-- Extent-level rights of an address (R139, R140, R369). `service` marks what the home writes through its own services. -/
def extentRights (s : State) (h : Header) (addr : W64) (write service : Bool) : Right :=
  let none_ : Nat := if write then 2 else 1
  if outsideExtents addr then .viol none_ none
  else
    let e := entryFor s h.comp h.epoch (extOf addr)
    let revoked := match KMap.find (s.comp h.comp).rev (extOf addr) with
      | some r => decide (stampDay s.time.day h.tstamp ≥ r.revDay)
      | none => true
    if e.state = 0 then .viol none_ none
    else if e.state = 3 ∧ revoked = true then .viol 5 (some e.home)
    else if ¬ write then .ok e.home e.homeExt.toNat
    else if e.published then .viol 3 (some e.home)
    else if e.mode = 0 then
      -- a module writes for the composition itself: results of its collectives (log 24)
      (if e.writer = h.src ∨ h.src = s.self ∨ (KMap.find s.alm.cur.topo.modules h.src.toNat).isSome then .ok e.home e.homeExt.toNat
       else .viol 3 (some e.home))
    else if e.mode = 1 then (if service && e.svc then .ok e.home e.homeExt.toNat else .viol 3 (some e.home))
    else .ok e.home e.homeExt.toNat

/-- Count violations of a composition (R87). -/
def countViol (s : State) (c : BitVec 12) (src : Ep) (kind n : Nat) : State :=
  s.updComp c (fun x => { x with violKind := .ofNat 4 kind, violSrc := src, violCount := satAdd 40 x.violCount n })

/-! ## Storage of pages (R174 to R177, R402, R412, R413) -/

/-- A home extent's record. -/
def State.homeExt (s : State) (he : Nat) : Option HomeExt := KMap.find s.home.exts he

/-- What a page without an entry holds: unmapped, or key-lost after a package reset (R497). -/
def HomeExt.unlisted (x : HomeExt) : Pte := { Pte.init with state := if x.lost then .keyLost else .unmapped, pro := x.proAll }

/-- A page-table entry. -/
def State.pte (s : State) (he page : Nat) : Pte :=
  match s.homeExt he with
  | some x => KMap.getD x.pages page x.unlisted
  | none => Pte.init

/-- Change a home extent's record. -/
def State.updExt (s : State) (he : Nat) (f : HomeExt → HomeExt) : State :=
  match s.homeExt he with
  | some x => s.setHome { s.home with exts := KMap.put s.home.exts he (f x) }
  | none => s

/-- Change a page-table entry. -/
def State.updPte (s : State) (he page : Nat) (f : Pte → Pte) : State :=
  s.updExt he (fun x => { x with pages := KMap.upd x.pages page x.unlisted f })

/-- The codec and source element of a home extent (R209). -/
def State.extCodec (s : State) (he : Nat) : Nat × Nat :=
  match s.homeExt he with | some x => (x.codec.toNat, x.elem.toNat) | none => (0, 0)

/-- Whether a codec code names codec F. -/
def isF (codec : Nat) : Bool := decide (1 ≤ codec ∧ codec ≤ 3)

/-- Bytes that a page takes in T1, T2 or T2n under its codec (R216, R223). -/
def pageStored (codec : Nat) : Nat := if isF codec then 16 * codecFSlot codec else 65536

/-- The first address of T1 in the storage space; T0 lies below it. -/
def t1Base : Nat := 2 ^ 40

/-- The storage address of a page's first byte in T0 or T1 (R175, R216). -/
def pageAddr (codec page : Nat) (l : Loc) : Option Nat :=
  match l with
  | .t0 slice slot => some ((slice * 256 + slot) * 65536)
  | .t1 stack frame =>
    some (t1Base + (stack * 786432 + frame) * 65536 + (if isF codec then page % 8 * pageStored codec % 65536 else 0))
  | _ => none

/-- A stack that is out of use: lost, or its controller held down since the Equinox (R32, R413). -/
def stackOut (s : State) (stack : Nat) : Bool :=
  s.eqx.stacksDown.contains stack || (match KMap.find s.home.stackSt stack with | some x => x.lost | none => false)

/-- A T1 frame that cannot be read: its channel has failed or its stack is lost (R412, R413). -/
def frameBad (s : State) (stack frame : Nat) : Bool :=
  stackOut s stack || (match KMap.find s.home.stackSt stack with | some x => x.failed.getLsbD (frame % 32) | none => false)

/-- The key of a codec block. -/
def blockKey (he page blk : Nat) : Nat := he * 2 ^ 18 + page * 16 + blk

/-- A codec block's tag. -/
def State.blockTag (s : State) (he page blk : Nat) : BlockTag :=
  match s.homeExt he with
  | some x => KMap.getD x.blocks (page * 16 + blk) BlockTag.init
  | none => BlockTag.init

/-- Set a codec block's tag. -/
def State.setBlockTag (s : State) (he page blk : Nat) (t : BlockTag) : State :=
  s.updExt he (fun x => { x with blocks := KMap.put x.blocks (page * 16 + blk) t })

/-- Lines of a page that a byte range touches. -/
def linesOf (off len : Nat) : List Nat := (List.range ((off + len + 127) / 128 - off / 128)).map (· + off / 128)

/-- What a read of storage gives: data, a status, a block that does not decode (true: its CRC), or a need to ask a tray. -/
inductive Rd where
  | data (bs : List Byte)
  | fail (status : BitVec 8)
  | bad (crc : Bool)
  | fetch
  deriving DecidableEq, Repr

/-- Bytes of T0, each line read as zeros when its owner tag is not the reader's (R402). -/
def readT0 (s : State) (owner base off len : Nat) : List Byte :=
  (List.range len).map (fun i =>
    if KMap.getD s.home.tags ((base + off + i) / 128) 0x1FFF = owner then Memory.read s.mem (base + off + i) else 0)

/-- The address of a raw block in an extent's overflow area (R219), none beyond the area. -/
def overflowAddr (x : HomeExt) (n : Nat) : Option Nat :=
  match x.ovfArea[n / 16]? with
  | some (stack, frame) => some (t1Base + (stack * 786432 + frame) * 65536 + n % 16 * 4096)
  | none => none

/-- A codec F block of T1, decoded (R213, R218, R219): none where its overflow index marks it poisoned. -/
def readBlockF (s : State) (x : HomeExt) (addr : Nat) : Option (List Byte) :=
  let slot := Memory.readBytes s.mem addr (codecFSlot x.codec.toNat)
  if slot.headD 0 = 0xFF then
    match overflowAddr x (leNat ((slot.drop 4).take 4)) with
    | some a => some (Memory.readBytes s.mem a 4096)
    | none => none
  else match elemFormat x.elem.toNat with
    | some f => some (decodeF f x.codec.toNat slot)
    | none => some (zeros 4096)

/-- Read bytes of one page within one 4 KiB block, for an owner (a composition), with blocks `ov` that trays have sent
(R176, R177, R191, R213, R227 to R229, R402, R413). -/
def readPiece (s : State) (ov : KMap (List Byte)) (owner he page off len : Nat) : Rd :=
  let p := s.pte he page
  let blk := off / 4096
  let t := s.blockTag he page blk
  let poisoned := (linesOf off len).any (fun l => s.home.poison.contains (he * 2 ^ 23 + page * 512 + l))
  match p.state with
  | .unmapped => .data (zeros len)
  | .keyLost => .fail 0x31
  | .poisoned => .fail 0x40
  | _ =>
    if poisoned then .fail 0x40
    else match p.loc with
      | .t0 slice slot => .data (readT0 s owner ((slice * 256 + slot) * 65536) off len)
      | .t1 stack frame =>
        let base := (pageAddr p.codec.toNat page p.loc).getD 0
        if frameBad s stack frame then .fail 0x40
        else if isF p.codec.toNat then
          match s.homeExt he with
          | none => .data (zeros len)
          | some x =>
            match readBlockF s x (base + blk * codecFSlot p.codec.toNat) with
            | some bs => .data ((bs.drop (off % 4096)).take len)
            | none => .fail 0x40
        else if p.codec = 4 ∧ t.bpoison = true then .fail 0x40
        else if p.codec = 4 ∧ t.escape.isSome = true then .bad (t.escape == some 2)
        else .data (Memory.readBytes s.mem (base + off) len)
      | _ =>
        if t.bpoison then .fail 0x40
        else match KMap.find ov (blockKey he page blk) with
          | some bs => .data ((bs.drop (off % 4096)).take len)
          | none => .fetch

/-- A frame number not in a list, the lowest from `n` on. -/
def firstFree (fuel n : Nat) (used : List Nat) : Nat :=
  match fuel with
  | 0 => n
  | f + 1 => if used.contains n then firstFree f (n + 1) used else n

/-- Frames of a stack that pages may take: all but the ledger reserve (R165). -/
def framesOf (stack : Nat) : Nat := if stack = 0 ∨ stack = 8 then 770048 else 786432

/-- Frames in use on a stack. -/
def usedFrames (s : State) (stack : Nat) : List Nat := KMap.getD s.home.usedT1 stack []

/-- Frames of a stack that an allocation may not take: in use, or on a retired or failed channel (R412). -/
def frameTaken (s : State) (stack frame : Nat) : Bool :=
  (usedFrames s stack).contains frame || frameBad s stack frame
    || (match KMap.find s.home.stackSt stack with | some x => x.retired.getLsbD (frame % 32) | none => false)

/-- The lowest run of `n` free frames of a stack from `f` on. -/
def freeRunFrom (s : State) (stack n fuel f : Nat) : Option Nat :=
  match fuel with
  | 0 => none
  | k + 1 =>
    if f + n > framesOf stack then none
    else if (List.range n).any (fun i => frameTaken s stack (f + i)) then freeRunFrom s stack n k (f + 1)
    else some f

/-- The fuel of a search for free frames: it ends past every used frame and every bad channel. -/
def frameFuel (s : State) (stack n : Nat) : Nat := 32 * ((usedFrames s stack).length + n + 1) + 1

/-- Free frames of all stacks (R184). -/
def freeFrames (s : State) : Nat :=
  ((stacksOf s.variant).map (fun k =>
    if stackOut s k then 0
    else match KMap.find s.home.stackSt k with
    | some x =>
        framesOf k - framesOf k / 32 * ((List.range 32).filter (fun c => x.retired.getLsbD c || x.failed.getLsbD c)).length
          - (usedFrames s k).length
    | none => framesOf k - (usedFrames s k).length)).sum

/-- The order in which stacks are tried (R176): the die with the fewest allocated frames first, then by allocated frames
and number (log 18). -/
def stackOrder (s : State) : List Nat :=
  let cnt (d : Nat) : Nat := (((stacksOf s.variant).filter (fun k => k / 8 = d)).map (fun k => (usedFrames s k).length)).sum
  let d := if cnt 1 < cnt 0 then 1 else 0
  let on (d : Nat) : List Nat := sortBy
    (fun a b => decide ((usedFrames s a).length < (usedFrames s b).length ∨ ((usedFrames s a).length = (usedFrames s b).length ∧ a ≤ b)))
    ((stacksOf s.variant).filter (fun k => k / 8 = d))
  on d ++ on (1 - d)

/-- `n` consecutive free frames of one stack, in the order of R176. -/
def allocFrames (s : State) (n : Nat) : Option (Nat × Nat) :=
  (stackOrder s).findSome? (fun k => (freeRunFrom s k n (frameFuel s k n) 0).map (fun f => (k, f)))

/-- Mark frames of a stack as used. -/
def takeFrames (s : State) (stack frame n : Nat) : State :=
  s.setHome { s.home with usedT1 := KMap.put s.home.usedT1 stack ((usedFrames s stack) ++ (List.range n).map (frame + ·)) }

/-- Return frames of a stack. -/
def dropFrames (s : State) (stack frame n : Nat) : State :=
  let left := (usedFrames s stack).filter (fun f => decide (f < frame ∨ frame + n ≤ f))
  s.setHome { s.home with usedT1 := KMap.put s.home.usedT1 stack left }

/-- Fill storage with zeros. -/
def zeroStorage (s : State) (a n : Nat) : State := s.setMem (s.mem.filter (fun c => decide (c.1 < a ∨ a + n ≤ c.1)))

/-- The last `HEAT` and pins aside, what a newly mapped page's entry holds. -/
def mapped (p : Pte) (codec : BitVec 3) (l : Loc) : Pte := { p with loc := l, state := .resident, codec := codec, move := 0 }

/-- The rate of an octet in frames (R216). -/
def octetFrames (codec : Nat) : Nat := 8 * pageStored codec / 65536

/-- The frame that holds the first byte of a page in its octet (R216). -/
def octetFrame (codec page frame : Nat) : Nat := frame + page % 8 * pageStored codec / 65536

/-- The tier of a place. -/
def Loc.tier (l : Loc) : Tier :=
  match l with | .t0 .. => .t0 | .t1 .. => .t1 | .t2 .. => .t2 | .t2n .. => .t2n

/-- Whether a place is at a tray or lender. -/
def Loc.lower (l : Loc) : Bool := match l with | .t2 .. => true | .t2n .. => true | _ => false

/-- The 64 KiB units that a page's move takes at a place outside T0: an octet's under codec F (R216, R217). -/
def moveUnits (codec : Nat) : Nat := if isF codec then octetFrames codec else 1

/-- The place of a page of an octet from the octet's base unit (R216). -/
def octetLoc (codec page : Nat) (base : Loc) : Loc :=
  let o := if isF codec then page % 8 * pageStored codec / 65536 else 0
  match base with
  | .t1 k f => .t1 k (f + o)
  | .t2 ep p => .t2 ep (p + o)
  | .t2n ep p lend => .t2n ep (p + o) lend
  | l => l

/-- The base unit of a page's octet, or the page's own place (R216). -/
def octetBaseLoc (codec page : Nat) (l : Loc) : Loc :=
  let o := if isF codec then page % 8 * pageStored codec / 65536 else 0
  match l with
  | .t1 k f => .t1 k (f - o)
  | .t2 ep p => .t2 ep (p - o)
  | .t2n ep p lend => .t2n ep (p - o) lend
  | l => l

/-- Whether two pages of a home extent lie and move together: the same page, or under codec F the same octet (R216, R217). -/
def samePlace (s : State) (he p q : Nat) : Bool := p == q || (isF (s.extCodec he).1 && p / 8 == q / 8)

/-- The first mapped page of a page's octet under codec F (R217). -/
def octetMate (s : State) (he page : Nat) : Option Nat :=
  if isF (s.extCodec he).1 then
    ((List.range 8).map (page / 8 * 8 + ·)).find? (fun q => (s.pte he q).state == .resident || (s.pte he q).state == .moving)
  else none

/-- Free a place with its units, its storage read as zeros after. -/
def dropLoc (s : State) (l : Loc) (units : Nat) : State :=
  match l with
  | .t0 slice slot => s.setHome { s.home with usedT0 := KMap.upd s.home.usedT0 slice [] (fun u => u.filter (· != slot)) }
  | .t1 k f => zeroStorage (dropFrames s k f units) (t1Base + (k * 786432 + f) * 65536) (units * 65536)
  | .t2n _ p lend => s.setHome { s.home with lends := s.home.lends.map (fun x =>
      if x.1 = lend then (x.1, { x.2 with used := x.2.used.filter (fun n => decide (n < p ∨ p + units ≤ n)) }) else x) }
  | .t2 .. => s

/-- The lines of a page as poisoned-line keys. -/
def pageLines (he page : Nat) : List Nat := (List.range 512).map (he * 2 ^ 23 + page * 512 + ·)

/-- Map an unmapped or poisoned page in T1 (R176, R177, R217): none when no frame is free. A poisoned page keeps every
line poisoned. -/
def allocPage (s : State) (he page : Nat) : Option State :=
  let codec := (s.extCodec he).1
  let old := (s.pte he page).state
  let fin (s : State) (k f : Nat) : State :=
    let s := zeroStorage s ((pageAddr codec page (.t1 k f)).getD 0) (pageStored codec)
    let s := s.updPte he page (fun p => mapped p (.ofNat 3 codec) (.t1 k f))
    let s := s.updExt he (fun x => { x with blocks := KMap.keep x.blocks (fun b _ => decide (b / 16 ≠ page)) })
    if old = .poisoned then s.setHome { s.home with poison := s.home.poison ++ (pageLines he page).filter (fun l => !s.home.poison.contains l) }
    else s
  if isF codec then
    match (octetMate s he page).map (fun q => octetBaseLoc codec q (s.pte he q).loc) with
    | some (.t1 k f) => some (fin s k (octetFrame codec page f))
    | some _ => none
    | none =>
      match allocFrames s (octetFrames codec) with
      | some (k, f) => some (fin (takeFrames s k f (octetFrames codec)) k (octetFrame codec page f))
      | none => none
  else
    match allocFrames s 1 with
    | some (k, f) => some (fin (takeFrames s k f 1) k f)
    | none => none

/-- Write T0 bytes for an owner: a line with another tag is zeroed first, and takes the owner's tag (R402). -/
def writeT0 (s : State) (owner base off : Nat) (bs : List Byte) : State :=
  let ls := (linesOf off bs.length).map (fun l => base / 128 + l)
  let s := ls.foldl (fun s l =>
    if KMap.getD s.home.tags l 0x1FFF = owner then s
    else (zeroStorage s (l * 128) 128).setHome { s.home with tags := KMap.put s.home.tags l owner }) s
  s.setMem (Memory.writeBytes s.mem (base + off) bs)

/-- Store a codec F block (R213, R215, R218, R219): the new state, and whether the escape found the area full. -/
def writeBlockF (s : State) (he : Nat) (x : HomeExt) (stack addr : Nat) (bs : List Byte) : State × Bool :=
  let codec := x.codec.toNat
  let slot := Memory.readBytes s.mem addr (codecFSlot codec)
  let oldIdx := if slot.headD 0 = 0xFF then some (leNat ((slot.drop 4).take 4)) else none
  let limit := 16 * (match s.compEntry x.comp with | some e => e.ovfFrames | none => 64)
  let free (s : State) : State := match oldIdx with
    | some n => s.updExt he (fun x => { x with overflow := x.overflow.filter (· != n) })
    | none => s
  let put (s : State) (b : List Byte) : State := s.setMem (Memory.writeBytes s.mem addr b)
  let marker (n : Nat) : List Byte := [0xFF, 0, 0, 0] ++ leBytes 4 n ++ zeros (codecFSlot codec - 8)
  match elemFormat x.elem.toNat with
  | none => (put s (bs.take (codecFSlot codec)), false)
  | some f =>
    if blockEscapes f bs then
      let n := match oldIdx with
        | some n => if n < 16 * x.ovfArea.length then n else firstFree (x.overflow.length + 1) 0 x.overflow
        | none => firstFree (x.overflow.length + 1) 0 x.overflow
      let full (s : State) : State × Bool := (put s (marker 0xFFFFFFFF), true)
      if n ≥ limit then full s
      else if n < 16 * x.ovfArea.length then
        let s := s.updExt he (fun x => { x with overflow := addOnce x.overflow n })
        ((put s (marker n)).setMem (Memory.writeBytes (put s (marker n)).mem ((overflowAddr x n).getD 0) bs), false)
      else
        match freeRunFrom s stack 1 (frameFuel s stack 1) 0 with
        | none => full s
        | some fr =>
          let grow (x : HomeExt) : HomeExt := { x with overflow := addOnce x.overflow n, ovfArea := x.ovfArea ++ [(stack, fr)] }
          let s := (takeFrames s stack fr 1).updExt he grow
          let s := put s (marker n)
          (s.setMem (Memory.writeBytes s.mem (t1Base + (stack * 786432 + fr) * 65536 + n % 16 * 4096) bs), false)
    else (put (free s) (encodeF f codec bs), false)

/-- The Tier engine of a stack's page (R225). -/
def tierEngineOf (l : Loc) : Nat := match l with | .t1 k _ => k | _ => 0

/-- The tag of a codec L block stored with these bytes (R222). -/
def tagL (elem : Nat) (bs : List Byte) : BlockTag :=
  let w := match elemFormat elem with | some f => f.width / 8 | none => 1
  let n := (Config.lz4Encode (shuffleL w bs)).length
  if (8 + n + 127) / 128 ≥ 32 then { raw := true, bpoison := false, stored := 4096, escape := none }
  else { raw := false, bpoison := false, stored := 8 + n, escape := none }

/-- A write marks its lines dirty in the record of a page that is moving (R185). -/
def markDirty (s : State) (he page off len : Nat) : State :=
  let p := s.pte he page
  if p.state = .moving then
    let mark (m : MoveRec) : MoveRec :=
      if m.homeExt = he ∧ m.page = page then { m with dirty := m.dirty ++ (linesOf off len).filter (fun l => !m.dirty.contains l) }
      else m
    s.setHome { s.home with moves := KMap.mapVals s.home.moves mark }
  else s

/-- Write bytes of one page within one 4 KiB block, the page lying in T0 or T1 (R177, R185, R215, R218, R228, R229,
R402, R413): the status, and the state. -/
def writePiece (s : State) (owner he page off : Nat) (bs : List Byte) : State × BitVec 8 :=
  let p := s.pte he page
  let blk := off / 4096
  let len := bs.length
  let covered := (linesOf off len).filter (fun l => decide (off ≤ l * 128 ∧ l * 128 + 128 ≤ off + len))
  let clean (s : State) : State :=
    let left := s.home.poison.filter (fun k => !(covered.any (fun l => he * 2 ^ 23 + page * 512 + l == k)))
    s.setHome { s.home with poison := left }
  match p.loc with
  | .t0 slice slot => (markDirty (clean (writeT0 s owner ((slice * 256 + slot) * 65536) off bs)) he page off len, 0)
  | .t1 stack frame =>
    let base := (pageAddr p.codec.toNat page p.loc).getD 0
    if frameBad s stack frame then (s, 0x40)
    else if isF p.codec.toNat then
      match s.homeExt he with
      | none => (s, 0)
      | some x =>
        let addr := base + blk * codecFSlot p.codec.toNat
        let old := if len = 4096 then some (zeros 4096) else readBlockF s x addr
        match old with
        | none => (s, 0x40)
        | some o =>
          let (s, full) := writeBlockF s he x stack addr (overlay o (off % 4096) bs)
          let s := if full then s.updTe stack (fun t => { t with ovfFull := satAdd 8 t.ovfFull 1 }) else clean s
          (markDirty s he page (blk * 4096) 4096, if full then 0x40 else 0)
    else if p.codec = 4 then
      let t := s.blockTag he page blk
      if len ≠ 4096 ∧ (t.bpoison = true) then (s, 0x40)
      else if len ≠ 4096 ∧ t.escape.isSome = true then
        let s := s.setBlockTag he page blk { t with bpoison := true, escape := none }
        let crc := t.escape == some 2
        (s.updTe stack (fun e => if crc then { e with crcErr := satAdd 16 e.crcErr 1 } else { e with sizeErr := satAdd 16 e.sizeErr 1 }),
          if crc then 0x40 else 0x41)
      else
        let s := clean (s.setMem (Memory.writeBytes s.mem (base + off) bs))
        let t' := tagL (s.extCodec he).2 (Memory.readBytes s.mem (base + blk * 4096) 4096)
        let s := (s.setBlockTag he page blk t').updTe stack (fun e =>
          if t'.raw && !t.raw then { e with rawBlocks := satAdd 20 e.rawBlocks 1 } else e)
        (markDirty s he page off len, 0)
    else (markDirty (clean (s.setMem (Memory.writeBytes s.mem (base + off) bs))) he page off len, 0)
  | _ => (s, 0)

/-- A block that failed to decode is poisoned and counted (R228). -/
def decodeFailed (s : State) (he page blk : Nat) (crc : Bool) : State :=
  let t := s.blockTag he page blk
  (s.setBlockTag he page blk { t with bpoison := true, escape := none }).updTe (tierEngineOf (s.pte he page).loc)
    (fun e => if crc then { e with crcErr := satAdd 16 e.crcErr 1 } else { e with sizeErr := satAdd 16 e.sizeErr 1 })

/-- Heat sampling (R179): every 2^n-th translation of a unit adds to a page's `HEAT`, and a store sets `WRITTEN`. Which unit translates an
access is open (log 185). -/
def sampleHeat (s : State) (he page : Nat) (store : Bool) : State :=
  let u := Config.translationUnit he page
  let n := KMap.getD s.home.heatTick u 0 + 1
  let hit := decide (n % 2 ^ s.alm.cur.settings.heatLog2 = 0)
  (s.setHome { s.home with heatTick := KMap.put s.home.heatTick u n }).updPte he page
    (fun p => { p with heat := satAdd 8 p.heat (b2n hit), written := p.written || (hit && store) })

end Sys2Proof.Machine
end

