-- ==== Sys2Proof/Machine/Net.lean ====
section
/-! DEFINITION. Frames on their way: completions, routes, output queues with push-out, control words, fault reports and
answers to the control node. -/

namespace Sys2Proof.Machine

/-! ## Answers and notes on the Finug port (R463, R466) -/

/-- Answer a Finug command on its session, or hold the answer for the next session of the same control node (R463). -/
def answer (s : State) (m : CmdRef) (status : Nat) (reason : Nat) (body : List Byte) : State :=
  let code := ((s.fn.codes.find? (fun c => c.1 == m)).map (·.2)).getD 0
  let s := s.setFn { s.fn with codes := s.fn.codes.filter (fun c => c.1 != m) }
  let key := match KMap.find s.kp.sessions m.session.toNat with | some x => x.kRsp | none => []
  let a : Answer := { m := m, code := code, status := .ofNat 8 status, reason := .ofNat 16 reason, body := body, key := key }
  match KMap.find s.kp.sessions m.session.toNat with
  | some x =>
    let x := { x with unanswered := removeOne x.unanswered m.seq }
    (s.setKp { s.kp with sessions := KMap.put s.kp.sessions m.session.toNat x }).setFn { s.fn with out := s.fn.out ++ [a] }
  | none =>
    let l := s.fn.stored ++ [a]
    s.setFn { s.fn with stored := l.drop (l.length - 256) }

/-- The bytes a queue of notes takes: header and tag, stream and time, and the record. -/
def notesSize (l : List Note) : Nat := (l.map (fun n => 80 + 8 * n.body.length)).sum

/-- Drop the oldest notes of a queue that holds more than 4 MB; the answer says how many. -/
def dropOldest (l : List Note) (size : Nat) : List Note × Nat :=
  match l with
  | [] => ([], 0)
  | n :: rest =>
    if size ≤ 2 ^ 22 then (n :: rest, 0)
    else
      let r := dropOldest rest (size - (80 + 8 * n.body.length))
      (r.1, r.2 + 1)

/-- Queue a telemetry note on a session; a full queue drops its oldest notes, and the next note sent says how many (R466). -/
def noteTo (s : State) (id stream : Nat) (body : List W64) : State :=
  let seq := KMap.getD s.fn.noteSeq (id * 8 + stream) 0
  let q := KMap.getD s.fn.notes id []
  let n : Note := { stream := stream, time := s.now, seq := seq, body := body }
  let r := dropOldest (q ++ [n]) (notesSize (q ++ [n]))
  s.setFn { s.fn with notes := KMap.put s.fn.notes id r.1, noteSeq := KMap.put s.fn.noteSeq (id * 8 + stream) (seq + 1),
                      dropped := KMap.put s.fn.dropped id (KMap.getD s.fn.dropped id 0 + r.2) }

/-- Queue a telemetry note on every session that subscribes to a stream. -/
def note (s : State) (stream : Nat) (body : List W64) : State :=
  s.kp.sessions.foldl (fun s p => if p.2.streams.getLsbD stream then noteTo s p.1 stream body else s) s

/-! ## Routes (R88, R159, R427, R506) -/

/-- Whether an endpoint id is a module of the topology. -/
def isModule (s : State) (e : Ep) : Bool := e == s.self || (KMap.find s.alm.cur.topo.modules e.toNat).isSome

/-- The port of this module that binds an endpoint. -/
def localPort (s : State) (e : Ep) : Option Nat :=
  match KMap.first? s.alm.cur.ports (fun _ b => !b.fabric && b.ep == e && b.primary) with
  | some p => some p.1
  | none => (KMap.first? s.alm.cur.ports (fun _ b => !b.fabric && b.ep == e)).map (·.1)

/-- The module that an endpoint belongs to. -/
def moduleOf (s : State) (e : Ep) : Option Ep :=
  if isModule s e then some e
  else if (localPort s e).isSome then some s.self
  else (KMap.find s.alm.cur.topo.endpoints e.toNat).map (·.module)

/-- Whether the Almanac's topology assigns an endpoint id (R81). -/
def assigned (s : State) (e : Ep) : Bool := e != 0 && (moduleOf s e).isSome

/-- Whether a fence in force names an endpoint id (R427). -/
def isFenced (s : State) (e : Ep) : Bool := (KMap.find s.health.fenced e.toNat).isSome

/-- A link that may carry frames: its ends up as far as this module knows, neither end fenced (R160, R427). -/
def linkUsable (s : State) (l : TopoLink) : Bool :=
  !isFenced s l.a && !isFenced s l.b
    && (l.a != s.self || (s.port l.portA).up) && (l.b != s.self || (s.port l.portB).up)
    && !s.health.portsDown.contains (l.a.toNat * 65536 + l.portA) && !s.health.portsDown.contains (l.b.toNat * 65536 + l.portB)

/-- The modules next to one, with the port of the first that leads there. -/
def neighbours (s : State) (m : Ep) : List (Ep × Nat) :=
  (s.alm.cur.topo.links.filter (linkUsable s)).filterMap (fun l =>
    if l.a = m then some (l.b, l.portA) else if l.b = m then some (l.a, l.portB) else none)

/-- Modules at each distance from a target, nearest first. -/
def hopLevels (s : State) (fuel : Nat) (seen frontier : List Ep) : List (List Ep) :=
  match fuel with
  | 0 => []
  | n + 1 =>
    if frontier.isEmpty then []
    else
      let next := (frontier.flatMap (fun m => (neighbours s m).map (·.1))).foldl
        (fun acc m => if seen.contains m || acc.contains m then acc else acc ++ [m]) []
      frontier :: hopLevels s n (seen ++ next) next

/-- The equal-cost fabric ports towards a module, in port order (R159). -/
def portsTowards (s : State) (target : Ep) : List Nat :=
  let lv := hopLevels s (s.alm.cur.topo.modules.length + 2) [target] [target]
  let mine := sortBy (fun a b => decide (a.2 ≤ b.2)) (neighbours s s.self)
  match lv.find? (fun l => mine.any (fun p => l.contains p.1)) with
  | some l => (mine.filter (fun p => l.contains p.1)).map (·.2)
  | none => []

/-- The port towards an endpoint by the hash of (source, home, class): none when no path is up. -/
def nextPort (s : State) (src dest : Ep) (cls : BitVec 3) : Option Nat :=
  match localPort s dest with
  | some p => if (s.port p).up then some p else none
  | none =>
    match moduleOf s dest with
    | none => none
    | some m =>
      let l := portsTowards s m
      match l with
      | [p] => some p
      | _ => l[Config.pathHash src.toNat dest.toNat cls.toNat % max l.length 1]?

/-- The lanes of a logical port: 64 working lanes of 68 on each chiplet (R9). -/
def portLanes (port lanes : Nat) : List Nat := (List.range lanes).map (fun i => port / 64 * 68 + port % 64 + i)

/-- A port goes down: its lanes, and the spares that serve for them, hold lock no longer (R112). -/
def setDown (s : State) (port : Nat) : State :=
  let s := s.updPort port (fun p => { p with up := false })
  match KMap.find s.alm.cur.ports port with
  | none => s
  | some b =>
    let l := portLanes port b.lanes
    s.setLanes (s.lanes.map (fun x => if l.contains x.1 || (x.2.role == 2 && l.contains x.2.serves.toNat) then (x.1, { x.2 with lock := false }) else x))

/-! ## Control words (R98) -/

/-- A control word: its type in bits 127:124, its content right-aligned in bits 123:16, and its CRC. R98 says only that the content lies in
between: that it is right-aligned is the model's choice, for every type (DESIGN CHOICE, log 42). -/
def controlWord (type content : Nat) : BitVec 128 :=
  let v := type % 16 * 2 ^ 108 + content % 2 ^ 108
  .ofNat 128 (v * 65536 + crc16 v)

/-- Type and content of a control word; none where its CRC fails (R98). -/
def wordOf (w : BitVec 128) : Option (Nat × Nat) :=
  let v := w.toNat / 65536
  if crc16 v = w.toNat % 65536 then some (v / 2 ^ 108, v % 2 ^ 108) else none

/-- Send a control word on a port. -/
def sendControl (s : State) (port type content : Nat) : State :=
  s.updPort port (fun p => { p with control := p.control ++ [controlWord type content] })

/-- Whether a port's frames are protected by GCM (R395, R397). -/
def sealsPort (s : State) (port : Nat) : Bool := match KMap.find s.alm.cur.ports port with | some b => b.fabric || b.edgeGcm | none => false

/-- Cells that a frame with `n` bytes of payload takes on a port: a protected one carries a trailer of 32 bytes (R95, R395). -/
def linkCells (s : State) (port n : Nat) : Nat := cellsOf (if sealsPort s port then n + 32 else n)

/-- Cells of a class have left the ingress port's store: their credits go back (R105). Ports of the module's own are 512. -/
def freeCells (s : State) (port : Nat) (cls : BitVec 3) (cells : Nat) : State :=
  if cls = 0 ∨ port ≥ 512 then s
  else
    let n := KMap.getD (s.port port).rxFreed cls.toNat 0 + .ofNat 24 cells
    let s := s.updPort port (fun p => { p with rxFreed := KMap.put p.rxFreed cls.toNat n })
    if (s.port port).withheld.contains cls.toNat then s else sendControl s port 3 (cls.toNat * 2 ^ 24 + n.toNat)

/-- A frame with `n` bytes of payload has left the ingress port's store. -/
def freeCredit (s : State) (port : Nat) (cls : BitVec 3) (n : Nat) : State := freeCells s port cls (linkCells s port n)

/-! ## Frames and requests -/

/-- The port number that marks a frame of the module's own. -/
def ownPort : Nat := 512

/-- The payload bytes of a frame, those still to come included. -/
def frameSize (f : Frame) : Nat := f.payload.length + f.more

/-- The cells of a frame that have been stored: of one that is still arriving, those that are full (R113). -/
def storedCells (f : Frame) : Nat := if f.more = 0 then cellsOf f.payload.length else (64 + f.payload.length) / 256

/-- The frame of a request. -/
def reqFrame (r : Req) : Frame := { hdr := r.hdr, payload := r.payload, poisoned := r.poisoned, pcrc := r.pcrc, rx := r.rx, more := r.more }

/-- The payload bytes of a request, those still to come included. -/
def reqSize (r : Req) : Nat := frameSize (reqFrame r)

/-- A frame as a request that this module admits now: the mode and the Almanac entry of its composition govern it to its completion (R27,
R56). -/
def newReq (s : State) (f : Frame) (port : Nat) (lseq : Option (BitVec 16)) (edge : Bool) : Req :=
  { hdr := f.hdr, payload := f.payload, port := port, lseq := lseq, edge := edge, day := s.day, cycle := s.time.cycle, poisoned := f.poisoned,
    strict := s.strict f.hdr.comp, ord := s.nextId, entry := s.compEntry f.hdr.comp, pcrc := f.pcrc, rx := f.rx, more := f.more }

/-- The rest of a frame in arrival is discarded as it comes (R125, R131). -/
def discardRest (s : State) (rx : Option Nat) : State :=
  match rx with
  | none => s
  | some n =>
    let drop (o : Option OpenFrame) : Option OpenFrame := o.map (fun o => if o.name = n then { o with discard := true, here := false } else o)
    s.setPorts (KMap.mapVals s.ports (fun p => { p with openTc0 := drop p.openTc0, openOther := drop p.openOther }))

/-- A request's frame is stored here no longer: its cells still to come are discarded, and the credits of all go back to the port it came in
by. -/
def freeReq (s : State) (r : Req) : State := freeCredit (discardRest s r.rx) r.port r.hdr.cls (reqSize r)

/-! ## The packet buffer (R113 to R117, R129 to R131) -/

/-- Cells of a die's half of the buffer (R113). -/
def dieCells (s : State) : Nat := s.alm.cur.settings.bufSlices * 65536 / 2

/-- Cells of the lossless reserve (R114). -/
def losslessCells (s : State) : Nat := (s.alm.cur.ports.map (fun p => (p.2.credits.take 4).sum)).sum

/-- Cells of the shared region of a die (R114). -/
def sharedCells (s : State) (die : Nat) : Nat := dieCells s - s.alm.cur.settings.tc0Reserve.getD die 0 - losslessCells s

/-- Shared cells in use on a die. -/
def sharedUsed (s : State) (die : Nat) : Nat :=
  ((s.xb.queue.filter (fun q => decide (dieOfPort q.2.port = die))).map (fun q => q.2.shared)).sum
    + ((s.xb.copies.filter (fun c => c.2.die == (die == 1) && c.2.frame.hdr.cls != 0)).map (fun c => storedCells c.2.frame)).sum
    + ((s.eng.queue.filter (fun q => decide (q.2.engine / 32 = die))).map (fun q => cellsOf q.2.req.payload.length)).sum

/-- A frame that may be pushed out: none of its cells has begun transmission (R129). -/
def eligible (q : QFrame) : Bool := decide (q.frame.hdr.cls.toNat ≥ 5) && q.isReq && q.copy.isNone && q.begun.isNone

/-- A frame that could be pushed out: its name, queue, class, cells, and whether it may be. -/
structure Candidate where
  id : Nat
  queue : Nat
  cls : Nat
  cells : Nat
  may : Bool
  deriving DecidableEq, Repr

/-- The frames of a die in output queues and in engines' input queues (R116, R245). -/
def candidates (s : State) (die : Nat) : List Candidate :=
  (s.xb.queue.filter (fun q => decide (dieOfPort q.2.port = die))).map (fun q =>
      { id := q.1, queue := q.2.port, cls := q.2.frame.hdr.cls.toNat, cells := q.2.cells, may := eligible q.2 })
    ++ (s.eng.queue.filter (fun q => decide (q.2.engine / 32 = die))).map (fun q =>
      { id := q.1, queue := 1024 + engKey q.2.kind q.2.engine, cls := q.2.req.hdr.cls.toNat, cells := cellsOf q.2.req.payload.length,
        may := decide (q.2.req.hdr.cls.toNat ≥ 5) })

/-- The next frame to push out for an arriving class (R130): TC7, then TC6, then TC5, strictly below it; the queue with the
most cells of that class; its newest frame. Of two queues with equally many cells it is the one whose oldest eligible frame came first
(DESIGN CHOICE, log 72). -/
def victim (s : State) (die cls : Nat) : Option Nat :=
  ([7, 6, 5].filter (fun c => decide (c > cls))).findSome? (fun c =>
    let here := sortBy (fun a b => decide (a.id ≤ b.id)) ((candidates s die).filter (fun q => q.cls == c))
    let cells (p : Nat) : Nat := ((here.filter (fun q => q.queue == p)).map (fun q => q.cells)).sum
    ((here.filter (fun q => q.may)).foldl (fun (best : Option Candidate) q =>
      match best with
      | none => some q
      | some b => if cells q.queue ≥ cells b.queue ∧ (q.queue = b.queue ∨ cells q.queue > cells b.queue) then some q else best)
      none).map (·.id))

/-- The header of a completion (R79): it echoes, sets `RESP`, and takes the class of R75. -/
def completionHeader (s : State) (h : Header) (src : Ep) (status : BitVec 8) (len : Nat) (mayVary : Bool) : Header :=
  { h with version := 1, cls := if h.cls = 0 then 1 else h.cls, flags := flagResp ||| (if mayVary then flagMayVary else 0),
           dest := h.src, src := src, status := status, length := .ofNat 16 len, tstamp := s.stamp }

/-- Mirror rules and sampling (R132): the reason a frame is captured, if it is. Where several rules match it is the lowest, and a rule
before sampling (DESIGN CHOICE, log 47). -/
def mirrorReason (s : State) (inPort : Nat) (h : Header) : Option Nat :=
  let c := s.xb.mirCtrl.toNat
  if bit 63 c then
    let w := headerWords h
    let hit (i : Nat) : Bool := bit (28 + i) c && (List.range 2).all (fun k =>
      let v := (KMap.getD s.xb.mirRules (i * 4 + k) 0).toNat
      let m := (KMap.getD s.xb.mirRules (i * 4 + 2 + k) 0).toNat
      (w.getD k 0 &&& m) == (v &&& m))
    match (List.range 16).find? hit with
    | some i => some i
    | none =>
      let n := bits 61 57 c
      if n ≤ 20 ∧ inPort < 512 ∧ (s.port inPort).mirCount % 2 ^ n = 0 then some 16 else none
  else none

/-- Records that the mirror ring holds (R133). -/
def mirrorSize (s : State) : Nat := 8192 * 2 ^ min 8 (bits 47 44 s.xb.mirCtrl.toNat)

/-- Where a stored frame comes from: its ingress port and first cell, why its header is mirrored, and when this module admitted it. -/
structure Origin where
  port : Nat
  lseq : Option (BitVec 16)
  mir : Option Nat
  admitted : Nat
  deriving DecidableEq, Repr

/-- A frame that this module makes. -/
def ownOrigin (s : State) (h : Header) : Origin := { port := ownPort, lseq := none, mir := mirrorReason s ownPort h, admitted := s.now }

/-- A request's frame. -/
def reqOrigin (r : Req) : Origin := { port := r.port, lseq := r.lseq, mir := r.mir, admitted := r.day * 4096 + r.cycle }

/-- Where a frame in a queue comes from. -/
def queueOrigin (q : QFrame) : Origin := { port := q.inPort, lseq := q.inLseq, mir := q.mir, admitted := q.admitted }

/-- Write a mirror record for an event of a frame, where it is captured for a reason (R133). A ring whose `BASE_SLICE` or `SIZE_LOG2` does
not fit the mirror carve is kept all the same, as long as there is a carve (DESIGN CHOICE, log 47). -/
def mirror (s : State) (h : Header) (o : Origin) (event : BitVec 4) (outPort qdepth : Nat) : State :=
  match o.mir with
  | none => s
  | some r =>
    let rec' : MirRec := { hdr := h, event := event, reason := r, inPort := o.port, outPort := outPort, qdepth := qdepth,
                           tAdmit := o.admitted, tEvent := s.now }
    if s.alm.cur.settings.mirrorSlices = 0 then s.setXb { s.xb with mirLost := satAdd 64 s.xb.mirLost 1 }
    else if s.xb.mirRing.length < mirrorSize s then s.setXb { s.xb with mirRing := s.xb.mirRing ++ [rec'], mirNext := s.xb.mirNext + 1 }
    else if bit 62 s.xb.mirCtrl.toNat then s.setXb { s.xb with mirLost := satAdd 64 s.xb.mirLost 1 }
    else s.setXb { s.xb with mirRing := s.xb.mirRing.drop 1 ++ [rec'], mirNext := s.xb.mirNext + 1 }

/-- Cells queued in the queue of a class of a port. -/
def queueDepth (s : State) (port : Nat) (cls : BitVec 3) : Nat :=
  ((s.xb.queue.filter (fun q => q.2.port == port && q.2.frame.hdr.cls == cls)).map (fun q => q.2.cells)).sum

/-- Put a frame into an output queue with the cells it takes. One that is still arriving may leave at once where no frame of its stream waits
before it and the port has no more lanes than the one it comes in by (R119). -/
def placeFrame (s : State) (port : Nat) (f : Frame) (o : Origin) (notBefore : Nat) (copy : Option Nat) (shared : Nat) (flow : Option Nat) (skip : Nat) :
    State :=
  let (id, s) := s.fresh
  let lanes (p : Nat) : Nat := match KMap.find s.alm.cur.ports p with | some b => b.lanes | none => 0
  let q : QFrame :=
    { port := port, cut := f.rx.isSome && decide (lanes port ≤ lanes o.port) && !(s.xb.queue.any (fun q => q.2.port == port && q.2.frame.hdr.cls != 0)), frame := f, cells := storedCells f,
      isReq := !f.hdr.isResp && !noCompletionOps.contains f.hdr.opcode.toNat, copy := copy, inPort := o.port,
      inLseq := o.lseq, shared := shared, admitted := o.admitted, notBefore := notBefore, qdepth := queueDepth s port f.hdr.cls,
      mir := o.mir, flow := flow, skip := skip }
  s.setXb { s.xb with queue := KMap.put s.xb.queue id q }

/-- The note of a scheduled step among a source's requests that are out. -/
def stepNote (step : BitVec 24) : Nat := 2 ^ 96 + step.toNat

/-- Whether a completion is that of a scheduled step: TC1 carries no other completion of these opcodes (R75, R80). -/
def endsStep (h : Header) : Bool := h.cls == 1 && decide (h.opcode.toNat < 0x70)

/-- A store, or any request, of a source is complete when a completion with its `SEQ` and `ADDR` passes: that of the home that answers,
else the oldest one (R160, R161). -/
def markComplete (s : State) (f : Frame) : State :=
  let key := f.hdr.seq.toNat * 2 ^ 64 + f.hdr.addr.toNat
  let l := KMap.getD s.xb.outstanding f.hdr.dest.toNat []
  if endsStep f.hdr then
    s.setXb { s.xb with outstanding := KMap.put s.xb.outstanding f.hdr.dest.toNat (l.filter (fun p => p.2 != stepNote f.hdr.stepLo)) }
  else match (match l.find? (fun p => p.2 == key && p.1 / 16 % 2 ^ 16 == f.hdr.src.toNat) with | some p => some p | none => l.find? (fun p => p.2 == key)) with
  | some p => s.setXb { s.xb with outstanding := KMap.put s.xb.outstanding f.hdr.dest.toNat (removeOne l p) }
  | none => s

/-- A frame for this module itself takes no port. -/
def loopBack (s : State) (f : Frame) : State := s.setXb { s.xb with loop := s.xb.loop ++ [f] }

/-- What a completion ends at its destination's first hop: the request is complete, and a lease on it ends (R161, R440). -/
def endOut (s : State) (f : Frame) : State :=
  if (localPort s f.hdr.dest).isSome then
    let s := markComplete s f
    let done (l : Lease) : Bool := l.req.hdr.src == f.hdr.dest && l.req.hdr.seq == f.hdr.seq && l.req.hdr.addr == f.hdr.addr
    s.setXb { s.xb with leases := KMap.keep s.xb.leases (fun _ l => !done l) }
  else s

/-- A frame waits for a path (R506). A completion waits as well: R80 wants it delivered, and the manual gives it no deadline (log 19). -/
def waitFrame (s : State) (f : Frame) : State :=
  let (id, s) := s.fresh
  s.setXb { s.xb with waiting := KMap.put s.xb.waiting id { req := newReq s f ownPort none false, dest := f.hdr.dest, day := s.day, moving := false } }

/-- The completion `DROPPED_PUSHOUT` of a frame (R131): it is stored whatever room there is, since no completion is pushed out (R75). -/
def droppedCompletion (s : State) (h : Header) : State :=
  let f : Frame := { hdr := completionHeader s h s.self 0x51 0 false, payload := [], poisoned := false }
  let s := endOut s f
  if f.hdr.dest = s.self then loopBack s f
  else match nextPort s f.hdr.src f.hdr.dest f.hdr.cls with
    | some p => placeFrame s p f (ownOrigin s f.hdr) 0 none 1 none 0
    | none => waitFrame s f

/-- Count a push-out of a class. -/
def countPushout (s : State) (cls : BitVec 3) : State :=
  s.setXb { s.xb with pushout := KMap.upd s.xb.pushout cls.toNat 0 (fun n => satAdd 64 n 1) }

/-- What a pushed-out frame leaves (R131): the rest of its cells is discarded, its credits go back, the count, and the answer or the
`RESEND`. A TC6 frame of the module's own waits to be sent again (log 20). -/
def pushedOut (s : State) (f : Frame) (o : Origin) (outPort qdepth : Nat) : State :=
  let s := countPushout (freeCredit (discardRest s f.rx) o.port f.hdr.cls (frameSize f)) f.hdr.cls
  let s := mirror s f.hdr o 2 outPort qdepth
  if f.hdr.cls = 6 then
    if o.port < 512 then
      let l := (o.lseq.getD 0).toNat
      let w : ResendWait := { src := f.hdr.src, seq := f.hdr.seq, addr := f.hdr.addr, time := s.now }
      sendControl (s.updPort o.port (fun p => { p with tc6Wait := KMap.put p.tc6Wait l w })) o.port 5 l
    else waitFrame s f
  else droppedCompletion s f.hdr

/-- Push one frame out. -/
def pushOut (s : State) (id : Nat) : State :=
  match KMap.find s.xb.queue id, KMap.find s.eng.queue id with
  | some q, _ => pushedOut (s.setXb { s.xb with queue := KMap.del s.xb.queue id }) q.frame (queueOrigin q) q.port q.qdepth
  | none, some w => pushedOut (s.setEng { s.eng with queue := KMap.del s.eng.queue id }) (reqFrame w.req) (reqOrigin w.req) ownPort w.qdepth
  | none, none => s

/-- Push frames out until `need` shared cells of a die are free or none is left (R130). -/
def makeRoom (s : State) (fuel die cls need : Nat) : State :=
  match fuel with
  | 0 => s
  | n + 1 =>
    if sharedUsed s die + need ≤ sharedCells s die then s
    else match victim s die cls with
      | none => s
      | some id => makeRoom (pushOut s id) n die cls need

/-- Room for the `need` cells of a frame that have arrived: where the shared region has none, frames are pushed out until all its `total`
cells fit (R115, R130). -/
def roomFor (s : State) (die cls need total : Nat) : State :=
  if cls = 7 ∨ sharedUsed s die + need ≤ sharedCells s die then s
  else makeRoom s (s.xb.queue.length + s.eng.queue.length) die cls total

/-- The shared cells that `need` new cells of a frame take once there is what room there is: all of them, or for TC1 to TC4 what is left,
the rest lying in the lossless reserve; none where the frame is pushed out itself (R115, R130). A frame that no class gives way to and that
is not eligible itself, a completion or one without completion, is stored above the shared region (DESIGN CHOICE, log 72). TC0 takes its
own reserve. -/
def sharedShare (s : State) (die need : Nat) (f : Frame) : Option Nat :=
  let free := sharedCells s die - sharedUsed s die
  let cls := f.hdr.cls.toNat
  if cls = 0 then some 0
  else if need ≤ free then some need
  else if cls ≤ 4 then some free
  else if f.hdr.isResp || noCompletionOps.contains f.hdr.opcode.toNat then some need
  else none

/-- Store a frame for an output port (R115, R130). -/
def store (s : State) (port : Nat) (f : Frame) (o : Origin) (notBefore : Nat) (flow : Option Nat) (skip : Nat) : State :=
  let die := dieOfPort port
  let need := storedCells f
  let s := if f.hdr.cls = 0 then s else roomFor s die f.hdr.cls.toNat need (cellsOf (frameSize f))
  match sharedShare s die need f with
  | some n => placeFrame s port f o notBefore none n flow skip
  | none => pushedOut s f o port (queueDepth s port f.hdr.cls)

/-- Store a frame that this module makes. -/
def enqueue (s : State) (port : Nat) (f : Frame) (notBefore : Nat) : State := store s port f (ownOrigin s f.hdr) notBefore none 0

/-! ## Sending -/

/-- Send a completion towards its destination (R161, R440, R506). -/
def sendCompletion (s : State) (f : Frame) (notBefore : Nat) : State :=
  let s := endOut s f
  if f.hdr.dest = s.self then loopBack s f
  else match nextPort s f.hdr.src f.hdr.dest f.hdr.cls with
    | some p => enqueue s p f notBefore
    | none => waitFrame s f

/-- Whether a request yields a completion: its opcode has one, and a TC0 request only with `LAST_OF_STEP` (R80). -/
def completes (h : Header) : Bool :=
  !h.isResp && !noCompletionOps.contains h.opcode.toNat && (h.cls != 0 || h.lastOfStep)

/-- The key of a scheduled step of a source (R80). -/
def stepKey (h : Header) : Nat := h.src.toNat * 2 ^ 36 + h.comp.toNat * 2 ^ 24 + h.stepLo.toNat

/-- The step of a source and composition whose number did not come through (R52). -/
def anyStep (src : Ep) (comp : BitVec 12) : Nat := 2 ^ 60 + src.toNat * 2 ^ 12 + comp.toNat

/-- A bulk frame that came in as cells has been applied, or is not wanted: the sender may free it (R106). -/
def releaseBulk (s : State) (r : Req) : State :=
  if r.hdr.cls = 6 ∧ r.port < 512 then (match r.lseq with | some l => sendControl s r.port 4 l.toNat | none => s) else s

/-- The kind of engine that a command runs on. -/
def commandKind (r : Req) : Option EngineKind :=
  let op := r.hdr.opcode.toNat
  let w := wordAt r.payload 0
  if op = 0x42 then some .reduce
  else if (op = 0x48 ∧ bits 63 62 w = 0) ∨ (op = 0x49 ∧ bits 63 61 w = 0) then some .score
  else if 0x50 ≤ op ∧ op ≤ 0x54 then some .gather
  else none

/-- Engine commands that this module has admitted and not completed. -/
def openCommands (s : State) : List Req :=
  s.home.held.map (fun p => p.2.req) ++ s.home.operandWaits.map (fun p => p.2.req) ++ s.eng.queue.map (fun p => p.2.req)
    ++ s.eng.searches.map (fun p => p.2.req) ++ s.eng.attns.map (fun p => p.2.req) ++ s.eng.kvScans.map (fun p => p.2.req)
    ++ s.home.copies.filterMap (fun p => if p.2.scanOf.isSome then some p.2.req else none) ++ s.eng.parked.map (fun p => p.2.req)

/-- Whether a command is of the same source, class and engines as an earlier one (R19). A TC5 command never delays one of TC0 (R18). -/
def earlierCommand (q r : Req) : Bool :=
  decide (q.ord < r.ord) && q.hdr.src == r.hdr.src && q.hdr.comp == r.hdr.comp && q.hdr.cls == r.hdr.cls
    && (commandKind r).isSome && commandKind q == commandKind r

/-- Whether a command must not complete yet: an earlier one of its source on the same engines has not (R19). -/
def answersLater (s : State) (r : Req) : Bool := (openCommands s).any (fun q => earlierCommand q r)

/-- Send a request's completion, or keep it until the earlier ones have gone (R19). -/
def sendAnswer (s : State) (r : Req) (f : Frame) (notBefore : Nat) : State :=
  if answersLater s r then
    let (id, s) := s.fresh
    s.setEng { s.eng with parked := KMap.put s.eng.parked id { req := r, frame := f, notBefore := notBefore } }
  else sendCompletion (releaseBulk s r) f notBefore

/-- Send the completions that waited for earlier ones. -/
def releaseAnswers (s : State) : State :=
  (sortBy (fun a b => decide (a.2.req.ord ≤ b.2.req.ord)) s.eng.parked).foldl (fun s p =>
    if answersLater s p.2.req then s
    else sendCompletion (releaseBulk (s.setEng { s.eng with parked := KMap.del s.eng.parked p.1 }) p.2.req) p.2.frame p.2.notBefore) s

/-- Complete a request (R79, R80, R84, R106, R122): a frame of a TC0 step adds its status to the step's worst, which the
last-of-step frame returns. -/
def complete (s : State) (r : Req) (src : Ep) (status : BitVec 8) (payload : List Byte) (mayVary : Bool) (notBefore : Nat) : State :=
  let h := r.hdr
  let worst := max (KMap.getD s.xb.tc0Worst (stepKey h) 0).toNat status.toNat
  let last := max worst (KMap.getD s.xb.tc0Worst (anyStep h.src h.comp) 0).toNat
  let s := if h.cls = 0 ∧ h.isResp = false then
      s.setXb { s.xb with tc0Worst := if h.lastOfStep then KMap.del (KMap.del s.xb.tc0Worst (stepKey h)) (anyStep h.src h.comp)
                                      else KMap.put s.xb.tc0Worst (stepKey h) (.ofNat 8 worst) }
    else s
  let st : BitVec 8 := if h.cls = 0 then .ofNat 8 (if h.lastOfStep then last else worst) else status
  if completes h then
    sendAnswer s r { hdr := completionHeader s h src st payload.length mayVary, payload := payload, poisoned := false } notBefore
  else s

/-- Complete with a status and nothing else, at this module. -/
def completeStatus (s : State) (r : Req) (status : BitVec 8) : State := complete s r s.self status [] false 0

/-- Cycles of 520 ns (R84). -/
def violDelay : Nat := 884

/-- The earliest time at which a violation of a request may be answered (R84). -/
def violTime (r : Req) : Nat := r.day * 4096 + r.cycle + violDelay

/-- The payload of the answer to a violation (R83): zeros of the length asked for, or a zero old value. -/
def violPayload (h : Header) : List Byte :=
  let op := h.opcode.toNat
  if op = 0x10 ∨ op = 0x11 then zeros h.length.toNat
  else if isAtomic op then zeros (atomicBytes op h.etag)
  else []

/-- The stored operand form of an atomic's type: its FP format, if it is one (R77). -/
def atomicFormat (op : Nat) (etag : W64) : Option Fmt :=
  if op = 0x22 then some fmtF32
  else if op = 0x23 then some fmtBf16
  else if op = 0x24 ∨ op = 0x25 ∨ op = 0x26 then
    (if etag.toNat % 8 = 4 then some fmtF32 else if etag.toNat % 8 = 5 then some fmtBf16 else none)
  else none

/-- Whether a Strict composition refuses an atomic, which in Fast mode varies by nature (R60, R61). -/
def atomicVaries (op : Nat) (etag : W64) : Bool := op != 0x26 && (atomicFormat op etag).isSome

/-- Answer a violation silently and count it (R83, R84, R87): with may-vary as an allowed access would have it. -/
def violation (s : State) (r : Req) (src : Ep) (kind : Nat) : State :=
  complete (countViol s r.hdr.comp r.hdr.src kind 1) r src 0 (violPayload r.hdr) (isAtomic r.hdr.opcode.toNat && atomicVaries r.hdr.opcode.toNat r.hdr.etag) (violTime r)

/-- The `SEQ` of the module's next request to a destination (R151, log 6). -/
def nextSeq (s : State) (dest : Ep) : BitVec 32 × State :=
  let n := KMap.getD s.xb.seqOf dest.toNat 0
  (n, s.setXb { s.xb with seqOf := KMap.put s.xb.seqOf dest.toNat (n + 1) })

/-- What a module that has fenced itself still sends of its own: heartbeats, reports and the Equinox (R426). -/
def fencedSends (op : Nat) : Bool := op == 0x81 || op == 0x82 || decide (0x71 ≤ op ∧ op ≤ 0x73)

/-- A request of the module's own: it waits where no path is up (R506). A module that has fenced itself sends none but some; one for a
fenced destination is `FENCED` at this first hop (R427). -/
def sendRequest (s : State) (f : Frame) : State :=
  if s.rst.selfFenced && f.hdr.src == s.self && !fencedSends f.hdr.opcode.toNat then s
  else if f.hdr.dest = s.self then loopBack s f
  else if isFenced s f.hdr.dest && f.hdr.src == s.self && completes f.hdr then
    loopBack s { hdr := completionHeader s f.hdr f.hdr.dest 0x33 0 false, payload := [], poisoned := false }
  else match nextPort s f.hdr.src f.hdr.dest f.hdr.cls with
  | some p => enqueue s p f 0
  | none => waitFrame s f

/-- A header of a frame that this module creates. -/
def ownHeader (s : State) (op : Nat) (dest : Ep) (len : Nat) : Header :=
  { version := 1, cls := ownClass op, opcode := .ofNat 8 op, flags := 0, dest := dest, src := s.self, comp := 0, epoch := 0,
    tenant := 0, keySlot := 0, keyGen := 0, status := 0, seq := 0, length := .ofNat 16 len, addr := 0, etag := 0, stepLo := 0,
    tstamp := s.stamp }

/-- Send a request of the module's own with a `SEQ` of its pair, and remember what its completion means. -/
def sendOwn (s : State) (h : Header) (payload : List Byte) (why : Own) : State :=
  let (seq, s) := nextSeq s h.dest
  let o : OwnReq := { why := why, dest := h.dest, opcode := h.opcode, addr := h.addr, etag := h.etag }
  let s := s.setXb { s.xb with own := KMap.put s.xb.own (pairKey h.dest seq) o }
  sendRequest s { hdr := { h with seq := seq, src := s.self }, payload := payload, poisoned := false }

/-! ## Fault reports (R420 to R424) -/

/-- The `FAULT_REPORT` payload (R421). -/
def reportBytes (r : Report) : List Byte :=
  wordsBytes [ r.subject.toNat * 2 ^ 48 + r.port.toNat * 2 ^ 32 + r.kind.toNat * 2 ^ 29 + r.cls.toNat * 2 ^ 24
                 + r.score.toNat * 2 ^ 16 + min r.witnesses 65535,
               r.day % 2 ^ 48 * 65536 + r.first.toNat, 0, 0 ]

/-- The words of a report. -/
def reportWords (r : Report) : List W64 := (List.range 4).map (fun i => .ofNat 64 (wordAt (reportBytes r) i))

/-- A report read from its payload (R421). -/
def parseReport (bs : List Byte) : Report :=
  let a := wordAt bs 0
  let b := wordAt bs 1
  { subject := .ofNat 16 (bits 63 48 a), port := .ofNat 16 (bits 47 32 a), kind := .ofNat 3 (bits 31 29 a),
    cls := .ofNat 5 (bits 28 24 a), score := .ofNat 8 (bits 23 16 a), witnesses := bits 15 0 a,
    first := .ofNat 16 (bits 15 0 b), day := bits 63 16 b }

/-- The Equinox root: the Chronicle package with the lowest endpoint id (R31). -/
def equinoxRoot (s : State) : Option Ep :=
  (sortBy (fun a b => decide (a.toNat ≤ b.toNat)) s.alm.cur.members).head?

/-- A module's timing parent by the topology: the neighbour with the fewest hops to the root, lower port first (R31). -/
def timingParent (s : State) (m : Ep) : Option Ep :=
  match equinoxRoot s with
  | none => none
  | some r =>
    if m = r then none
    else
      let lv := hopLevels s (s.alm.cur.topo.modules.length + 2) [r] [r]
      let near := sortBy (fun a b => decide (a.2 ≤ b.2)) (neighbours s m)
      (lv.findSome? (fun l => near.find? (fun p => l.contains p.1))).map (·.1)

/-- The home switch of a subject (R423): the detector where the named one is fenced. -/
def homeSwitch (s : State) (r : Report) : Ep :=
  let ms := s.alm.cur.members
  let sw : Ep :=
    if r.kind = 7 then s.ch.leader
    else if r.kind = 1 then
      -- the Equinox root has no timing parent
      match timingParent s r.subject with
      | some p => p
      | none => (ms.filter (· != r.subject)).headD s.ch.leader
    else if r.kind = 2 then
      let ends := s.alm.cur.topo.links.find? (fun l =>
        (l.a == r.subject && l.portA == r.port.toNat) || (l.b == r.subject && l.portB == r.port.toNat))
      match ends with
      | some l => if l.a.toNat ≤ l.b.toNat then l.a else l.b
      | none => r.subject
    else if r.kind = 3 ∨ r.kind = 4 then r.subject
    else (moduleOf s r.subject).getD s.ch.leader
  if isFenced s sw || (sw != s.self && (nextPort s s.self sw 1).isNone) then s.ch.leader else sw

/-- The home switch merges reports of one Day by (subject, class) (R424). -/
def mergeReport (s : State) (r : Report) : State :=
  if isFenced s r.subject ∧ r.cls ≠ 0x08 then s.setHealth { s.health with localCount := s.health.localCount + 1 }
  else
    let same (x : Report) : Bool := x.subject == r.subject && x.port == r.port && x.kind == r.kind && x.cls == r.cls
    let l := if s.health.reports.any same then
        s.health.reports.map (fun x => if same x then { x with witnesses := min 65535 (x.witnesses + r.witnesses) } else x)
      else s.health.reports ++ [r]
    s.setHealth { s.health with reports := l }

/-- Send a frame that gets no completion, in TC1. -/
def sendPlain (s : State) (op : Nat) (dest : Ep) (payload : List Byte) : State :=
  sendRequest s { hdr := ownHeader s op dest payload.length, payload := payload, poisoned := false }

/-- Report a fault as a witness: at most once per (subject, class, Day) and `REPORT_MAX` a Day (R424). -/
def report (s : State) (subject : Ep) (port kind cls score : Nat) : State :=
  let r : Report := { subject := subject, port := .ofNat 16 port, kind := .ofNat 3 kind, cls := .ofNat 5 cls, score := .ofNat 8 score,
                      witnesses := 1, first := s.self, day := s.day }
  let key := (subject.toNat, (cls * 8 + kind) * 65536 + port)
  if s.health.sentPairs.contains key ∨ s.health.sentToday ≥ s.alm.cur.policy.reportMax then
    s.setHealth { s.health with localCount := s.health.localCount + 1 }
  else
    let s := s.setHealth { s.health with sentPairs := s.health.sentPairs ++ [key], sentToday := s.health.sentToday + 1 }
    if homeSwitch s r = s.self then mergeReport s r else sendPlain s 0x82 (homeSwitch s r) (reportBytes { r with first := 0 })

/-- The module fences itself at once and locally, and reports it (R29, R426). -/
def selfFence (s : State) : State :=
  if s.rst.selfFenced then s else report (s.setRst { s.rst with selfFenced := true }) s.self 0 1 0x08 0xFF

end Sys2Proof.Machine
end

