-- ==== Sys2Proof/Machine/Home.lean ====
section
/-! DEFINITION. The module as a home: rights of pages, holding, the directory, trays, and the service of reads, writes,
atomics, copies and counters at the home. -/

namespace Sys2Proof.Machine

/-! ## Checks of R86 -/

/-- Check 6: whether a frame's key generation is revoked at this module (R400, R405, R407). -/
def keyRevoked (s : State) (h : Header) : Bool :=
  match KMap.find s.kp.slots h.keySlot.toNat with
  | none => false
  | some k => decide ((k.state = 3 ∨ k.state = 0) ∧ h.keyGen = k.gen) || (h.keyGen != k.gen && decide ((k.gen - h.keyGen).toNat ≤ 32))

/-- The payload of a `STALE_EPOCH` completion (R364). -/
def staleBytes (s : State) (c : BitVec 12) : List Byte :=
  wordsBytes [(s.comp c).epoch.toNat * 2 ^ 48 + (s.comp c).epochDay % 2 ^ 48]

/-- Check 2 of R86, by every module, not on a frame that a module sends for a request it has admitted (R363); check 3, at the first hop
and the home, and at a module that has fenced itself (R426, R427); then the age limit of R164 (log 104): the failing status and its
payload. -/
def earlyCheck (s : State) (edge : Bool) (h : Header) : Option (BitVec 8 × List Byte) :=
  if !isModule s h.src && !epochInForce s h.comp h.epoch then some (0x20, staleBytes s h.comp)
  else if s.rst.selfFenced || ((edge || h.dest == s.self) && (isFenced s h.src || isFenced s h.dest)) then some (0x33, [])
  else if s.time.day > stampDay s.time.day h.tstamp + 4096 then some (0x50, [])
  else none

/-- The time stamp of a frame that a module sends for an admitted request: the request's, but never so old that R164 would end it (log 104). -/
def heirStamp (s : State) (t : BitVec 32) : BitVec 32 := if s.time.day > stampDay s.time.day t + 4096 then stampOf (s.time.day - 4096) 0 else t

/-- Page-level rights at the home (R139, R174, R175, R196, R201). `svc` marks the home's own services, `pin` a fetch-add on
a pin word. -/
def homeRights (s : State) (h : Header) (addr : W64) (write svc pin : Bool) : Right :=
  match extentRights s h addr (write && !pin) svc with
  | .viol k e => .viol k e
  | .ok home he =>
    let outside := if write then 2 else 1
    if home ≠ s.self then .viol outside (some home)
    else match s.homeExt he with
      | none => .viol outside (some home)
      | some x =>
        if x.comp ≠ h.comp then .viol outside (some home)
        else if write && (s.pte he (pageOf addr)).pro && !pin && !svc then .viol 3 (some home)
        else .ok home he

/-- The rights of a request at its home: judged once, by the map in force at its admission there (R27). -/
def reqRights (s : State) (r : Req) (addr : W64) (write svc pin : Bool) : Right :=
  match r.judged with
  | some he => .ok s.self he.toNat
  | none => homeRights s r.hdr addr write svc pin

/-! ## Work that waits at the home -/

/-- Hold a request, under the name and the arrival Day it already has when it was held before. -/
def holdReq (s : State) (old : Option (Nat × Nat)) (r : Req) (why : HeldWhy) (he page : Nat) : State :=
  match old with
  | some (id, day) => s.setHome { s.home with held := KMap.put s.home.held id { req := r, why := why, homeExt := he, page := page, day := day } }
  | none =>
    let (id, s) := s.fresh
    s.setHome { s.home with held := KMap.put s.home.held id { req := r, why := why, homeExt := he, page := page, day := s.day } }

/-- A request waits behind an earlier held one of the same source and class (R159, R226), the owner's write-back apart. -/
def mustFollow (s : State) (old : Option (Nat × Nat)) (r : Req) : Bool :=
  s.home.held.any (fun p => p.2.req.hdr.src == r.hdr.src && p.2.req.hdr.cls == r.hdr.cls && r.hdr.cls != 0
    && (match old with | some (id, _) => decide (p.1 < id) | none => true))

/-! ## The directory (R141 to R144) -/

/-- The GFA of a line of a home extent. -/
def lineGfa (s : State) (line : Nat) : Nat :=
  match s.homeExt (line / 2 ^ 23) with
  | some x => x.idx * 2 ^ 30 + line % 2 ^ 23 * 128
  | none => line % 2 ^ 23 * 128

/-- Send a `BINV` of a line to an endpoint (R142, R143). -/
def sendBinv (s : State) (c : BitVec 12) (epoch : BitVec 16) (line : Nat) (ep : Ep) : State :=
  let h := ownHeader s 0x18 ep 0
  sendOwn s { h with comp := c, epoch := epoch, addr := .ofNat 64 (lineGfa s line) } [] (.binv line ep)

/-- The endpoints that an invalidation of a directory entry reaches (R141). -/
def entryTargets (s : State) (c : BitVec 12) (d : DirEntry) : List Ep :=
  if d.broadcast then (match s.compEntry c with | some e => e.edges | none => d.holders) else d.holders

/-- Start the back-invalidation of a line to some endpoints. -/
def startBinv (s : State) (c : BitVec 12) (epoch : BitVec 16) (line : Nat) (eps : List Ep) (evict : Bool) : State :=
  let b : BinvSt := { await := eps, firstDay := s.day, lastDay := s.day, comp := c, evict := evict }
  let s := s.setHome { s.home with binv := KMap.put s.home.binv line b }
  eps.foldl (fun s e => sendBinv s c epoch line e) s

/-- Directory entries the carve holds (R141). -/
def dirCapacity (s : State) : Nat := s.alm.cur.settings.dirSlices * 524288

/-- Put a directory entry. -/
def putDir (s : State) (line : Nat) (d : DirEntry) : State :=
  s.setHome { s.home with dir := KMap.put s.home.dir line { d with age := s.home.dirAge }, dirAge := s.home.dirAge + 1 }

/-- Remove a directory entry: the line goes to I. -/
def delDir (s : State) (line : Nat) : State := s.setHome { s.home with dir := KMap.del s.home.dir line }

/-- The oldest directory entry that no back-invalidate is out for. -/
def oldestDir (s : State) : Option Nat :=
  (s.home.dir.foldl (fun (b : Option (Nat × Nat)) p =>
    if (KMap.find s.home.binv p.1).isSome then b
    else match b with | none => some (p.1, p.2.age) | some x => if p.2.age < x.2 then some (p.1, p.2.age) else b) none).map (·.1)

/-- How a request uses a coherent-shared line. -/
inductive LineUse where
  | read | own | write | store
  deriving DecidableEq, Repr

/-- One line of a coherent-shared access (R142): true when the request may be served, with the directory as the request
leaves it; false when it waits, with the back-invalidates it needs sent. -/
def lineAccess (s : State) (h : Header) (line : Nat) (u : LineUse) : State × Bool :=
  let d := KMap.find s.home.dir line
  let owner := match d with | some x => x.state == .o && x.holders == [h.src] | none => false
  let room (s : State) : State × Bool :=
    if s.home.dir.length < dirCapacity s ∨ d.isSome = true then (s, true)
    else match oldestDir s with
      | some l =>
        match KMap.find s.home.dir l, s.homeExt (l / 2 ^ 23) with
        | some x, some e => (startBinv s e.comp h.epoch l (entryTargets s e.comp x) true, false)
        | _, _ => (s, true)
      | none => (s, decide (dirCapacity s = 0))
  let add (s : State) (e : DirEntry) : State := if dirCapacity s = 0 then s else putDir s line e
  if (KMap.find s.home.binv line).isSome then (s, decide (u = .write) && owner)
  else match d with
    | none =>
      match u with
      | .read => let (s, k) := room s; (if k then add s { state := .s, holders := [h.src], broadcast := false, age := 0 } else s, k)
      | .own => let (s, k) := room s; (if k then add s { state := .o, holders := [h.src], broadcast := false, age := 0 } else s, k)
      | _ => (s, true)
    | some x =>
      if x.state = .o then
        if owner then
          match u with
          | .store => (delDir s line, true)
          | _ => (s, true)
        else (startBinv s h.comp h.epoch line x.holders false, false)
      else
        let others := (entryTargets s h.comp x).filter (· != h.src)
        match u with
        | .read =>
          let hs := addOnce x.holders h.src
          (putDir s line (if hs.length > 8 then { x with broadcast := true } else { x with holders := hs }), true)
        | .own =>
          if others.isEmpty then (putDir s line { state := .o, holders := [h.src], broadcast := false, age := 0 }, true)
          else (startBinv s h.comp h.epoch line others false, false)
        | _ => if others.isEmpty then (delDir s line, true) else (startBinv s h.comp h.epoch line others false, false)

/-- All lines of an access, one after another: the request is served only when all are ready. Of one that waits, the lines that are ready
take their new state at once (R141, R142). -/
def linesAccess (s : State) (h : Header) (u : LineUse) (ls : List Nat) : State × Bool :=
  ls.foldl (fun acc l => let (t, ok) := lineAccess acc.1 h l u; (t, acc.2 && ok)) (s, true)

/-! ## Trays and lenders (R191, R173, R399) -/

/-- The key number that serves a page: the old generation's above a sweep's watermark (R401). -/
def pageKey (s : State) (he page : Nat) : Nat :=
  match s.homeExt he with
  | none => 0
  | some x =>
    match KMap.find s.kp.slots (s.comp x.comp).keySlot.toNat with
    | none => 0
    | some k =>
      let above := decide (k.sweepExt < he ∨ (k.sweepExt = he ∧ k.sweepPage ≤ page))
      let gen := if k.state = 2 ∧ above = true then k.gen - 1 else k.gen
      KMap.getD k.keys gen.toNat 0

/-- The XTS tweak of a line (R399). -/
def xtsTweak (tenant : BitVec 12) (gfa : Nat) : BitVec 128 := .ofNat 128 (tenant.toNat * 2 ^ 116 + gfa / 128 % 2 ^ 43)

/-- Where in the page's uncompressed bytes a stored byte's tweak points: the block's first byte plus its place in the slot
(R224). -/
def tweakOff (codec o : Nat) : Nat := if isF codec then o / codecFSlot codec * 4096 + o % codecFSlot codec else o

/-- Stored lines as ciphertext, or back: each line of stored bytes from `off` of a page under its tweak (R224). -/
def xtsPage (s : State) (enc : Bool) (codec he page off : Nat) (bs : List Byte) : List Byte :=
  match s.homeExt he with
  | none => bs
  | some x =>
    let gfa := x.idx * 2 ^ 30 + page * 65536
    let key := beBytes 64 (Config.drbg (pageKey s he page)).toNat
    (chunksOf 128 bs.length bs).zipIdx.flatMap (fun p =>
      let t := xtsTweak x.tenant (gfa + tweakOff codec (off + 128 * p.2))
      xtsLine enc key t p.1)

/-- The header of a frame to a tray or lender for a page: it carries the page's composition and key (R191). -/
def trayHeader (s : State) (op : Nat) (cls : BitVec 3) (he : Nat) (ep : Ep) (addr len : Nat) : Header :=
  let h := ownHeader s op ep len
  match s.homeExt he with
  | none => { h with cls := cls, addr := .ofNat 64 addr }
  | some x =>
    let k := KMap.getD s.kp.slots (s.comp x.comp).keySlot.toNat KeySlot.init
    { h with cls := cls, addr := .ofNat 64 addr, comp := x.comp, tenant := x.tenant, epoch := (s.comp x.comp).epoch,
             keySlot := (s.comp x.comp).keySlot, keyGen := k.gen }

/-- The byte address of a lower-tier page at its tray or lender, with its endpoint. -/
def trayAddr (s : State) (codec page : Nat) (l : Loc) : Option (Ep × Nat) :=
  let inner := if isF codec then page % 8 * pageStored codec % 65536 else 0
  match l with
  | .t2 ep p => some (ep, p * 65536 + inner)
  | .t2n ep p lend => some (ep, (match KMap.find s.home.lends lend with | some x => x.base | none => 0) + p * 65536 + inner)
  | _ => none

/-- The stored bytes to ask for to serve bytes of a page: whole lines, a codec L block's `STORED`, or a codec F slot. -/
def storedRange (s : State) (he page off len : Nat) : Nat × Nat :=
  let p := s.pte he page
  let blk := off / 4096
  let t := s.blockTag he page blk
  if isF p.codec.toNat then (blk * codecFSlot p.codec.toNat, codecFSlot p.codec.toNat)
  else if p.codec = 4 ∧ t.raw = false then (blk * 4096, min 4096 ((t.stored + 127) / 128 * 128))
  else (off / 128 * 128, (off + len + 127) / 128 * 128 - off / 128 * 128)

/-- Ask a tray or lender for stored bytes of a page at a place (R191). -/
def sendFetchAt (s : State) (why : FetchWhy) (cls : BitVec 3) (he page : Nat) (codec : BitVec 3) (loc : Loc) (start len : Nat) : State :=
  match trayAddr s codec.toNat page loc with
  | none => s
  | some (ep, a) =>
    let (id, s) := s.fresh
    let (seq, s) := nextSeq s ep
    let f : Frame := { hdr := { trayHeader s 0x10 cls he ep (a + start) len with seq := seq }, payload := [], poisoned := false }
    let x : Fetch := { why := why, frame := f, loc := loc, codec := codec, tag := s.blockTag he page (start / 4096), ep := ep, homeExt := he,
                       page := page, firstDay := s.day, lastDay := s.day }
    let s := s.setHome { s.home with fetches := KMap.put s.home.fetches id x }
    sendRequest (s.setXb { s.xb with own := KMap.put s.xb.own (pairKey ep seq) { why := .fetch id, dest := ep, opcode := f.hdr.opcode, addr := f.hdr.addr, etag := 0 } }) f

/-- Ask for stored bytes of a page where it lies. -/
def sendFetch (s : State) (why : FetchWhy) (cls : BitVec 3) (he page start len : Nat) : State :=
  sendFetchAt s why cls he page (s.pte he page).codec (s.pte he page).loc start len

/-- Send stored bytes to a tray or lender in TC6. -/
def sendStore (s : State) (why : FetchWhy) (he page : Nat) (ep : Ep) (addr : Nat) (bs : List Byte) : State :=
  let (id, s) := s.fresh
  let (seq, s) := nextSeq s ep
  let f : Frame := { hdr := { trayHeader s 0x14 6 he ep addr bs.length with seq := seq }, payload := bs, poisoned := false }
  let x : Fetch := { why := why, frame := f, loc := (s.pte he page).loc, codec := (s.pte he page).codec, tag := BlockTag.init, ep := ep, homeExt := he,
                     page := page, firstDay := s.day, lastDay := s.day }
  let s := s.setHome { s.home with fetches := KMap.put s.home.fetches id x }
  sendRequest (s.setXb { s.xb with own := KMap.put s.xb.own (pairKey ep seq) { why := .fetch id, dest := ep, opcode := f.hdr.opcode, addr := f.hdr.addr, etag := 0 } }) f

/-- The plaintext block that stored codec L bytes decode to: none with true on a CRC failure, false on a size failure (R227). -/
def decodeL (stored : Nat) (bs : List Byte) : List Byte × Option Bool :=
  let hd := wordAt bs 0
  let slen := bits 48 36 hd
  let w := if bits 50 49 hd = 0 then 1 else if bits 50 49 hd = 1 then 2 else 4
  if stored ≠ 8 + slen ∨ bits 63 51 hd ≠ 4096 then ([], some false)
  else
    let st := (bs.drop 8).take slen
    match lz4Decode (st.length + 1) 4096 st [] with
    | none => ([], some false)
    | some out =>
      if out.length ≠ 4096 then ([], some false)
      else
        let plain := unshuffleL w out
        if (crc32c plain).toNat = bits 31 0 hd then (plain, none) else ([], some true)

/-- The stored form of a codec L block (R221, R222). -/
def encodeL (elem : Nat) (bs : List Byte) : List Byte :=
  let w := match elemFormat elem with | some f => f.width / 8 | none => 1
  let st := Config.lz4Encode (shuffleL w bs)
  if (8 + st.length + 127) / 128 ≥ 32 then bs
  else
    let sh := if w = 1 then 0 else if w = 2 then 1 else 2
    let hd := 4096 * 2 ^ 51 + sh * 2 ^ 49 + st.length * 2 ^ 36 + (crc32c bs).toNat
    wordsBytes [hd] ++ st

/-- What a tray's answer gives of a block: its bytes, a codec L decode failure (R228), or an overflow block that is not there (R219). -/
inductive BlockAnswer where
  | data (bytes : List Byte)
  | bad (crc : Bool)
  | lost
  deriving DecidableEq, Repr

/-- The block that a tray's answer gives: 4,096 plaintext bytes with those asked for in place; codec and tag as they were when the access was
translated (R186). -/
def blockOfAnswer (s : State) (codec : BitVec 3) (t : BlockTag) (he page start : Nat) (payload : List Byte) : BlockAnswer :=
  let plain := xtsPage s false codec.toNat he page start payload
  if isF codec.toNat then
    match s.homeExt he with
    | none => .data (zeros 4096)
    | some x =>
      if plain.headD 0 = 0xFF then
        match overflowAddr x (leNat ((plain.drop 4).take 4)) with
        | some a => .data (Memory.readBytes s.mem a 4096)
        | none => .lost
      else match elemFormat x.elem.toNat with
        | some f => .data (decodeF f codec.toNat plain)
        | none => .data (zeros 4096)
  else if codec = 4 ∧ t.raw = false then
    match decodeL t.stored plain with
    | (bs, none) => .data bs
    | (_, some crc) => .bad crc
  else .data (overlay (zeros 4096) (start % 4096) plain)

/-! ## Armed waits (R158) -/

/-- The 64-bit word at a home address, as element data. -/
def counterAt (s : State) (he page off : Nat) : Nat :=
  match pageAddr 0 page (s.pte he page).loc with
  | some a => leNat (Memory.readBytes s.mem (a + off) 8)
  | none => 0

/-- A `CTR_WAKE` with the counter's value (R158). -/
def sendWake (s : State) (r : Req) (wake : Ep) (v : Nat) : State :=
  let h := ownHeader s 0x33 wake 8
  sendRequest s { hdr := { h with comp := r.hdr.comp, epoch := r.hdr.epoch, tenant := r.hdr.tenant, keySlot := r.hdr.keySlot,
                                  keyGen := r.hdr.keyGen, etag := r.hdr.addr, stepLo := r.hdr.stepLo },
                  payload := beBytes 8 v, poisoned := false }

/-- The home extent and page of a counter address of a request. -/
def counterPlace (s : State) (h : Header) (gfa : W64) : Option (Nat × Nat) :=
  match homeRights s h gfa false false false with
  | .ok _ he => some (he, pageOf gfa)
  | .viol _ _ => none

/-- Count of uses that hold a page in T0 (R155). -/
def addHold (s : State) (he page : Nat) (up : Bool) : State :=
  s.updPte he page (fun p => { p with hold := if up then p.hold + 1 else p.hold - 1 })

/-- Complete every armed wait whose counter has reached or passed its target (R158). A wait's counter is a page of home
extent `counter / 2^30`. -/
def wakeWaits (s : State) : State :=
  s.home.waits.foldl (fun s p =>
    let w := p.2
    let v := counterAt s (w.counter / 2 ^ 30) (w.counter / 65536 % 2 ^ 14) (w.counter % 65536)
    if v ≥ w.target ∧ w.counter < 2 ^ 50 then
      let s := s.setHome { s.home with waits := KMap.del s.home.waits p.1 }
      let s := addHold s (w.counter / 2 ^ 30) (w.counter / 65536 % 2 ^ 14) false
      let s := complete s w.req s.self 0 [] false 0
      if w.wake = 0 then s else sendWake s w.req w.wake v
    else s) s

/-! ## Stores at the home -/

/-- What a store finds at its page (R177, R185, R187, R188, R226, R401). -/
inductive StoreReady where
  | ready
  | fail (status : BitVec 8)
  | wait (why : HeldWhy)
  deriving DecidableEq, Repr

/-- The page that a sweep is rewriting in a slot's composition (R401, R498). -/
def sweepHolds (s : State) (he page : Nat) : Bool :=
  s.sweeps.any (fun p => p.2.rewriting == some (he * 2 ^ 14 + page))

/-- Whether a page's Tier engine queue is full (R226). -/
def teFull (s : State) (he page : Nat) : Bool :=
  let p := s.pte he page
  p.codec != 0 && decide ((KMap.getD s.home.te (tierEngineOf p.loc) TeStats.init).queue ≥ 1024)

/-- A block of a codec page enters its Tier engine's queue (R225). -/
def teEnter (s : State) (he page : Nat) : State :=
  let p := s.pte he page
  if p.codec = 0 then s else s.updTe (tierEngineOf p.loc) (fun t => { t with queue := t.queue + 1 })

/-- The record of a page's open move. -/
def moveOf (s : State) (he page : Nat) : Option (Nat × MoveRec) :=
  KMap.first? s.home.moves (fun _ m => m.homeExt == he && m.page == page)

/-- The moves that run and flip together: an octet's, or the one (R217). -/
def moveGroup (s : State) (m : MoveRec) : KMap MoveRec :=
  s.home.moves.filter (fun x => x.2.homeExt == m.homeExt && samePlace s m.homeExt x.2.page m.page)

/-- Abandon a move, with its octet: the destination is freed and the pages stay resident at their source (R187, R217, R405, R509). -/
def abandonMove (s : State) (id : Nat) (counted : Bool) : State :=
  match KMap.find s.home.moves id with
  | none => s
  | some m =>
    let g := moveGroup s m
    let one (k : Nat) : Bool := g.any (fun x => x.1 == k)
    let codec := (s.pte m.homeExt m.page).codec.toNat
    let s := s.setHome { s.home with moves := KMap.keep s.home.moves (fun k _ => !one k),
                                     fetches := KMap.keep s.home.fetches (fun _ f => match f.why with
                                       | .moveRead k _ => !one k | .moveWrite k _ => !one k | _ => true) }
    let s := dropLoc s (octetBaseLoc codec m.page m.dst) (moveUnits codec)
    let s := g.foldl (fun s x => s.updPte x.2.homeExt x.2.page (fun p => { p with state := .resident, move := 0 })) s
    if counted then s.updTe (tierEngineOf m.src) (fun t => { t with abandoned := satAdd 16 t.abandoned g.length }) else s

/-- Order a move: one order of each kind waits for a page, the newest. -/
def orderMove (s : State) (o : MoveOrder) : State :=
  match KMap.first? s.home.orders (fun _ p => p.homeExt == o.homeExt && p.page == o.page && p.kind == o.kind) with
  | some (id, _) => s.setHome { s.home with orders := KMap.put s.home.orders id o }
  | none =>
    let (id, s) := s.fresh
    s.setHome { s.home with orders := KMap.put s.home.orders id o }

/-- Order the promotion of a page on a write to it (R188). -/
def orderPromotion (s : State) (he page : Nat) : State :=
  orderMove s { homeExt := he, page := page, dest := .t1, ep := 0, trayPage := 0, kind := .promote }

/-- What an open move makes of a store to its page (R185, R187, R188): one down is abandoned, and one up holds the store. -/
def storeAtMove (s : State) (id : Nat) (m : MoveRec) : State × StoreReady :=
  if m.src.lower then (s, .wait .promote)
  else if m.dst.lower && m.src.tier == .t1 then (abandonMove s id true, .ready)
  else if m.holding then (s, .wait .flip)
  else (s, .ready)

/-- Allocate a page for its first store (R176). -/
def storeAllocates (s : State) (he page : Nat) : State × StoreReady :=
  match allocPage s he page with
  | some t => (t, .ready)
  | none => (s, .wait .alloc)

/-- The first store to an unmapped page: under codec F its octet, where it is mapped, is first in T1 and at rest (R176, R188, R217). -/
def storeMaps (s : State) (he page : Nat) : State × StoreReady :=
  match octetMate s he page with
  | none => storeAllocates s he page
  | some q =>
    match moveOf s he q with
    | some (id, m) =>
      match storeAtMove s id m with
      | (s, .ready) => if m.dst.lower then storeAllocates s he page else (s, .wait .flip)
      | (s, w) => (s, w)
    | none => if (s.pte he q).loc.lower then (orderPromotion s he q, .wait .promote) else storeAllocates s he page

/-- Make a page ready for a store: allocate it, abandon a move down, or order its promotion. -/
def prepareStore (s : State) (he page : Nat) : State × StoreReady :=
  let p := s.pte he page
  if p.state = .keyLost then (s, .fail 0x31)
  else if sweepHolds s he page then (s, .wait .sweep)
  else match p.state with
    | .unmapped => storeMaps s he page
    | .poisoned => storeMaps s he page
    | .moving =>
      match moveOf s he page with
      | none => (s, .ready)
      | some (id, m) => storeAtMove s id m
    | _ =>
      if p.loc.lower then (orderPromotion s he page, .wait .promote)
      else if teFull s he page then (s, .wait .teQueue)
      else (s, .ready)

/-- The cursor of a composition's prefetch calendar takes the value that a store leaves in its word, and the Tier engines are told of each
(R193). -/
def noteCursor (s : State) (c : BitVec 12) (gfa len : Nat) : State :=
  match (s.compEntry c).bind (·.prefetch) with
  | none => s
  | some p =>
    if gfa < p.cursorGfa + 8 ∧ p.cursorGfa < gfa + len then
      let a : W64 := .ofNat 64 p.cursorGfa
      let e := entryFor s c (s.comp c).epoch (extOf a)
      s.setHome { s.home with cursor := KMap.upd s.home.cursor c.toNat [] (fun l => l ++ [counterAt s e.homeExt.toNat (pageOf a) (byteOf a)]) }
    else s

/-- Bytes stored by a request at a ready page, with heat, the cursor and armed waits (R158, R179, R193). -/
def applyStore (s : State) (h : Header) (he : Nat) (addr : W64) (bs : List Byte) : State × BitVec 8 :=
  let s := teEnter (sampleHeat s he (pageOf addr) true) he (pageOf addr)
  let (s, st) := writePiece s h.comp.toNat he (pageOf addr) (byteOf addr) bs
  (wakeWaits (noteCursor s h.comp addr.toNat bs.length), st)

/-! ## Reads and writes -/

/-- Lines of an access as directory keys. -/
def accessLines (he : Nat) (addr : W64) (len : Nat) : List Nat :=
  (linesOf (byteOf addr) len).map (fun l => he * 2 ^ 23 + pageOf addr * 512 + l)

/-- The mode of an address's extent in the map of a request. -/
def modeOf (s : State) (h : Header) (addr : W64) : BitVec 2 := (entryFor s h.comp h.epoch (extOf addr)).mode

/-- Serve a read whose rights, directory and page are settled (R177, R191, R226 to R229). -/
def finishRead (s : State) (ov : KMap (List Byte)) (old : Option (Nat × Nat)) (r : Req) (he : Nat) : State :=
  let page := pageOf r.hdr.addr
  let off := byteOf r.hdr.addr
  let len := r.hdr.length.toNat
  if teFull s he page then holdReq s old r .teQueue he page
  else
    let s := teEnter (sampleHeat s he page false) he page
    match readPiece s ov r.hdr.comp.toNat he page off len with
    | .data bs => complete s r s.self 0 bs false 0
    | .fail st => completeStatus s r st
    | .bad crc => completeStatus (decodeFailed s he page (off / 4096) crc) r (if crc then 0x40 else 0x41)
    | .fetch =>
      let (start, n) := storedRange s he page off len
      sendFetch s (.read r) 3 he page start n

/-- The service of a `RD` or `RD_OWN` at the home (R140, R142, R177): `own` asks for ownership of a coherent-shared line. -/
def serveRead (own : Bool) (s : State) (old : Option (Nat × Nat)) (r : Req) : State :=
  if old.isNone && keyRevoked s r.hdr then completeStatus s r 0x30
  else match reqRights s r r.hdr.addr false false false with
    | .viol k _ => violation s r s.self k
    | .ok _ he =>
      if r.poisoned then completeStatus s r 0x40
      else if mustFollow s old r then holdReq s old r .behind he (pageOf r.hdr.addr)
      else if modeOf s r.hdr r.hdr.addr = 2 then
        match linesAccess s r.hdr (if own then .own else .read) (accessLines he r.hdr.addr r.hdr.length.toNat) with
        | (s, true) => finishRead s [] old r he
        | (s, false) => holdReq s old r .binv he (pageOf r.hdr.addr)
      else finishRead s [] old r he

/-- The owner of a line whose back-invalidate is out writes it back ahead of every request that waits (R142, R143). -/
def isWriteBack (s : State) (h : Header) (he : Nat) : Bool :=
  (accessLines he h.addr h.length.toNat).any (fun l =>
    (KMap.find s.home.binv l).isSome && (match KMap.find s.home.dir l with
      | some d => d.state == .o && d.holders == [h.src]
      | none => false))

/-- The service of a `WR` at the home (R140, R142, R176, R177). -/
def serveWrite (s : State) (old : Option (Nat × Nat)) (r : Req) : State :=
  if old.isNone && keyRevoked s r.hdr then completeStatus s r 0x30
  else match reqRights s r r.hdr.addr true false false with
    | .viol k _ => violation s r s.self k
    | .ok _ he =>
      let page := pageOf r.hdr.addr
      if r.poisoned then completeStatus s r 0x40
      else if mustFollow s old r && !isWriteBack s r.hdr he then holdReq s old r .behind he page
      else
        let ls := accessLines he r.hdr.addr r.payload.length
        let (s, ok) := if modeOf s r.hdr r.hdr.addr = 2 then linesAccess s r.hdr .write ls else (s, true)
        if !ok then holdReq s old r .binv he page
        else match prepareStore s he page with
          | (s, .fail st) => completeStatus s r st
          | (s, .wait why) => holdReq s old r why he page
          | (s, .ready) =>
            let (s, st) := applyStore s r.hdr he r.hdr.addr r.payload
            completeStatus s r st

/-! ## Atomics (R145, R146, R165 to R169, R201) -/

/-- The expired mark of a source, or resync after a package reset (R166, R169). -/
def markOf (s : State) (src : Ep) : Option Mark :=
  match KMap.find s.home.marks src.toNat with
  | some m => some m
  | none => if s.home.resync then some .resync else none

/-- Whether a `SEQ` is at or below a mark (R166). -/
def atOrBelow (x seq : BitVec 32) : Bool := decide ((x - seq).toNat < 2 ^ 31)

/-- A home that admits a `SEQ` more than 2^30 above the mark advances the mark (R166). -/
def advanceMark (s : State) (src : Ep) (seq : BitVec 32) : State :=
  match KMap.find s.home.marks src.toNat with
  | some (.at_ x) =>
    if !atOrBelow x seq && decide ((seq - x).toNat > 2 ^ 30) then
      s.setHome { s.home with marks := KMap.put s.home.marks src.toNat (.at_ (seq - 2 ^ 30)) }
    else s
  | _ => s

/-- Check 8 of R86 (R167, R169). -/
inductive LedgerCheck where
  | hit (status : BitVec 8) (result : List Byte)
  | stale
  | fresh
  deriving DecidableEq, Repr

/-- The ledger's judgement of an atomic; a source in resync starts its new sequence space with a request without `RETRY`. -/
def ledgerCheck (s : State) (src : Ep) (seq : BitVec 32) (retry : Bool) : State × LedgerCheck :=
  match KMap.find s.home.ledger (pairKey src seq) with
  | some l => (s, .hit l.status l.result)
  | none =>
    match markOf s src with
    | none => (s, .fresh)
    | some .resync =>
      if retry then (s, .stale)
      else (s.setHome { s.home with marks := KMap.put s.home.marks src.toNat (.at_ (seq - 1)) }, .fresh)
    | some (.at_ x) => (s, if atOrBelow x seq then .stale else .fresh)

/-- Record an applied atomic (R165). -/
def ledgerPut (s : State) (src : Ep) (seq : BitVec 32) (op status : BitVec 8) (result : List Byte) : State :=
  s.setHome { s.home with ledger := KMap.put s.home.ledger (pairKey src seq)
                            { op := op, status := status, day := s.day, result := padTo 16 result } }

/-- The value an atomic stores (R146): opcode, type, width in bytes, old value and operand, as numbers. -/
def atomicNew (op : Nat) (etag : W64) (w old opnd : Nat) : Nat :=
  let signed := etag.toNat % 8 < 2
  let less (a b : Nat) : Bool := if signed then decide (asInt (8 * w) a < asInt (8 * w) b) else decide (a < b)
  match op with
  | 0x20 => (old + opnd) % 2 ^ (8 * w)
  | 0x21 => (old + opnd) % 2 ^ (8 * w)
  | 0x22 => fmtF32.encode ((fmtF32.decode old).add (fmtF32.decode opnd))
  | 0x23 => fmtBf16.encode ((fmtBf16.decode old).add (fmtBf16.decode opnd))
  | 0x24 =>
    match atomicFormat op etag with
    | some f => f.encode ((f.decode old).minimum (f.decode opnd))
    | none => if less opnd old then opnd else old
  | 0x25 =>
    match atomicFormat op etag with
    | some f => f.encode ((f.decode old).maximum (f.decode opnd))
    | none => if less old opnd then opnd else old
  | 0x26 => opnd
  | 0x29 => old &&& opnd
  | 0x2A => old ||| opnd
  | 0x2B => old ^^^ opnd
  | _ => old

/-- Apply an atomic to the bytes of its operand: the new bytes. CAS compares bitwise (R146). -/
def atomicApply (op : Nat) (etag : W64) (old payload : List Byte) : List Byte :=
  let w := old.length
  if op = 0x27 ∨ op = 0x28 then (if payload.take w = old then payload.drop w else old)
  else leBytes w (atomicNew op etag w (leNat old) (leNat payload))

/-- A fetch-add on the pin word of a slot (R201): the whole old word, the new word, and whether it is a violation. -/
def pinAdd (old opnd : Nat) : Nat × Bool :=
  let pins : Nat := old % 2 ^ 56
  let d := asInt 64 opnd
  if d = 1 ∧ old / 2 ^ 56 ≠ 2 then (old, false)
  else if (pins : Int) + d < 0 then (old, true)
  else
    let up : Nat := ((pins : Int) + d).toNat
    (old / 2 ^ 56 * 2 ^ 56 + up % 2 ^ 56, false)

/-- Whether an address is the pin word of a slot of an anchor page (R196). -/
def isPinWord (s : State) (h : Header) (addr : W64) : Bool :=
  let e := entryFor s h.comp h.epoch (extOf addr)
  let off := byteOf addr
  e.home == s.self && (s.pte e.homeExt.toNat (pageOf addr)).anchor && h.opcode == 0x21
    && decide (1 ≤ off / 128 ∧ off / 128 ≤ 255 ∧ off % 128 = 8)

/-- The outcome of one atomic or member at check 9. -/
structure AtomicOut where
  status : BitVec 8
  result : List Byte
  viol : Bool
  recorded : Bool
  deriving DecidableEq, Repr

/-- The codec that an atomic would meet: the page's, or the extent's where the page is not mapped (R145, R209, R210). -/
def pageCodec (s : State) (he page : Nat) : Nat :=
  let p := s.pte he page
  match p.state with
  | .unmapped => (s.extCodec he).1
  | .poisoned => (s.extCodec he).1
  | _ => p.codec.toNat

/-- Execute one atomic on a ready page (check 9 of R86). -/
def runAtomic (s : State) (h : Header) (he : Nat) (payload : List Byte) : State × AtomicOut :=
  let op := h.opcode.toNat
  let w := atomicBytes op h.etag
  let page := pageOf h.addr
  let off := byteOf h.addr
  match readPiece s [] h.comp.toNat he page off w with
    | .data old =>
      if isPinWord s h h.addr then
        let (v, bad) := pinAdd (leNat old) (leNat payload)
        if bad then (s, { status := 0, result := zeros w, viol := true, recorded := false })
        else
          let (s, st) := applyStore s h he h.addr (leBytes 8 v)
          (s, { status := st, result := old, viol := false, recorded := true })
      else
        let (s, st) := applyStore s h he h.addr (atomicApply op h.etag old payload)
        (s, { status := st, result := if st = 0 then old else [], viol := false, recorded := st == 0 })
    | _ => (s, { status := 0x40, result := [], viol := false, recorded := false })

/-- The service of an atomic at the home: checks 5 to 9 of R86. The record of R165 holds no may-vary bit: a retry that it answers echoes the bit
where the operation varies by nature and clear else, also where the first attempt was combined (R61; DESIGN CHOICE, log 192). -/
def serveAtomic (s : State) (old : Option (Nat × Nat)) (r : Req) : State :=
  let h := r.hdr
  let op := h.opcode.toNat
  if atomicVaries op h.etag && r.strict then completeStatus s r 0x13
  else if old.isNone && keyRevoked s h then completeStatus s r 0x30
  else match reqRights s r h.addr true false (isPinWord s h h.addr) with
    | .viol k _ => violation s r s.self k
    | .ok _ he =>
      let page := pageOf h.addr
      match ledgerCheck s h.src h.seq h.isRetry with
      | (s, .hit st res) => complete s r s.self st (res.take (atomicBytes op h.etag)) (atomicVaries op h.etag) 0
      | (s, .stale) => completeStatus s r 0x21
      | (s, .fresh) =>
        if r.poisoned then completeStatus s r 0x40
        else if pageCodec s he page ≠ 0 then completeStatus s r 0x10
        else if mustFollow s old r then holdReq s old r .behind he page
        else
          let (s, ok) := if modeOf s h h.addr = 2 then linesAccess s h .store (accessLines he h.addr (atomicBytes op h.etag)) else (s, true)
          if !ok then holdReq s old r .binv he page
          else match prepareStore s he page with
            | (s, .fail st) => completeStatus s r st
            | (s, .wait why) => holdReq s old r why he page
            | (s, .ready) =>
              let (s, o) := runAtomic s h he r.payload
              if o.viol then violation s r s.self 3
              else
                let s := if o.recorded then ledgerPut s h.src h.seq h.opcode o.status o.result else s
                complete s r s.self o.status o.result (atomicVaries op h.etag && o.recorded) 0

/-! ## Combined fetch-adds (R151, R152) -/

/-- A member of a combined fetch-add: source, `SEQ`, operand. -/
structure Member where
  src : Ep
  seq : BitVec 32
  opnd : Nat
  deriving DecidableEq, Repr

/-- The members that a combined payload lists (R151). -/
def parseMembers (bs : List Byte) : List Member :=
  (List.range (bits 63 56 (wordAt bs 0))).map (fun n =>
    let a := wordAt bs (2 * n + 2)
    { src := .ofNat 16 (bits 63 48 a), seq := .ofNat 32 (bits 47 16 a), opnd := wordAt bs (2 * n + 3) })

/-- The payload of a combined fetch-add or of its completion: entries of source, `SEQ`, status and operand or old value. -/
def memberBytes (l : List (Member × BitVec 8)) : List Byte :=
  wordsBytes ([l.length * 2 ^ 56, 0] ++ l.flatMap (fun p =>
    [p.1.src.toNat * 2 ^ 48 + p.1.seq.toNat * 2 ^ 16 + p.2.toNat, p.1.opnd]))

/-- Every member answered alike. -/
def allMembers (r : Req) (status : BitVec 8) : List Byte :=
  memberBytes ((parseMembers r.payload).map (fun m => ({ m with opnd := 0 }, status)))

/-- One member at the home: the fence of R427, its ledger check and its own atomic (R152), which `stop` ends with a status. -/
def runMember (s : State) (h : Header) (he : Nat) (stop : Option (BitVec 8)) (m : Member) : State × (Member × BitVec 8) :=
  let w := atomicBytes h.opcode.toNat h.etag
  let s := advanceMark s m.src m.seq
  if isFenced s m.src then (s, ({ m with opnd := 0 }, 0x33))
  else match ledgerCheck s m.src m.seq false with
    | (s, .hit st res) => (s, ({ m with opnd := leNat (res.take w) }, st))
    | (s, .stale) => (s, ({ m with opnd := 0 }, 0x21))
    | (s, .fresh) =>
      match stop with
      | some st => (s, ({ m with opnd := 0 }, st))
      | none =>
        let (s, o) := runAtomic s { h with src := m.src, seq := m.seq } he (leBytes w m.opnd)
        let s := if o.viol then countViol s h.comp m.src 3 1 else s
        let s := if o.recorded then ledgerPut s m.src m.seq h.opcode o.status o.result else s
        (s, ({ m with opnd := leNat o.result }, o.status))

/-- The members one after another, in payload order. -/
def runMembers (s : State) (h : Header) (he : Nat) (stop : Option (BitVec 8)) (ms : List Member) : State × List (Member × BitVec 8) :=
  match ms with
  | [] => (s, [])
  | m :: rest =>
    let (s, a) := runMember s h he stop m
    let (s, l) := runMembers s h he stop rest
    (s, a :: l)

/-- The marks of a combined fetch-add's members rise before any check (R166). -/
def advanceMembers (s : State) (r : Req) : State := (parseMembers r.payload).foldl (fun s m => advanceMark s m.src m.seq) s

/-- The service of a combined fetch-add at the home (R152): checks 1 to 7 once, then the members in payload order. -/
def serveCombined (s : State) (old : Option (Nat × Nat)) (r : Req) : State :=
  let h := r.hdr
  let ms := parseMembers r.payload
  let fail (s : State) (st : BitVec 8) : State := complete s r s.self st (allMembers r st) true 0
  let run (s : State) (he : Nat) (stop : Option (BitVec 8)) : State :=
    let (s, l) := runMembers s h he stop ms
    complete s r s.self 0 (memberBytes l) true 0
  if atomicVaries h.opcode.toNat h.etag && r.strict then fail s 0x13
  else if old.isNone && keyRevoked s h then fail s 0x30
  else
    -- a one-writer extent's writer is judged by the members' own sources
    let as (m : Member) : Header := { h with src := m.src }
    match (match ms with | m :: _ => reqRights s { r with hdr := as m } h.addr true false (isPinWord s h h.addr) | [] => .viol 2 none) with
    | .viol k _ =>
      let s := ms.foldl (fun s m => countViol s h.comp m.src k 1) s
      complete s r s.self 0 (allMembers r 0) true (violTime r)
    | .ok _ he =>
      let page := pageOf h.addr
      if r.poisoned then completeStatus s r 0x40
      else if pageCodec s he page ≠ 0 then run s he (some 0x10)
      else if mustFollow s old r then holdReq s old r .behind he page
      else
        let (s, ok) := if modeOf s h h.addr = 2 then linesAccess s h .store (accessLines he h.addr (atomicBytes h.opcode.toNat h.etag)) else (s, true)
        if !ok then holdReq s old r .binv he page
        else match prepareStore s he page with
          | (s, .fail st) => run s he (some st)
          | (s, .wait why) => holdReq s old r why he page
          | (s, .ready) => run s he none

/-- Whether an atomic's frame is a combined fetch-add: a module sends it, with a length no single operand has (R151). -/
def isCombined (s : State) (h : Header) : Bool :=
  isFadd h.opcode.toNat && isModule s h.src && decide (h.length.toNat ≥ 48 ∧ h.length.toNat % 16 = 0)

/-- The service of every memory request at the home by its opcode. -/
def serveMem (s : State) (old : Option (Nat × Nat)) (r : Req) : State :=
  let op := r.hdr.opcode.toNat
  if op = 0x10 then serveRead false s old r
  else if op = 0x11 then serveRead true s old r
  else if op = 0x14 then serveWrite s old r
  else if isCombined s r.hdr then serveCombined s old r
  else serveAtomic s old r

end Sys2Proof.Machine
end

