-- ==== Sys2Proof/Machine/Copy.lean ====
section
/-! DEFINITION. Engine and copy access to operands by fabric address (R83, R157, R510), asynchronous copies and armed
waits (R154 to R158). -/

namespace Sys2Proof.Machine

/-! ## Operands by address -/

/-- Cut a range of addresses at 4 KiB boundaries; the fuel bounds the pieces. -/
def cutRange (fuel addr len : Nat) : List (Nat × Nat) :=
  match fuel with
  | 0 => []
  | f + 1 =>
    if len = 0 then []
    else
      let n := min len (4096 - addr % 4096)
      (addr, n) :: cutRange f (addr + n) (len - n)

/-- All pieces of a range. -/
def piecesOf (addr len : Nat) : List (Nat × Nat) := cutRange (len / 4096 + 2) addr len

/-- An address whose extent the request's map names as granted or draining at another home (R510). -/
def homedElsewhere (s : State) (h : Header) (addr : Nat) : Bool :=
  let e := entryFor s h.comp h.epoch (addr / 2 ^ 30 % 2 ^ 20)
  decide (addr < 2 ^ 50) && (e.state == 1 || e.state == 2) && e.home != s.self

/-- Whether any extent of a range lies at another home (R510). -/
def rangeElsewhere (s : State) (h : Header) (addr len : Nat) : Bool :=
  (List.range ((addr + len - 1) / 2 ^ 30 + 1 - addr / 2 ^ 30)).any (fun i =>
    homedElsewhere s h (max addr ((addr / 2 ^ 30 + i) * 2 ^ 30)))

/-- What reading an operand gives: its bytes, zeros outside rights; the pieces outside rights; the worst status; the blocks
that trays must send first; the blocks that failed to decode; the pages that were translated. -/
structure OpRead where
  bytes : List Byte
  viols : Nat
  status : BitVec 8
  need : List (Nat × Nat × Nat)
  bad : List (Nat × Nat × Nat × Bool)
  pages : List (Nat × Nat)
  deriving DecidableEq, Repr

/-- The greater of two statuses. -/
def worse (a b : BitVec 8) : BitVec 8 := if a.toNat ≥ b.toNat then a else b

/-- Read operand bytes under a request's rights (R83, R157, R220). Blocks that trays have sent lie in `home.fetched`. A copy's source range may
run on into an extent within its rights that another module homes: the manual does not say how the copier reads it, and its bytes are free
values (log 183). -/
def readOperand (s : State) (h : Header) (addr len : Nat) : OpRead :=
  (piecesOf addr len).foldl (fun o p =>
    let a : W64 := .ofNat 64 p.1
    if homedElsewhere s h p.1 then { o with bytes := o.bytes ++ (List.range p.2).map (fun i => .ofNat 8 (Config.farByte s.now (p.1 + i))) }
    else match homeRights s h a false false false with
    | .viol _ _ => { o with bytes := o.bytes ++ zeros p.2, viols := o.viols + 1 }
    | .ok _ he =>
      let o := { o with pages := o.pages ++ [(he, pageOf a)] }
      match readPiece s s.home.fetched h.comp.toNat he (pageOf a) (byteOf a) p.2 with
      | .data bs => { o with bytes := o.bytes ++ bs }
      | .fail st => { o with bytes := o.bytes ++ zeros p.2, status := worse o.status st }
      | .bad crc => { o with bytes := o.bytes ++ zeros p.2, status := worse o.status (if crc then 0x40 else 0x41),
                             bad := o.bad ++ [(he, pageOf a, byteOf a / 4096, crc)] }
      | .fetch => { o with bytes := o.bytes ++ zeros p.2, need := o.need ++ [(he, pageOf a, byteOf a / 4096)] })
    { bytes := [], viols := 0, status := 0, need := [], bad := [], pages := [] }

/-- Translations are offered as heat (R179). -/
def heatPages (s : State) (l : List (Nat × Nat)) (store : Bool) : State := l.foldl (fun s p => sampleHeat s p.1 p.2 store) s

/-- Count an operand read's translations and violations, and poison what did not decode (R83, R179, R228). -/
def settleRead (s : State) (h : Header) (o : OpRead) : State :=
  let s := o.bad.foldl (fun s b => decodeFailed s b.1 b.2.1 b.2.2.1 b.2.2.2) (heatPages s o.pages false)
  if o.viols = 0 then s else countViol s h.comp h.src 4 1

/-- Work waits until trays or lenders have sent the blocks it needs (R191). -/
def waitOperands (s : State) (r : Req) (need : List (Nat × Nat × Nat)) : State :=
  let (w, s) := s.fresh
  let first := s.nextId
  let s := need.foldl (fun s b =>
    let (start, n) := storedRange s b.1 b.2.1 (b.2.2 * 4096) 4096
    sendFetch s (.operand w (blockKey b.1 b.2.1 b.2.2)) 3 b.1 b.2.1 start n) s
  let ids := (KMap.keep s.home.fetches (fun k _ => decide (k ≥ first))).map (·.1)
  let x : OperandWait := { req := r, left := ids, blocks := need.map (fun b => blockKey b.1 b.2.1 b.2.2) }
  s.setHome { s.home with operandWaits := KMap.put s.home.operandWaits w x }

/-- Make every page and line of an output range ready (R142, R177, R188): what it still waits for, if anything. -/
def readyOutput (s : State) (h : Header) (addr len : Nat) : State × Option (HeldWhy × Nat × Nat) :=
  (piecesOf addr len).foldl (fun acc p =>
    match acc with
    | (s, some w) => (s, some w)
    | (s, none) =>
      let a : W64 := .ofNat 64 p.1
      match homeRights s h a true false false with
      | .viol _ _ => (s, none)
      | .ok _ he =>
        let (s, ok) := if modeOf s h a = 2 then linesAccess s h .store (accessLines he a p.2) else (s, true)
        if !ok then (s, some (.binv, he, pageOf a))
        else match prepareStore s he (pageOf a) with
          | (s, .wait why) => (s, some (why, he, pageOf a))
          | (s, _) => (s, none)) (s, none)

/-- The lines of an output range that lie within its request's rights here. -/
def outputLines (s : State) (h : Header) (addr len : Nat) : List Nat :=
  (piecesOf addr len).flatMap (fun p =>
    let a : W64 := .ofNat 64 p.1
    match homeRights s h a true false false with
    | .viol _ _ => []
    | .ok _ he => accessLines he a p.2)

/-- Write output bytes under a request's rights; bytes outside them are not written and count one violation (R83). -/
def writeOperand (s : State) (h : Header) (addr : Nat) (bs : List Byte) : State × BitVec 8 :=
  let (s, st, v) := (piecesOf addr bs.length).foldl (fun acc p =>
    let (s, st, v) := acc
    let a : W64 := .ofNat 64 p.1
    match homeRights s h a true false false with
    | .viol _ _ => (s, st, v + 1)
    | .ok _ he =>
      match prepareStore s he (pageOf a) with
      | (s, .ready) =>
        let (s, st') := applyStore s h he a ((bs.drop (p.1 - addr)).take p.2)
        (s, worse st st', v)
      | (s, .fail st') => (s, worse st st', v)
      | (s, .wait _) => (s, st, v)) (s, (0 : BitVec 8), 0)
  (if v = 0 then s else countViol s h.comp h.src 4 1, st)

/-- Whether a function's bit is set for a composition, in the module's settings and in its entry (R455). -/
def funcOn (s : State) (c : BitVec 12) (b : Nat) : Bool :=
  s.alm.cur.settings.funcEn.getLsbD b && (match s.compEntry c with | some e => e.funcEn.getLsbD b | none => true)

/-! ## Copies (R154 to R157) -/

/-- Add a piece's length to the arrival counter (R156), and wake the waits it reaches (R158). -/
def addCounter (s : State) (place len : Nat) : State :=
  let he := place / 2 ^ 30
  let page := place / 65536 % 2 ^ 14
  if place ≥ 2 ^ 50 then s
  else match pageAddr 0 page (s.pte he page).loc with
  | some a =>
    let v := counterAt s he page (place % 65536)
    wakeWaits (s.setMem (Memory.writeBytes s.mem (a + place % 65536) (leBytes 8 ((v + len) % 2 ^ 64))))
  | none => s

/-- A piece ends with a status: the counter gains its length, the copy its worst status (R156). -/
def pieceEnds (s : State) (id : Nat) (key len : Nat) (status : BitVec 8) : State :=
  match KMap.find s.home.copies id with
  | none => s
  | some c =>
    let c := { c with outstanding := c.outstanding.filter (fun p => p.1 != key), worst := worse c.worst status }
    addCounter (s.setHome { s.home with copies := KMap.put s.home.copies id c }) c.counter len

/-- Rights of a copy piece at its destination: the composition's, whichever endpoint asked for the copy (R157, log 21). -/
def pieceRights (s : State) (r : Req) : Right :=
  let h := r.hdr
  let e := entryFor s h.comp h.epoch (extOf h.addr)
  if r.judged.isSome then reqRights s r h.addr true false false
  else if e.mode = 1 ∨ e.published = true then
    match extentRights s h h.addr false false with
    | .ok home _ => .viol 3 (some home)
    | .viol k x => .viol (if k = 1 then 2 else k) x
  else match homeRights s h h.addr false false false with
    | .ok home he => if (s.pte he (pageOf h.addr)).pro then .viol 3 (some home) else .ok home he
    | .viol k x => .viol (if k = 1 then 2 else k) x

/-- The service of a `CP_DATA` piece at its destination home (R156, R157). -/
def serveCpData (s : State) (old : Option (Nat × Nat)) (r : Req) : State :=
  if old.isNone && keyRevoked s r.hdr then completeStatus s r 0x30
  else match pieceRights s r with
    | .viol k _ => violation s r s.self k
    | .ok _ he =>
      let page := pageOf r.hdr.addr
      if r.poisoned then completeStatus s r 0x40
      else
        let (s, ok) := if modeOf s r.hdr r.hdr.addr = 2 then linesAccess s r.hdr .store (accessLines he r.hdr.addr r.payload.length) else (s, true)
        if !ok then holdReq s old r .binv he page
        else match prepareStore s he page with
          | (s, .fail st) => completeStatus s r st
          | (s, .wait why) => holdReq s old r why he page
          | (s, .ready) =>
            let (s, st) := applyStore s r.hdr he r.hdr.addr r.payload
            completeStatus s r st

/-- The header of a copy piece: the request's composition, key and epoch, the counter in `ETAG` (R78, R336, R363). -/
def pieceHeader (s : State) (c : CopyWork) (dest : Ep) (dst len : Nat) : Header :=
  let h := c.req.hdr
  { ownHeader s 0x31 dest len with comp := h.comp, epoch := h.epoch, tenant := h.tenant, keySlot := h.keySlot, keyGen := h.keyGen,
                                   addr := .ofNat 64 dst,
                                   etag := if c.scanOf.isSome then .ofNat 64 (wordAt c.req.payload 3) else h.etag, stepLo := h.stepLo, tstamp := heirStamp s h.tstamp }

/-- Send one piece whose bytes are at hand. A destination outside the rights is not written (R157). -/
def sendPiece (s : State) (id : Nat) (c : CopyWork) (dst : Nat) (bs : List Byte) : State :=
  if c.toEp then
    let h := pieceHeader s c c.dstEp dst bs.length
    let key := pairKey c.dstEp (KMap.getD s.xb.seqOf c.dstEp.toNat 0)
    let s := s.setHome { s.home with copies := KMap.put s.home.copies id { c with outstanding := c.outstanding ++ [(key, bs.length)] } }
    sendOwn s h bs (.piece id bs.length)
  else
    let e := entryFor s c.req.hdr.comp c.req.hdr.epoch (dst / 2 ^ 30 % 2 ^ 20)
    if dst ≥ 2 ^ 50 ∨ e.state = 0 then pieceEnds (countViol s c.req.hdr.comp c.req.hdr.src 2 1) id 0 bs.length 0
    else
      let h := pieceHeader s c e.home dst bs.length
      let (seq, s) := nextSeq s e.home
      let key := pairKey e.home seq
      let s := s.setHome { s.home with copies := KMap.put s.home.copies id { c with outstanding := c.outstanding ++ [(key, bs.length)] } }
      let s := s.setXb { s.xb with own := KMap.put s.xb.own key { why := .piece id bs.length, dest := e.home, opcode := h.opcode, addr := h.addr, etag := h.etag } }
      let f : Frame := { hdr := { h with seq := seq }, payload := bs, poisoned := false }
      sendRequest s f

/-- Pieces that may be outstanding of one copy at a time (log 22). -/
def copyWindow : Nat := 16

/-- Start the copy's next pieces, each of at most 4,096 bytes and within one 4 KiB block of source and destination (R156).
A source that fails ends its piece with the status of the read. -/
def advanceCopy (s : State) (fuel id : Nat) : State :=
  match fuel with
  | 0 => s
  | f + 1 =>
    match KMap.find s.home.copies id with
    | none => s
    | some c =>
      match c.runs with
      | [] => s
      | (src, dst, len) :: rest =>
        if c.outstanding.length ≥ copyWindow then s
        else
          let n := min len (min (4096 - src % 4096) (4096 - dst % 4096))
          let c := { c with runs := if len ≤ n then rest else (src + n, dst + n, len - n) :: rest }
          let s := s.setHome { s.home with copies := KMap.put s.home.copies id c }
          let o := readOperand s c.req.hdr src n
          let s := settleRead s c.req.hdr o
          let s :=
            match o.need with
            | b :: _ =>
              let key := 2 ^ 60 + s.nextId
              let s := s.setHome { s.home with copies := KMap.put s.home.copies id { c with outstanding := c.outstanding ++ [(key, n)] } }
              let (start, k) := storedRange s b.1 b.2.1 (src % 65536) n
              sendFetch s (.piece id src dst n) 3 b.1 b.2.1 start k
            | [] => if o.status.toNat ≥ 0x10 then pieceEnds s id 0 n o.status else sendPiece s id c dst o.bytes
          advanceCopy s f id

/-- End a copy whose pieces have all ended: the completion carries the worst status (R156). -/
def finishCopy (s : State) (id : Nat) : State :=
  match KMap.find s.home.copies id with
  | none => s
  | some c =>
    if c.runs.isEmpty && c.outstanding.isEmpty then
      let s := s.setHome { s.home with copies := KMap.del s.home.copies id }
      let s := addHold s (c.counter / 2 ^ 30) (c.counter / 65536 % 2 ^ 14) false
      completeStatus s c.req c.worst
    else s

/-- Send what the window allows, and end the copy when nothing is left. -/
def pumpCopy (s : State) (id : Nat) : State := finishCopy (advanceCopy s (copyWindow + 1) id) id

/-- The place that stands for a counter outside the composition's rights: it reads as zero and is not written (R510). -/
def noCounter : Nat := 2 ^ 60

/-- A counter address: a word of a T0-resident page homed here (R154, R155), one outside rights (R510), or none. -/
def counterOk (s : State) (h : Header) (gfa : W64) : Option Nat :=
  if gfa.toNat % 8 ≠ 0 ∨ homedElsewhere s h gfa.toNat = true then none
  else match counterPlace s h gfa with
    | none => some noCounter
    | some (he, page) =>
      let p := s.pte he page
      match p.state, p.loc with
      | .resident, .t0 .. => some (he * 2 ^ 30 + page * 65536 + byteOf gfa)
      | _, _ => none

/-- Start a copy of some runs, which holds its counter's page (R155). -/
def startCopy (s : State) (r : Req) (counter : Nat) (runs : List (Nat × Nat × Nat)) (toEp : Bool) (dstEp : Ep)
    (scanOf : Option Nat) (extIdx : Nat) : State :=
  let (id, s) := s.fresh
  let s := addHold s (counter / 2 ^ 30) (counter / 65536 % 2 ^ 14) true
  let c : CopyWork := { req := r, counter := counter, runs := runs, toEp := toEp, dstEp := dstEp, outstanding := [], worst := 0,
                        scanOf := scanOf, extIdx := extIdx }
  pumpCopy (s.setHome { s.home with copies := KMap.put s.home.copies id c }) id

/-- The service of a `CP_START` at the copier (R154 to R156, R455). -/
def serveCpStart (s : State) (r : Req) : State :=
  let h := r.hdr
  let w := wordAt r.payload
  if !funcOn s h.comp 6 then completeStatus s r 0x11
  else if keyRevoked s h then completeStatus s r 0x30
  else if r.poisoned then completeStatus s r 0x40
  else
    let src := w 0
    let len := bits 63 24 (w 2)
    let toEp := bit 16 (w 2)
    if h.addr.toNat ≠ src ∨ len = 0 ∨ homedElsewhere s h src = true then completeStatus s r 0x10
    else match counterOk s h h.etag with
      | none => completeStatus s r 0x10
      | some place =>
        let s := if place ≥ 2 ^ 50 then countViol s h.comp h.src 4 1 else s
        startCopy s r place [(src, w 1, len)] toEp (.ofNat 16 (bits 15 0 (w 2))) none (extOf h.addr)

/-- The service of a `CTR_ARM` at the counter's home (R155, R158). -/
def serveCtrArm (s : State) (r : Req) : State :=
  let h := r.hdr
  let target := wordAt r.payload 0
  let w1 := wordAt r.payload 1
  if keyRevoked s h then completeStatus s r 0x30
  else if r.poisoned then completeStatus s r 0x40
  else match counterOk s h h.addr with
    | none => completeStatus s r 0x10
    | some place =>
      if bits 15 0 w1 = 0 then completeStatus s r 0x10
      else
        let s := if place ≥ 2 ^ 50 then countViol s h.comp h.src 4 1 else s
        let v := if place ≥ 2 ^ 50 then 0 else counterAt s (place / 2 ^ 30) (place / 65536 % 2 ^ 14) (place % 65536)
        let wake : Ep := .ofNat 16 (bits 63 48 w1)
        if v ≥ target then
          let s := complete s r s.self 0 [] false 0
          if wake = 0 then s else sendWake s r wake v
        else if s.home.waits.length ≥ 65536 then completeStatus s r 0x50
        else
          let (id, s) := s.fresh
          let x : ArmedWait := { req := r, counter := place, target := target, wake := wake, deadline := s.day + bits 15 0 w1 }
          addHold (s.setHome { s.home with waits := KMap.put s.home.waits id x }) (place / 2 ^ 30) (place / 65536 % 2 ^ 14) true

end Sys2Proof.Machine
end

