-- ==== Sys2Proof/Machine/Fold.lean ====
section
/-! DEFINITION. The arithmetic of the Reduce engines on values: operators, orders of combination, top-k and LSE merges, and
the output formats (R232 to R241, R252 to R259, R262). -/

namespace Sys2Proof.Machine

/-- An LSE partial record (R254). -/
structure Lse where
  m : Fp
  l : Fp
  o : List Fp
  deriving DecidableEq, Repr

/-- Operands of one input, by kind of format. -/
inductive RVals where
  | fp (l : List Fp)
  | arg (l : List (Fp × Nat))
  | ints (l : List Nat)
  | tops (l : List TopEntry)
  | lse (l : List Lse)
  deriving DecidableEq, Repr

/-! ## Formats and operators (R232, R236) -/

/-- An FP or MX format code. -/
def isFpCode (c : Nat) : Bool := decide (c ≤ 9)
/-- An MX format code. -/
def isMxCode (c : Nat) : Bool := decide (5 ≤ c ∧ c ≤ 9)
/-- `ARGMAX` or `ARGMIN`. -/
def isArg (op : Nat) : Bool := decide (op = 3 ∨ op = 4)
/-- A scan operator. -/
def isScan (op : Nat) : Bool := decide (9 ≤ op ∧ op ≤ 0xB)

/-- Input formats of an operator (R236). -/
def inFmtOk (op f : Nat) : Bool :=
  match op with
  | 0 => decide (f ≤ 0xB)
  | 1 => decide (f ≤ 0xC)
  | 2 => decide (f ≤ 0xC)
  | 3 => isFpCode f
  | 4 => isFpCode f
  | 5 => f == 0
  | 6 => decide (0xA ≤ f ∧ f ≤ 0xC)
  | 7 => decide (0xA ≤ f ∧ f ≤ 0xC)
  | 8 => decide (0xA ≤ f ∧ f ≤ 0xC)
  | 9 => decide (f ≤ 2 ∨ f = 0xA ∨ f = 0xB)
  | 0xA => decide (f ≤ 2 ∨ f = 0xA ∨ f = 0xB)
  | 0xB => decide (f ≤ 2 ∨ f = 0xA ∨ f = 0xB)
  | 0xC => f == 0xE
  | 0xD => f == 0xD
  | _ => false

/-- Output formats of an operator on an input format (R236, R258). -/
def outFmtOk (op inF outF : Nat) (final : Bool) : Bool :=
  if op = 5 then outF == 0
  else if op = 0xC then outF == 0xE
  else if op = 0xD then (if final then decide (outF ≤ 4) else outF == 0xD)
  else if isFpCode inF then decide (outF ≤ 4)
  else outF == inF

/-- Bytes of a partial record of `ROW` elements (R254). -/
def lseBytesLen (row : Nat) : Nat := (8 + 4 * row + 15) / 16 * 16

/-- Bytes of a scalar element of an output format. -/
def outElemBytes (f : Nat) : Nat := formatBytes f 1

/-- Bytes of a final record (R258). -/
def finalBytesLen (row outF : Nat) : Nat := (4 + row * outElemBytes outF + 15) / 16 * 16

/-! ## Top-k (R252, R253) -/

/-- The sentinel entry. -/
def sentinel : TopEntry := { key := 0x7F800000, aux := 0, id := 0xFFFFFFFFFFFFFFFF }

/-- Whether an entry is a sentinel, whatever its `AUX`. -/
def isSentinel (e : TopEntry) : Bool := e.key == 0x7F800000 && e.id == 0xFFFFFFFFFFFFFFFF

/-- Order of rank keys: −∞ < finite < +∞ < NaN, zeros equal. -/
def keyLt (a b : BitVec 32) : Bool :=
  match f32 a.toNat, f32 b.toNat with
  | .nan, _ => false
  | _, .nan => true
  | x, y => Fp.lt false x y

/-- One entry ranks before another: by `KEY`, then lower `ID`, then lower `AUX`. -/
def topLt (a b : TopEntry) : Bool :=
  keyLt a.key b.key || (!keyLt b.key a.key && (decide (a.id.toNat < b.id.toNat) ||
    (a.id == b.id && decide (a.aux.toNat < b.aux.toNat))))

/-- Put an entry in its place in a ranked list. -/
def topInsert (e : TopEntry) (l : List TopEntry) : List TopEntry :=
  match l with
  | [] => [e]
  | x :: r => if topLt e x then e :: x :: r else x :: topInsert e r

/-- The first K of the entries that are no sentinels, in rank order. -/
def topMerge (k : Nat) (l : List TopEntry) : List TopEntry :=
  ((l.filter (fun e => !isSentinel e)).foldl (fun acc e => (topInsert e acc).take k) []).take k

/-- A ranked list filled up with sentinels. -/
def topPad (k : Nat) (l : List TopEntry) : List TopEntry := l ++ List.replicate (k - l.length) sentinel

/-- A top-k entry as its two words. -/
def topBytes (e : TopEntry) : List Byte := beBytes 4 e.key.toNat ++ beBytes 4 e.aux.toNat ++ beBytes 8 e.id.toNat

/-- Top-k entries read from their words. -/
def parseTops (bs : List Byte) : List TopEntry :=
  (chunksOf 16 bs.length bs).map (fun b => { key := .ofNat 32 (beNat (b.take 4)), aux := .ofNat 32 (beNat ((b.drop 4).take 4)),
                                             id := .ofNat 64 (beNat ((b.drop 8).take 8)) })

/-! ## LSE-merge (R254 to R258) -/

/-- The empty partial. -/
def lseEmpty (row : Nat) : Lse := { m := .inf true, l := Fp.zero, o := List.replicate row Fp.zero }

/-- A partial read from its record. -/
def parseLse (row : Nat) (bs : List Byte) : Lse :=
  let w (i : Nat) : Fp := f32 (beNat ((bs.drop (4 * i)).take 4))
  { m := w 0, l := w 1, o := (List.range row).map (fun i => w (i + 2)) }

/-- Partials of a frame. -/
def parseLses (row : Nat) (bs : List Byte) : List Lse := (chunksOf (lseBytesLen row) bs.length bs).map (parseLse row)

/-- A partial as its record. -/
def lseBytes (x : Lse) : List Byte :=
  padTo (lseBytesLen x.o.length) (beBytes 4 (toF32 x.m) ++ beBytes 4 (toF32 x.l) ++ x.o.flatMap (fun v => beBytes 4 (toF32 v)))

/-- A weight of R255. -/
def lseWeight (mi m : Fp) : Fp := if mi = .inf true then Fp.zero else fpExp (rnd32 (mi.sub m))

/-- NaN or +∞, which makes the merged record NaN (R257). -/
def lseBad (x : Fp) : Bool := x == .nan || x == .inf false

/-- The merge of a with b, a having the lower index (R255, R257). -/
def lseMerge (a b : Lse) : Lse :=
  if lseBad a.m || lseBad b.m then { m := .nan, l := .nan, o := a.o.map (fun _ => .nan) }
  else
    let m := Fp.maximum a.m b.m
    if m = .inf true then lseEmpty a.o.length
    else
      let wa := lseWeight a.m m
      let wb := lseWeight b.m m
      let mix (x y : Fp) : Fp := rnd32 ((wa.mul x).add (wb.mul y))
      { m := m, l := mix a.l b.l, o := List.zipWith mix a.o b.o }

/-- The final record (R258): lse, then the outputs in `OUT_FMT`; `up` rounds output d. A quotient o[d] / l has no accumulator of R58 behind it:
under `STOCH` its discarded field is the quotient's own, taken to more than 32 bits, also where the quotient terminates (R65; DESIGN CHOICE,
log 189). -/
def lseFinalBytes (outF : Nat) (up : Nat → Nat → Nat → Bool → Bool) (x : Lse) : List Byte :=
  let f := (fpFormat outF).getD fmtF32
  let empty : Bool := toF32 x.l == 0
  let lse := if empty then .inf true else rnd32 (x.m.add (fpLn x.l))
  let out (d : Nat) (v : Fp) : Nat := if empty then 0 else f.encodeWith (up d) (v.div x.l)
  padTo (finalBytesLen x.o.length outF)
    (beBytes 4 (toF32 lse) ++ x.o.zipIdx.flatMap (fun p => beBytes (f.width / 8) (out p.2 p.1)))

/-! ## Operators (R235, R238, R241) -/

/-- Two FP values under an operator, each step rounded in Fast mode. -/
def fpComb (op : Nat) (strict : Bool) (a b : Fp) : Fp :=
  if op = 0 ∨ op = 9 then (if strict then a.add b else rnd32 (a.add b))
  else if op = 1 ∨ op = 0xA then Fp.maximum a b
  else if op = 2 ∨ op = 0xB then Fp.minimum a b
  else rnd32 (a.mul b)

/-- Extreme value with its index: NaN first, then the extreme, then the lower index. -/
def argComb (op : Nat) (a b : Fp × Nat) : Fp × Nat :=
  let lower := if a.2 ≤ b.2 then a else b
  match a.1, b.1 with
  | .nan, .nan => lower
  | .nan, _ => a
  | _, .nan => b
  | x, y =>
    let (p, q) := if op = 3 then (Fp.lt true y x, Fp.lt true x y) else (Fp.lt true x y, Fp.lt true y x)
    if p then a else if q then b else lower

/-- Width of an integer format. -/
def intWidth (code : Nat) : Nat := if code = 0xB then 64 else 32

/-- Two integers under an operator. -/
def intComb (op code a b : Nat) : Nat :=
  let w := intWidth code
  let less (x y : Nat) : Bool := if code = 0xC then decide (x < y) else decide (asInt w x < asInt w y)
  if op = 0 ∨ op = 9 then (a + b) % 2 ^ w
  else if op = 1 ∨ op = 0xA then (if less a b then b else a)
  else if op = 2 ∨ op = 0xB then (if less b a then b else a)
  else if op = 6 then a &&& b
  else if op = 7 then a ||| b
  else a ^^^ b

/-- Two inputs, element by element; top-k lists are joined and ranked at the end. -/
def combine (op code : Nat) (strict : Bool) (a b : RVals) : RVals :=
  match a, b with
  | .fp x, .fp y => .fp (List.zipWith (fpComb op strict) x y)
  | .arg x, .arg y => .arg (List.zipWith (argComb op) x y)
  | .ints x, .ints y => .ints (List.zipWith (intComb op code) x y)
  | .tops x, .tops y => .tops (x ++ y)
  | .lse x, .lse y => .lse (List.zipWith lseMerge x y)
  | a, _ => a

/-- The largest power of two strictly below n. -/
def halfBelow (n : Nat) : Nat := if n ≤ 1 then 0 else 2 ^ Nat.log2 (n - 1)

/-- The canonical tree (R239) over inputs that each cover a subtree: the range starts at `lo` and holds `n` indices. -/
def treeOver {α : Type} (f : α → α → α) (fuel lo n : Nat) (l : List (Nat × α)) : Option α :=
  match fuel with
  | 0 => (l.head?).map (·.2)
  | k + 1 =>
    match l with
    | [] => none
    | [x] => some x.2
    | _ =>
      let p := halfBelow n
      let (a, b) := l.partition (fun x => decide (x.1 < lo + p))
      match treeOver f k lo p a, treeOver f k (lo + p) (n - p) b with
      | some x, some y => some (f x y)
      | some x, none => some x
      | none, y => y

/-- The canonical tree over a whole list. -/
def tree {α : Type} (f : α → α → α) (l : List α) : Option α :=
  treeOver f (l.length + 1) 0 l.length (l.zipIdx.map (fun p => (p.2, p.1)))

/-- A left fold of a list that is not empty. -/
def foldLeft {α : Type} (f : α → α → α) (l : List α) : Option α :=
  match l with
  | [] => none
  | x :: r => some (r.foldl f x)

/-- Whether an operator is not associative in Strict mode (R241). -/
def treeOp (op : Nat) : Bool := decide (op = 5 ∨ op = 0xD)

/-- Inputs of an operation, by first index, in the order of the mode (R241, R245, R259). -/
def foldInputs (op code : Nat) (strict : Bool) (lo n : Nat) (l : List (Nat × RVals)) : Option RVals :=
  if strict && treeOp op then treeOver (combine op code strict) (n + 1) lo n l
  else foldLeft (combine op code strict) (l.map (·.2))

/-- Pieces of a segment of `n` elements for `e` engines (R240). -/
def cutPieces {α : Type} (e : Nat) (l : List α) : List (List α) :=
  let n := l.length
  (List.range e).map (fun p => (l.drop (p * n / e)).take ((p + 1) * n / e - p * n / e))

/-- A segment (R240, R241): pieces folded left to right and joined by the canonical tree, or the exact or tree order of
Strict mode. -/
def foldSegment {α : Type} (f : α → α → α) (strict wholeTree : Bool) (engines : Nat) (l : List α) : Option α :=
  if strict then (if wholeTree then tree f l else foldLeft f l)
  else tree f ((cutPieces (min engines l.length) l).filterMap (foldLeft f))

/-- An inclusive scan of one piece, left to right. -/
def scanPiece {α : Type} (f : α → α → α) (l : List α) : List α :=
  match l with
  | [] => []
  | x :: r => ((r.foldl (fun (acc : List α × α) v => let y := f acc.2 v; (y :: acc.1, y)) ([x], x)).1).reverse

/-- The pieces of a scan under their offsets. -/
def scanOffsets {α : Type} (f : α → α → α) (first : Bool) (off : α) (ps : List (List α)) : List α :=
  match ps with
  | [] => []
  | p :: r =>
    let loc := scanPiece f p
    let next := match loc.getLast? with | some t => f off t | none => off
    (if first then loc else loc.map (f off)) ++ scanOffsets f false next r

/-- A scan of a segment (R240, R241), exclusive on demand. -/
def scanSegment {α : Type} (f : α → α → α) (ident : α) (strict excl : Bool) (engines : Nat) (l : List α) : List α :=
  let inc := if strict then scanPiece f l else scanOffsets f true ident (cutPieces (min engines l.length) l)
  if excl then ident :: inc.dropLast else inc

/-! ## Bytes in and out -/

/-- The values of an input in a format: FP values enter Fast mode as FP32 (R233). `idx` is the index that each FP value of
an `ARG` operator carries; `pairs` reads an `ARG` partial, whose values and 16-bit indices are most significant byte first
(R249). Other element data is little-endian (log 11), records and entries are words. -/
def readVals (op code row : Nat) (strict pairs : Bool) (idx : Nat → Nat) (bs : List Byte) : RVals :=
  let fast (l : List Fp) : List Fp := if strict then l else l.map fastIn
  if op = 0xC then .tops (parseTops bs)
  else if op = 0xD then .lse (parseLses row bs)
  else if isArg op then
    if pairs then
      let n := bs.length / 6
      let v := fast (decodeElems 0 true (bs.take (4 * n)))
      .arg (v.zipIdx.map (fun p => (p.1, beNat (((bs.drop (4 * n + 2 * p.2))).take 2))))
    else .arg ((fast (decodeElems code false bs)).zipIdx.map (fun p => (p.1, idx p.2)))
  else if isFpCode code then .fp (fast (decodeElems code false bs))
  else .ints (decodeInts code false bs)

/-- Elements of a frame of an input, and none where its length fits no whole number of them (R244). -/
def frameElems (op code row : Nat) (pairs : Bool) (len : Nat) : Option Nat :=
  let per (b k : Nat) : Option Nat := if b = 0 ∨ len = 0 ∨ len % b ≠ 0 then none else some (len / b * k)
  if op = 0xC then per 16 1
  else if op = 0xD then per (lseBytesLen row) 1
  else if isArg op && pairs then per 6 1
  else if isMxCode code then per (formatBytes code 32) 32
  else per (formatBytes code 1) 1

/-- FP values in an output format, element `i` rounded by `up i` (R235, R262). -/
def fpOut (code : Nat) (big : Bool) (up : Nat → Nat → Nat → Bool → Bool) (base : Nat) (l : List Fp) : List Byte :=
  let f := (fpFormat code).getD fmtF32
  l.zipIdx.flatMap (fun p => elemBytes f big (f.encodeWith (up (base + p.2)) p.1))

/-- Integers in their format. -/
def intOut (code : Nat) (l : List Nat) : List Byte := l.flatMap (leBytes (intWidth code / 8))

/-- Rounding to nearest for every element. -/
def upNearest (_ : Nat) : Nat → Nat → Bool → Bool := rne

/-- The identity of a scan operator (R240): +0, −∞ or +∞, and for integers the sum's 0 or the least or greatest value
(log 25). -/
def fpIdent (op : Nat) : Fp := if op = 9 then Fp.zero else .inf (op == 0xA)

/-- The integer identity of a scan operator (log 25). -/
def intIdent (op code : Nat) : Nat :=
  let w := intWidth code
  if op = 9 then 0 else if op = 0xA then 2 ^ (w - 1) else 2 ^ (w - 1) - 1

end Sys2Proof.Machine
end

