-- ==== Sys2Proof/Machine/Chunks.lean ====
section
/-! DEFINITION. Collectives at their nodes: choosing a node entry and an engine, staging, folding and closing chunks, results
and partials, and the merge of a search's lists at its coordinator (R242 to R251, R290 to R294, R495). -/

namespace Sys2Proof.Machine

/-! ## Engines (R240, R243, R495, R507) -/

/-- What the engines of a partition allow: work runs, waits for an engine's return, or has none. -/
inductive Avail where
  | run | wait | absent
  deriving DecidableEq, Repr

/-- Engines of a kind and set on one die: retired all, or none in service just now (R495). -/
def dieAvail (s : State) (k : EngineKind) (engines : List Nat) (die : Nat) : Avail :=
  let l := engines.filter (fun n => decide (n / 32 = die))
  if l.isEmpty then .run
  else if l.all (fun n => (s.engine k n).state == .retired) then .absent
  else if l.all (fun n => (s.engine k n).state != .service) then .wait
  else .run

/-- The die that stores a place, if one does. -/
def locDie (s : State) (l : Loc) : Option Nat :=
  match l with | .t0 n _ => some (dieOfSlice s.variant n) | .t1 k _ => some (k / 8) | _ => none

/-- The dies whose stacks and slices hold pages of some of a composition's extents here: a command on them is split into one part for each
(R11). -/
def extsDies (s : State) (c : BitVec 12) (sel : Nat → Bool) : List Nat :=
  ((s.home.exts.filter (fun x => x.2.comp == c && sel x.2.idx)).flatMap (fun x => x.2.pages.filterMap (fun p => locDie s p.2.loc))).eraseDups

/-- The share weight of an Almanac entry for a kind of engine (R507). -/
def CompEntry.weight (e : CompEntry) (k : EngineKind) : Nat := match k with | .reduce => e.reWeight | .score => e.seWeight | _ => e.geWeight

/-- The key of a composition's use of an engine. -/
def useKey (c : BitVec 12) (k : EngineKind) (n : Nat) : Nat := c.toNat * 512 + engKey k n

/-- The scheduled engine work of the Day template in force (R44). -/
def reservedWork (s : State) : List EngWork := match s.xb.template.bind (KMap.find s.alm.cur.templates) with | some t => t.work | none => []

/-- The cycles of an engine that no scheduled work reserves today (R18). -/
def freeCycles (s : State) (k : EngineKind) (n : Nat) : Nat :=
  4096 - (((reservedWork s).filter (fun w => w.kind == k && w.engine == n)).map (fun w => w.cycles)).sum

/-- A composition's share of an engine's free cycles in a Day, by the weights of the compositions whose partitions include it (R18). -/
def engineShare (s : State) (e : CompEntry) (k : EngineKind) (n : Nat) : Nat :=
  let total := ((s.alm.cur.comps.filter (fun x => (unitsOf s (some x.2) k).contains n)).map (fun x => x.2.weight k)).sum
  max 1 (freeCycles s k n * e.weight k / max 1 total)

/-- Whether a request's composition has used up its share of one of some engines today (R18). -/
def shareGone (s : State) (r : Req) (k : EngineKind) (engines : List Nat) : Bool :=
  match r.entry with
  | none => false
  | some e => r.hdr.cls != 0 && engines.any (fun n => decide (KMap.getD s.eng.used (useKey r.hdr.comp k n) 0 ≥ engineShare s e k n))

/-- What the engines of a kind allow a request that needs those of some dies (R18, R495, R507). -/
def engineAvail (s : State) (r : Req) (k : EngineKind) (dies : List Nat) : Avail :=
  let p := reqUnits s r k
  if p.isEmpty || dies.any (fun d => dieAvail s k p d == .absent) then .absent
  else if dies.any (fun d => dieAvail s k p d == .wait) || shareGone s r k p then .wait
  else .run

/-- Both dies. -/
def bothDies : List Nat := [0, 1]

/-- Whether an earlier request of the same composition and class waits for the same kind of engine: they are served in arrival order (R18). -/
def queuedBefore (s : State) (r : Req) (k : EngineKind) : Bool :=
  s.eng.queue.any (fun q => q.2.kind == k && q.2.req.hdr.comp == r.hdr.comp && q.2.req.hdr.cls == r.hdr.cls && decide (q.2.req.ord < r.ord))

/-- The engines of a request's partition that take its parts on some dies (R11): those of the dies, or all where the dies hold none. -/
def workUnits (s : State) (r : Req) (k : EngineKind) (dies : List Nat) : List Nat :=
  let p := reqUnits s r k
  match p.filter (fun n => dies.contains (n / 32)) with | [] => p | l => l

/-- Count cycles of engines of a kind for a composition and in each engine's `BUSY` (R372, R374, R477). -/
def meterCycles (s : State) (c : BitVec 12) (k : EngineKind) (p : List Nat) (n : Nat) : State :=
  let s := p.foldl (fun s e => s.updEngine k e (fun x => { x with busy := satAdd 32 x.busy n })) s
  let add (w : W64) : W64 := w + .ofNat 64 (n * p.length)
  s.updComp c (fun x => { x with meter := match k with
    | .reduce => { x.meter with re := add x.meter.re }
    | .score => { x.meter with se := add x.meter.se }
    | _ => { x.meter with ge := add x.meter.ge } })

/-- The cycles that the Day's calendar reserves count whether they are used or not (R374). -/
def meterReserved (s : State) : State := (reservedWork s).foldl (fun s w => meterCycles s w.comp w.kind [w.engine] w.cycles) s

/-- Cycles that work takes on engines are not stated to the cycle: a free number counts for the composition, and against its share (R18, R374). -/
def meterWork (s : State) (c : BitVec 12) (k : EngineKind) (p : List Nat) : State :=
  let (n, s) := s.free
  meterCycles (s.setEng { s.eng with used := p.foldl (fun m e => KMap.upd m (useKey c k e) 0 (· + n)) s.eng.used }) c k p n

/-- A frame waits in an engine's input queue, which is an output queue: it may push others out or be pushed out itself
(R130, R245). -/
def engineWait (s : State) (old : Option (Nat × Nat)) (k : EngineKind) (engine : Nat) (r : Req) : State :=
  let die := engine / 32
  let need := cellsOf r.payload.length
  let depth := ((s.eng.queue.filter (fun q => q.2.kind == k && q.2.engine == engine)).map (fun q => cellsOf q.2.req.payload.length)).sum
  let s := if r.hdr.cls = 0 then s else roomFor s die r.hdr.cls.toNat need need
  match sharedShare s die need (reqFrame r) with
  | some _ =>
    let (id, s) := match old with | some (id, _) => (id, s) | none => s.fresh
    s.setEng { s.eng with queue := KMap.put s.eng.queue id { kind := k, engine := engine, req := r, qdepth := depth } }
  | none => pushedOut s (reqFrame r) { reqOrigin r with port := ownPort } ownPort depth

/-! ## Node entries (R242, R243) -/

/-- Collective id, chunk and contributor index of an `ETAG` (R78). -/
def tagColl (e : W64) : BitVec 24 := .ofNat 24 (bits 63 40 e.toNat)
/-- Chunk index of an `ETAG`. -/
def tagChunk (e : W64) : Nat := bits 39 16 e.toNat
/-- Contributor index of an `ETAG`. -/
def tagIdx (e : W64) : Nat := bits 15 0 e.toNat

/-- Transient collective ids (R292). -/
def isTransient (c : BitVec 24) : Bool := decide (c.toNat ≥ 0xFF0000)

/-- The entry that a contribution goes to: the narrower range for an endpoint's frame, the wider for a module's (R243). -/
def nodeFor (s : State) (coll : BitVec 24) (idx : Nat) (fromModule : Bool) : Option NodeEntry :=
  let l := s.alm.cur.nodes.filter (fun n => n.collId == coll && n.inputs.contains idx && decide (n.lo ≤ idx ∧ idx ≤ n.hi))
  l.foldl (fun (best : Option NodeEntry) n =>
    match best with
    | none => some n
    | some b => if fromModule then (if n.hi - n.lo > b.hi - b.lo then some n else best)
                else (if n.hi - n.lo < b.hi - b.lo then some n else best)) none

/-- The engine of a chunk (R243). -/
def chunkEngine (n : NodeEntry) (chunk : Nat) : Nat :=
  let l := (List.range 32).filter (fun i => n.engMask.getLsbD i)
  32 * b2n n.die + l.getD (chunk % max l.length 1) 0

/-- The format of a node's inputs, a partial's being that of R249. -/
def inputCode (n : NodeEntry) (fromModule : Bool) : Nat :=
  if fromModule && isFpCode n.inFmt.toNat then 0 else n.inFmt.toNat

/-- A chunk's open work, by entry and place. -/
def findChunk (s : State) (n : NodeEntry) (step : BitVec 24) (chunk : Nat) : Option (Nat × Chunk) :=
  KMap.first? s.eng.chunks (fun _ c => c.node.collId == n.collId && c.node.lo == n.lo && c.node.hi == n.hi && c.step == step
    && c.chunk == chunk && c.search.isNone)

/-- A closed chunk's record (R248). -/
def findRecord (s : State) (n : NodeEntry) (step : BitVec 24) (chunk : Nat) : Option ChunkRecord :=
  (KMap.first? s.eng.records (fun _ c => c.collId == n.collId && c.lo == n.lo && c.hi == n.hi && c.step == step && c.chunk == chunk)).map (·.2)

/-! ## Staging and folding (R245) -/

/-- Elements that an input's staged frames hold. -/
def inputElems (n : NodeEntry) (i : ChunkInput) : Nat :=
  (i.frames.map (fun f => (frameElems n.op.toNat (inputCode n i.fromModule) n.row (isArg n.op.toNat && i.fromModule) f.2.length).getD 0)).sum

/-- Whether every frame of an input has been received. -/
def inputWhole (n : NodeEntry) (i : ChunkInput) : Bool := decide (inputElems n i ≥ n.chunkElems)

/-- Whether an input has been folded: in Fast mode after every lower one, in Strict mode when whole, but under the canonical
tree only with all (R245). -/
def inputFolded (c : Chunk) (idx : Nat) : Bool :=
  let whole (i : Nat) : Bool := match KMap.find c.inputs i with | some x => inputWhole c.node x | none => false
  if c.strict then (if treeOp c.node.op.toNat then c.node.inputs.all whole else whole idx)
  else (c.node.inputs.filter (fun i => decide (i ≤ idx))).all whole

/-- Bytes of an engine's staging store in use: the frames not yet folded (R231). -/
def stagedBytes (s : State) (engine : Nat) : Nat :=
  ((s.eng.chunks.filter (fun c => decide (c.2.engine = engine))).map (fun c =>
    ((c.2.inputs.filter (fun i => !inputFolded c.2 i.1)).map (fun i => (i.2.frames.map (fun f => f.2.length)).sum)).sum)).sum

/-- Bytes of accumulator that a chunk takes (R231). -/
def accBytes (n : NodeEntry) (strict : Bool) : Nat := (if strict then 80 else 4) * n.chunkElems

/-- Bytes of an engine's accumulator store in use. -/
def accUsed (s : State) (engine : Nat) : Nat :=
  ((s.eng.chunks.filter (fun c => decide (c.2.engine = engine))).map (fun c => accBytes c.2.node c.2.strict)).sum

/-- An input's values: its frames in element order. -/
def inputVals (c : Chunk) (idx : Nat) (i : ChunkInput) : RVals :=
  let n := c.node
  let op := n.op.toNat
  let code := inputCode n i.fromModule
  let vals (b : List Byte) : RVals := readVals op code n.row c.strict (isArg op && i.fromModule) (fun _ => idx) b
  let join (a b : RVals) : RVals := match a, b with
    | .fp x, .fp y => .fp (x ++ y)
    | .arg x, .arg y => .arg (x ++ y)
    | .ints x, .ints y => .ints (x ++ y)
    | .tops x, .tops y => .tops (x ++ y)
    | .lse x, .lse y => .lse (x ++ y)
    | a, _ => a
  (foldLeft join (i.frames.map (fun f => vals f.2))).getD (.ints [])

/-- The folded value of a chunk whose inputs are all whole. -/
def chunkValue (c : Chunk) : Option RVals :=
  let n := c.node
  foldInputs n.op.toNat (inputCode n false) c.strict n.lo (n.hi - n.lo + 1) (c.inputs.map (fun i => (i.1, inputVals c i.1 i.2)))

/-! ## Results (R248, R249) -/

/-- A flow that carries frames from this module to a destination, if the calendar has one (R244). -/
def flowTo (s : State) (c : BitVec 12) (dest : Ep) : Bool :=
  s.alm.cur.flows.any (fun f => f.2.comp == c && f.2.src == s.self && f.2.dst == dest)

/-- The header of a partial or a result: it carries the composition and key of the chunk. -/
def resultHeader (s : State) (c : Chunk) (op : Nat) (dest : Ep) (who first len : Nat) (status : BitVec 8) : Header :=
  let n := c.node
  let slot := (s.comp n.comp).keySlot
  let h := ownHeader s op dest len
  { h with cls := if flowTo s n.comp dest then 0 else 5, comp := n.comp, epoch := c.epoch,
           tenant := (match s.compEntry n.comp with | some e => e.tenant | none => 0), keySlot := slot,
           keyGen := (KMap.getD s.kp.slots slot.toNat KeySlot.init).gen, status := status, addr := .ofNat 64 first,
           etag := .ofNat 64 (n.collId.toNat * 2 ^ 40 + c.chunk * 2 ^ 16 + who), stepLo := c.step }

/-- A multicast frame (R127): stored once per die, with one entry in the queue of each target port. The credits of its cells go back with its
first copy. -/
def multicast (s : State) (f : Frame) (o : Origin) (targets : List Nat) (flow : Option Nat) : State :=
  [0, 1].foldl (fun s die =>
    let l := targets.filter (fun p => decide (dieOfPort p = die))
    if l.isEmpty then s
    else
      let s := if f.hdr.cls = 0 then s else roomFor s die f.hdr.cls.toNat (storedCells f) (cellsOf (frameSize f))
      let (id, s) := s.fresh
      let inPort := if die = dieOfPort (targets.headD 0) then o.port else ownPort
      let s := s.setXb { s.xb with copies := KMap.put s.xb.copies id { frame := f, die := die == 1, targets := l, inPort := inPort } }
      l.foldl (fun s p => placeFrame s p f o 0 (some id) 0 flow 0) s) s

/-- Send one frame of a chunk's outcome under its `OUT_KIND` (R242, R249). -/
def sendOutcome (s : State) (key : Nat) (c : Chunk) (first : Nat) (bytes : List Byte) (status : BitVec 8) : State :=
  let n := c.node
  if n.outKind = 1 then sendOwn s (resultHeader s c 0x40 n.outEp n.lo first bytes.length status) bytes (.partial_ key)
  else
    let h := resultHeader s c 0x41 n.outEp 0xFFFF first bytes.length status
    if n.outKind = 0 then multicast s { hdr := h, payload := bytes, poisoned := false } (ownOrigin s h) (KMap.getD s.alm.cur.mcast n.mcast []) none
    else if n.outKind = 2 then
      let (seq, s) := nextSeq s n.outEp
      sendRequest s { hdr := { h with seq := seq }, payload := bytes, poisoned := false }
    else s

/-- Write result bytes at a fabric address for the composition: at once where the page is here and ready, else by a `WR` to
the page's home (R242, log 24). -/
def writeResult (s : State) (c : Chunk) (addr : Nat) (bs : List Byte) : State :=
  (piecesOf addr bs.length).foldl (fun s p =>
    let h := { resultHeader s c 0x14 s.self 0 0 p.2 0 with addr := .ofNat 64 p.1, cls := 4, etag := 0, src := s.self }
    let piece := (bs.drop (p.1 - addr)).take p.2
    if homedElsewhere s h p.1 then
      let e := entryFor s h.comp h.epoch (p.1 / 2 ^ 30 % 2 ^ 20)
      sendOwn s { h with dest := e.home } piece .other
    else match readyOutput s h p.1 p.2 with
      | (s, none) => (writeOperand s h p.1 piece).1
      | (s, some _) => sendOwn s { h with dest := s.self } piece .other) s

/-- A partial's bytes, or a result's, for elements from `first` on (R235, R249). -/
def valsOut (n : NodeEntry) (toParent big : Bool) (first : Nat) (v : RVals) : List Byte :=
  let out := if toParent then (if isFpCode n.inFmt.toNat then 0 else n.inFmt.toNat) else n.outFmt.toNat
  match v with
  | .fp l => fpOut out false upNearest first l
  | .arg l => fpOut out big upNearest first (l.map (·.1)) ++ l.flatMap (fun p => if big then beBytes 2 p.2 else leBytes 2 p.2)
  | .ints l => intOut n.inFmt.toNat l
  | .tops l => l.flatMap topBytes
  | .lse l => if !toParent && out != 0xD then l.flatMap (lseFinalBytes out (fun _ => rne)) else l.flatMap lseBytes

/-- Elements of a value. -/
def valsLen (v : RVals) : Nat :=
  match v with | .fp l => l.length | .arg l => l.length | .ints l => l.length | .tops l => l.length | .lse l => l.length

/-- Elements `a` to `a + k − 1` of a value. -/
def valsSlice (a k : Nat) (v : RVals) : RVals :=
  match v with
  | .fp l => .fp ((l.drop a).take k)
  | .arg l => .arg ((l.drop a).take k)
  | .ints l => .ints ((l.drop a).take k)
  | .tops l => .tops ((l.drop a).take k)
  | .lse l => .lse ((l.drop a).take k)

/-- Send a chunk's result: in frames of at most 4,096 bytes, or as a write to `OUT_GFA` (R242, R244, R249). -/
def sendResult (s : State) (key : Nat) (c : Chunk) (v : RVals) (status : BitVec 8) : State :=
  let n := c.node
  let toParent := n.outKind == 1
  if n.outKind = 3 then
    match v with
    | .arg l =>
      let vals := valsOut n false false 0 (.fp (l.map (·.1)))
      let base := (n.outGfa + vals.length * n.chunks + 4095) / 4096 * 4096
      let s := writeResult s c (n.outGfa + vals.length * c.chunk) vals
      writeResult s c (base + 2 * n.chunkElems * c.chunk) (l.flatMap (fun p => leBytes 2 p.2))
    | v =>
      let bs := valsOut n false false 0 v
      writeResult s c (n.outGfa + bs.length * c.chunk) bs
  else
    let one := (valsOut n toParent true 0 (valsSlice 0 1 v)).length
    let per := max 1 (4096 / max 1 one)
    (List.range ((valsLen v + per - 1) / per)).foldl (fun s i =>
      sendOutcome s key c (i * per) (valsOut n toParent true (i * per) (valsSlice (i * per) per v)) status) s

/-! ## A search's lists at its coordinator (R291 to R294, R296, R297) -/

/-- Queries of a search. -/
def searchNq (r : Req) : Nat := bits 61 56 (wordAt r.payload 0) + 1
/-- `K` of a search. -/
def searchK (r : Req) : Nat := bits 55 45 (wordAt r.payload 0)

/-- A result record (R291). -/
def resultRecord (k : Nat) (l : List TopEntry) (status : Nat) : List Byte :=
  wordsBytes [l.length * 2 ^ 53 + status * 2 ^ 45, 0] ++ (topPad k l).flatMap topBytes

/-- Close a chunk into its record (R248). -/
def recordChunk (s : State) (key : Nat) (c : Chunk) (status : BitVec 8) (folded : List Nat) : State :=
  let x : ChunkRecord := { collId := c.node.collId, lo := c.node.lo, hi := c.node.hi, step := c.step, chunk := c.chunk, comp := c.node.comp,
                           status := status, day := s.day, folded := folded, engine := c.engine }
  s.setEng { s.eng with chunks := KMap.del s.eng.chunks key, records := KMap.put s.eng.records key x }

/-- A failed search (R293): every open chunk of it closes with the status, and it completes without records. -/
def failSearch (s : State) (id : Nat) (status : BitVec 8) : State :=
  match KMap.find s.eng.searches id with
  | none => s
  | some x =>
    let s := s.eng.chunks.foldl (fun s p =>
      if p.2.search = some id then recordChunk s p.1 p.2 status (p.2.node.inputs.filter (inputFolded p.2)) else s) s
    let s := s.setEng { s.eng with searches := KMap.del s.eng.searches id }
    completeStatus s x.req status

/-- End a coordinator's search once every query has its list and its output pages are ready (R291, R296). -/
def finishSearch (s : State) (id : Nat) : State :=
  match KMap.find s.eng.searches id with
  | none => s
  | some x =>
    let nq := searchNq x.req
    let k := searchK x.req
    if !x.coordinator || decide (x.statuses.length < nq) then s
    else
      let st := (List.range nq).foldl (fun a q => worse a (KMap.getD x.statuses q 0)) 0
      let out := wordAt x.req.payload 3
      let bs := (List.range nq).flatMap (fun q => resultRecord k (KMap.getD x.lists q []) (KMap.getD x.statuses q 0).toNat)
      let drop (s : State) : State := s.setEng { s.eng with searches := KMap.del s.eng.searches id }
      if out = 0 then complete (drop s) x.req s.self st bs false 0
      else match readyOutput s x.req.hdr out bs.length with
        | (s, some _) => s
        | (s, none) =>
          let (s, w) := writeOperand (drop s) x.req.hdr out bs
          completeStatus s x.req (if w.toNat ≥ 0x10 then w else st)

/-- One query's merged list at the coordinator. -/
def mergedList (s : State) (id q : Nat) (l : List TopEntry) : State :=
  match KMap.find s.eng.searches id with
  | none => s
  | some x =>
    let st : BitVec 8 := if l.length < searchK x.req then 1 else 0
    let x := { x with lists := KMap.put x.lists q l, statuses := KMap.put x.statuses q st }
    finishSearch (s.setEng { s.eng with searches := KMap.put s.eng.searches id x }) id

/-! ## Closing (R248) -/

/-- Close a chunk at once with a failing status. -/
def failChunk (s : State) (key : Nat) (status : BitVec 8) : State :=
  match KMap.find s.eng.chunks key with
  | none => s
  | some c =>
    let s := if status = 0x50 then s.updEngine .reduce c.engine (fun e => { e with c2 := satAdd 16 e.c2 1 }) else s
    match c.search with
    | some id => failSearch s id status
    | none =>
      let s := recordChunk s key c status (c.node.inputs.filter (inputFolded c))
      if c.node.outKind = 3 then s else sendOutcome s key c 0 [] status

/-- Close a chunk whose inputs are all folded. -/
def tryClose (s : State) (key : Nat) : State :=
  match KMap.find s.eng.chunks key with
  | none => s
  | some c =>
    if c.node.inputs.all (fun i => match KMap.find c.inputs i with | some x => inputWhole c.node x | none => false) then
      match chunkValue c with
      | none => s
      | some v =>
        let s := meterWork s c.node.comp .reduce [c.engine]
        match v, c.search with
        | .tops l, some id =>
          let best := topMerge c.node.chunkElems l
          mergedList (recordChunk s key c (if best.length < c.node.chunkElems then 1 else 0) c.node.inputs) id c.chunk best
        | .tops l, none =>
          let best := topMerge c.node.chunkElems l
          let st : BitVec 8 := if best.length < c.node.chunkElems then 1 else 0
          sendResult (recordChunk s key c st c.node.inputs) key c (.tops (topPad c.node.chunkElems best)) st
        | v, _ => sendResult (recordChunk s key c 0 c.node.inputs) key c v 0
    else s

/-- Stage a frame of an input. -/
def stageFrame (s : State) (key idx first : Nat) (fromModule : Bool) (bs : List Byte) : State :=
  match KMap.find s.eng.chunks key with
  | none => s
  | some c =>
    let i := KMap.getD c.inputs idx { frames := [], fromModule := fromModule }
    let c := { c with inputs := KMap.put c.inputs idx { i with frames := KMap.put i.frames first bs } }
    tryClose (s.setEng { s.eng with chunks := KMap.put s.eng.chunks key c }) key

/-- Open a chunk under the entry and the mode in force (R245). -/
def openChunk (s : State) (n : NodeEntry) (step : BitVec 24) (chunk : Nat) (epoch : BitVec 16) (strict : Bool) (search : Option Nat) (engine : Nat) : Nat × State :=
  let (key, s) := s.fresh
  let c : Chunk := { node := n, step := step, chunk := chunk, engine := engine, openDay := s.day, strict := strict, epoch := epoch,
                     inputs := [], search := search }
  (key, s.setEng { s.eng with chunks := KMap.put s.eng.chunks key c })

/-! ## Contributions (R244 to R248, R294) -/

/-- A contribution to an open or closed chunk of a transient node (R247, R293, R294). -/
def serveTransient (s : State) (r : Req) : State :=
  let h := r.hdr
  let coll := tagColl h.etag
  let idx := tagIdx h.etag
  let first := bits 15 0 h.addr.toNat
  match KMap.first? s.eng.chunks (fun _ c => c.node.collId == coll && c.chunk == tagChunk h.etag && c.search.isSome) with
  | some (key, c) =>
    let k := r.payload.length / 16
    if r.edge then completeStatus s r 0x10
    else if !c.node.inputs.contains idx then completeStatus s r 0x10
    else if keyRevoked s h then completeStatus s r 0x30
    else if h.comp ≠ c.node.comp then violation s r s.self 4
    else if r.poisoned then failChunk (completeStatus s r 0x40) key 0x40
    else if h.status.toNat ≥ 0x10 then failChunk (completeStatus s r 0) key h.status
    else if h.addr.toNat ≥ 65536 ∨ r.payload.length = 0 ∨ r.payload.length % 16 ≠ 0 ∨ first + k > c.node.chunkElems then completeStatus s r 0x10
    else if (match KMap.find c.inputs idx with | some i => (KMap.find i.frames first).isSome | none => false) then
      completeStatus (s.updEngine .reduce c.engine (fun e => { e with c1 := satAdd 16 e.c1 1 })) r 0
    else stageFrame (completeStatus s r 0) key idx first true r.payload
  | none =>
    match KMap.first? s.eng.records (fun _ x => x.collId == coll && x.chunk == tagChunk h.etag) with
    | some (_, x) =>
      if r.edge then completeStatus s r 0x10
      else if r.poisoned then completeStatus s r 0x40
      else if x.comp ≠ h.comp then violation s r s.self 4
      else if x.folded.contains idx then completeStatus (s.updEngine .reduce x.engine (fun e => { e with c1 := satAdd 16 e.c1 1 })) r 0
      else completeStatus (s.updEngine .reduce x.engine (fun e => { e with c0 := satAdd 16 e.c0 1 })) r x.status
    | none => if r.edge then completeStatus s r 0x10 else completeStatus s r (if r.poisoned then 0x40 else 0x50)

/-- The service of an `RE_CONTRIB` at its node (R244 to R248). -/
def serveContrib (s : State) (old : Option (Nat × Nat)) (r : Req) : State :=
  let h := r.hdr
  let idx := tagIdx h.etag
  let chunk := tagChunk h.etag
  let fromModule := isModule s h.src
  let first := bits 15 0 h.addr.toNat
  let failing := fromModule && decide (h.status.toNat ≥ 0x10)
  if isTransient (tagColl h.etag) then serveTransient s r
  else match nodeFor s (tagColl h.etag) idx fromModule with
    | none => completeStatus s r 0x10
    | some n0 =>
      let found := findChunk s n0 h.stepLo chunk
      let n := match found with | some (_, c) => c.node | none => n0
      let engine := chunkEngine n chunk
      let rec' := findRecord s n h.stepLo chunk
      let elems := frameElems n.op.toNat (inputCode n fromModule) n.row (isArg n.op.toNat && fromModule) r.payload.length
      let fits : Bool := match elems with | some k => decide (first + k ≤ n.chunkElems) | none => false
      let dup (s : State) : State := completeStatus (s.updEngine .reduce engine (fun e => { e with c1 := satAdd 16 e.c1 1 })) r 0
      if (partition s n.comp .reduce).isEmpty then completeStatus s r 0x10
      else if dieAvail s .reduce ((List.range 32).filterMap (fun i => if n.engMask.getLsbD i then some (32 * b2n n.die + i) else none)) (b2n n.die) = .absent then
        completeStatus s r 0x10
      else if chunk ≥ n.chunks ∨ h.addr.toNat ≥ 65536 ∨ (failing = false ∧ fits = false ∧ r.poisoned = false) then completeStatus s r 0x10
      else if found.isNone && rec'.isNone && !funcOn s n.comp 1 then completeStatus s r 0x11
      else if keyRevoked s h then completeStatus s r 0x30
      else if h.comp ≠ n.comp then violation s r s.self 4
      else match found, rec' with
        | none, some x =>
          if r.poisoned then completeStatus s r 0x40
          else if x.folded.contains idx then dup s
          else completeStatus (s.updEngine .reduce x.engine (fun e => { e with c0 := satAdd 16 e.c0 1 })) r x.status
        | found, _ =>
          let accRoom : Bool := match found with
            | some (_, c) =>
              let i := KMap.getD c.inputs idx { frames := [], fromModule := fromModule }
              inputFolded { c with inputs := KMap.put c.inputs idx { i with frames := KMap.put i.frames first r.payload } } idx
            | none => decide (accUsed s engine + accBytes n (s.strict n.comp) ≤ 1048576)
          let full := decide (stagedBytes s engine + r.payload.length > 1048576) && !accRoom
          if (full && h.cls != 0) || shareGone s r .reduce [engine] || (found.isNone && queuedBefore s r .reduce) then engineWait s old .reduce engine r
          else
            let (key, s) := match found with
              | some (k, _) => (k, s)
              | none => openChunk s n h.stepLo chunk h.epoch r.strict none engine
            if r.poisoned then failChunk (completeStatus s r 0x40) key 0x40
            else if failing then failChunk (completeStatus s r 0) key h.status
            else if (match found with
                | some (_, c) => (match KMap.find c.inputs idx with | some i => (KMap.find i.frames first).isSome | none => false)
                | none => false) then dup s
            else stageFrame (completeStatus s r 0) key idx first fromModule r.payload

/-- An arriving `RE_RESULT` (R126 to R128): it leaves by the multicast of its collective here, or goes on to its destination. -/
def serveResult (s : State) (r : Req) : State :=
  match s.alm.cur.nodes.find? (fun n => n.collId == tagColl r.hdr.etag && n.comp == r.hdr.comp) with
  | some n => multicast s (reqFrame r) (reqOrigin r) (KMap.getD s.alm.cur.mcast n.mcast []) none
  | none =>
    if r.hdr.dest = s.self then freeReq s r
    else match nextPort s r.hdr.src r.hdr.dest r.hdr.cls with
      | some p => store s p (reqFrame r) (reqOrigin r) 0 none 0
      | none => waitFrame (freeReq s r) (reqFrame r)

end Sys2Proof.Machine
end

