-- ==== Sys2Proof/Machine/Reduce.lean ====
section
/-! DEFINITION. Reduce commands on data in memory (R260 to R263), and the order in which one source's engine commands run. -/

namespace Sys2Proof.Machine

/-! ## Order of engine commands (R19) -/

/-- Whether an engine command waits for an earlier one of its source on the same engines that still waits itself (R19, R332). -/
def engineBehind (s : State) (r : Req) : Bool :=
  s.home.held.any (fun p => earlierCommand p.2.req r) || s.home.operandWaits.any (fun p => earlierCommand p.2.req r)

/-! ## The descriptor (R260) -/

/-- A Reduce command descriptor. -/
structure ReCmd where
  op : Nat
  inF : Nat
  outF : Nat
  shape : Nat
  stoch : Bool
  fresh : Bool
  excl : Bool
  final : Bool
  ret : Bool
  nOpnd : Nat
  n : Nat
  seg : Nat
  k : Nat
  row : Nat
  outGfa : Nat
  step : Nat
  unit : Nat
  opnds : List Nat
  deriving DecidableEq, Repr

/-- A descriptor read from a payload. -/
def parseReCmd (bs : List Byte) : ReCmd :=
  let w := wordAt bs
  let nOpnd := bits 44 42 (w 0) + 1
  let n := bits 39 0 (w 0)
  { op := bits 63 60 (w 0), inF := bits 59 56 (w 0), outF := bits 55 52 (w 0), shape := bits 51 50 (w 0), stoch := bit 49 (w 0),
    fresh := bit 48 (w 0), excl := bit 47 (w 0), final := bit 46 (w 0), ret := bit 45 (w 0), nOpnd := nOpnd, n := n,
    seg := if bits 63 32 (w 1) = 0 then n else bits 63 32 (w 1), k := bits 31 21 (w 1), row := bits 20 11 (w 1), outGfa := w 2,
    step := w 3, unit := bits 63 32 (w 4), opnds := (List.range nOpnd).map (fun i => w (5 + i)) }

/-- Operator, formats and shape of a command are ones that R236 and R261 list. -/
def ReCmd.valid (d : ReCmd) : Bool :=
  decide (d.n ≥ 1) && inFmtOk d.op d.inF && outFmtOk d.op d.inF d.outF d.final && decide (d.shape ≤ 2)
    && (isScan d.op == decide (d.shape = 2))
    && (decide (d.op ≠ 0xC ∧ d.op ≠ 0xD) || decide (d.shape = 0))
    && (decide (d.shape = 0) || decide (d.nOpnd = 1))
    && (decide (d.op ≠ 0xC) || decide (1 ≤ d.k ∧ d.k ≤ 1024))
    && (decide (d.op ≠ 0xD) || decide (1 ≤ d.row ∧ d.row ≤ 1022))
    && (!isMxCode d.inF || decide (d.n % 32 = 0))

/-- Bytes of one operand. -/
def ReCmd.opndBytes (d : ReCmd) : Nat := if d.op = 0xD then d.n * lseBytesLen d.row else formatBytes d.inF d.n

/-- Results of a command (R261). -/
def ReCmd.outCount (d : ReCmd) : Nat :=
  if d.op = 0xC then d.k else if d.shape = 1 then (d.n + d.seg - 1) / max d.seg 1 else d.n

/-- Bytes of the values written. -/
def ReCmd.outBytes (d : ReCmd) : Nat :=
  if d.op = 0xC then 16 * d.k
  else if d.op = 0xD then d.n * (if d.final then finalBytesLen d.row d.outF else lseBytesLen d.row)
  else formatBytes d.outF d.outCount

/-- Bytes of the indices written: 32 bits for each value of an `ARG` operator. -/
def ReCmd.idxBytes (d : ReCmd) : Nat := if isArg d.op then 4 * d.outCount else 0

/-- Where the indices begin: the next 4 KiB boundary after the last value. -/
def ReCmd.idxGfa (d : ReCmd) : Nat := (d.outGfa + d.outBytes + 4095) / 4096 * 4096

/-- Where the indices begin in a returned result: the first multiple of 4 bytes. -/
def ReCmd.idxOffset (d : ReCmd) : Nat := (d.outBytes + 3) / 4 * 4

/-- Bytes of a returned result. -/
def ReCmd.retBytes (d : ReCmd) : Nat := if isArg d.op then d.idxOffset + d.idxBytes else d.outBytes

/-! ## Computing (R240, R241, R262) -/

/-- How output element `e` is rounded: stochastic with the words of R63, or to nearest. -/
def ReCmd.rounding (d : ReCmd) (seed : Nat) (e : Nat) : Nat → Nat → Bool → Bool :=
  if d.stoch then stochUp (randomWords seed d.step d.unit e).1 else rne

/-- A command's segments. -/
def ReCmd.segments {α : Type} (d : ReCmd) (l : List α) : List (List α) := chunksOf (max d.seg 1) l.length l

/-- Element j of every operand. -/
def columns {α : Type} (n : Nat) (ops : List (List α)) : List (List α) := (List.range n).map (fun j => ops.filterMap (fun o => o[j]?))

/-- The results over FP values. -/
def ReCmd.fpResult (d : ReCmd) (strict : Bool) (engines : Nat) (ops : List (List Fp)) : List Fp :=
  let f := fpComb d.op strict
  if d.shape = 0 then (columns d.n ops).filterMap (fun c => if strict && treeOp d.op then tree f c else foldLeft f c)
  else if d.shape = 1 then (d.segments (ops.headD [])).filterMap (foldSegment f strict (treeOp d.op) engines)
  else (d.segments (ops.headD [])).flatMap (scanSegment f (fpIdent d.op) strict d.excl engines)

/-- The results over integers. -/
def ReCmd.intResult (d : ReCmd) (strict : Bool) (engines : Nat) (ops : List (List Nat)) : List Nat :=
  let f := intComb d.op d.inF
  if d.shape = 0 then (columns d.n ops).filterMap (foldLeft f)
  else if d.shape = 1 then (d.segments (ops.headD [])).filterMap (foldSegment f strict false engines)
  else (d.segments (ops.headD [])).flatMap (scanSegment f (intIdent d.op d.inF) strict d.excl engines)

/-- The extremes with their indices: the operand's, or the element's within the segment (R238). -/
def ReCmd.argResult (d : ReCmd) (strict : Bool) (engines : Nat) (ops : List (List Fp)) : List (Fp × Nat) :=
  let f := argComb d.op
  if d.shape = 0 then (columns d.n (ops.zipIdx.map (fun o => o.1.map (fun v => (v, o.2))))).filterMap (foldLeft f)
  else (d.segments (ops.headD [])).filterMap (fun g => foldSegment f strict false engines (g.zipIdx.map (fun p => (p.1, p.2))))

/-- A command's values, its indices and its status, from its operands' bytes. Results that are no sum (MAX, MIN, ARGMAX, ARGMIN, SCAN_MAX) have no
accumulator of R58: in Strict mode `STOCH` takes their discarded field down to 2^-320, as it does a sum's (R65; DESIGN CHOICE, log 189). -/
def ReCmd.compute (d : ReCmd) (strict : Bool) (engines seed : Nat) (opnds : List (List Byte)) : List Byte × List Byte × BitVec 8 :=
  let up := d.rounding seed
  let held (l : List Fp) : List Fp := if strict then l.map Fp.accumulated else l
  let fps : List (List Fp) := opnds.map (fun b => if strict then decodeElems d.inF false b else (decodeElems d.inF false b).map fastIn)
  if d.op = 0xC then
    let best := topMerge d.k (opnds.flatMap parseTops)
    ((topPad d.k best).flatMap topBytes, [], if best.length < d.k then 1 else 0)
  else if d.op = 0xD then
    let recs := columns d.n (opnds.map (parseLses d.row))
    let res := recs.filterMap (fun c => if strict then tree lseMerge c else foldLeft lseMerge c)
    let bytes (p : Lse × Nat) : List Byte :=
      if d.final then lseFinalBytes d.outF (fun i => up (p.2 * d.row + i)) p.1 else lseBytes p.1
    (res.zipIdx.flatMap bytes, [], 0)
  else if isArg d.op then
    let res := d.argResult strict engines fps
    (fpOut d.outF false up 0 (held (res.map (·.1))), res.flatMap (fun p => leBytes 4 p.2), 0)
  else if isFpCode d.inF then (fpOut d.outF false up 0 (held (d.fpResult strict engines fps)), [], 0)
  else (intOut d.inF (d.intResult strict engines (opnds.map (decodeInts d.inF false))), [], 0)

/-! ## The service of an `RE_CMD` (R86, R261 to R263) -/

/-- The seed of a command: the composition's at its admission, or a fresh draw (R27, R63, R66). -/
def commandSeed (s : State) (r : Req) (fresh : Bool) : Nat × State :=
  if fresh then ((Config.drbg s.kp.drbg).toNat % 2 ^ 128, s.setKp { s.kp with drbg := s.kp.drbg + 1 })
  else ((match r.entry with | some e => e.seed.toNat | none => 0), s)

/-- Whether a Reduce command names what this module can do for it: format, homes and size (R261, R510). -/
def reCmdOk (s : State) (h : Header) (d : ReCmd) (len : Nat) : Bool :=
  decide (len = 128) && d.valid && !d.opnds.any (fun a => rangeElsewhere s h a d.opndBytes)
    && (if d.ret then decide (d.retBytes ≤ 4096)
        else !rangeElsewhere s h d.outGfa d.outBytes && (d.idxBytes == 0 || !rangeElsewhere s h d.idxGfa d.idxBytes))

/-- Run a Reduce command whose operands have been read: results returned or written. -/
def finishReCmd (s : State) (r : Req) (d : ReCmd) (opnds : List (List Byte)) : State :=
  let h := r.hdr
  let (seed, s) := commandSeed s r d.fresh
  let s := meterWork s h.comp .reduce (reqUnits s r .reduce)
  let (vals, idx, st) := d.compute r.strict (reqUnits s r .reduce).length seed opnds
  if d.ret then complete s r s.self st (if isArg d.op then padTo d.idxOffset vals ++ idx else vals) d.fresh 0
  else
    let (s, a) := writeOperand s h d.outGfa vals
    let (s, b) := if idx.isEmpty then (s, 0) else writeOperand s h d.idxGfa idx
    let w := worse a b
    complete s r s.self (if w.toNat ≥ 0x10 then w else st) [] d.fresh 0

/-- The service of an `RE_CMD`. -/
def serveReCmd (s : State) (old : Option (Nat × Nat)) (r : Req) : State :=
  let h := r.hdr
  let d := parseReCmd r.payload
  let fresh := old.isNone
  match engineAvail s r .reduce bothDies with
  | .absent => completeStatus s r 0x10
  | av =>
    if fresh && !funcOn s h.comp 0 then completeStatus s r 0x11
    else if r.poisoned then completeStatus s r (if keyRevoked s h then 0x30 else 0x40)
    else if fresh && !reCmdOk s h d r.payload.length then completeStatus s r 0x10
    else if d.fresh && r.strict then completeStatus s r 0x13
    else if fresh && keyRevoked s h then completeStatus s r 0x30
    else if av = .wait ∨ queuedBefore s r .reduce = true then engineWait s old .reduce ((reqUnits s r .reduce).headD 0) r
    else if engineBehind s r then holdReq s old r .behind 0 0
    else
      let reads := d.opnds.map (fun a => readOperand s h a d.opndBytes)
      let need := reads.flatMap (·.need)
      if !need.isEmpty then waitOperands s r need
      else
        let (s, wait) := if d.ret then (s, none) else match readyOutput s h d.outGfa d.outBytes with
          | (s, none) => if d.idxBytes = 0 then (s, none) else readyOutput s h d.idxGfa d.idxBytes
          | x => x
        match wait with
        | some (why, he, page) => holdReq s old r why he page
        | none =>
          let s := reads.foldl (fun s o => settleRead s h o) s
          let st := reads.foldl (fun a o => worse a o.status) 0
          if st.toNat ≥ 0x10 then completeStatus s r st else finishReCmd s r d (reads.map (·.bytes))

end Sys2Proof.Machine
end

