-- ==== Sys2Proof/Machine/Search.lean ====
section
/-! DEFINITION. Exact vector search: warrens and partitions, inserts and deletes, snapshots, Harvests, filters, scores and
searches (R264 to R297). -/

namespace Sys2Proof.Machine

/-! ## Warrens and partitions (R264 to R270) -/

/-- The key of a warren. -/
def warrenKey (c : BitVec 12) (w : BitVec 24) : Nat := c.toNat * 2 ^ 24 + w.toNat
/-- The key of a partition. -/
def partKey (c : BitVec 12) (w : BitVec 24) (p : Nat) : Nat := warrenKey c w * 2 ^ 16 + p

/-- An id's partition (R266). -/
def partitionOf (id : W64) (total : Nat) : Nat :=
  let h := id.toNat * 0x9E3779B97F4A7C15 % 2 ^ 64 / 2 ^ 32
  h * total / 2 ^ 32

/-- Bytes of a vector (R268). -/
def vecBytes (fmt : BitVec 3) (dim : Nat) : Nat :=
  match fmt.toNat with
  | 0 => 4 * dim
  | 1 => 2 * dim
  | 2 => 2 * dim
  | 6 => dim / 8
  | _ => dim

/-- Bytes of an attribute record (R267). -/
def attrBytes (a : BitVec 2) : Nat := match a.toNat with | 0 => 0 | 1 => 8 | 2 => 16 | _ => 32

/-- Bytes of a side record (R269). -/
def sideBytes (w : WarrenSpec) : Nat := (16 + vecBytes w.fmt w.dim.toNat + attrBytes w.attr + 7) / 8 * 8

/-- Sizes of a partition extent's regions, in the order of R269. -/
def regionSizes (w : WarrenSpec) : List Nat :=
  let c := w.cap.toNat
  let n := c + w.side.toNat
  [65536, 8 * c, vecBytes w.fmt w.dim.toNat * c, attrBytes w.attr * c, (n + 7) / 8, 32 * n, w.side.toNat * sideBytes w]

/-- The byte of the extent at which region `i` begins. -/
def regionStart (w : WarrenSpec) (i : Nat) : Nat := (((regionSizes w).take i).map (fun n => (n + 65535) / 65536 * 65536)).sum

/-- Formats and metrics of R268 and the ranges of R267 and R269. -/
def warrenSpecOk (w : WarrenSpec) : Bool :=
  decide (w.fmt.toNat ≤ 6) && (if w.fmt = 6 then w.metric == 2 else decide (w.metric.toNat ≤ 1))
    && decide (16 ≤ w.dim.toNat ∧ w.dim.toNat ≤ 4096 ∧ w.dim.toNat % 16 = 0)
    && decide (1 ≤ w.pTotal.toNat ∧ w.pTotal.toNat ≤ 16384)
    && decide (1024 ≤ w.side.toNat ∧ w.side.toNat ≤ 1048560 ∧ w.side.toNat % 16 = 0)
    && decide (1 ≤ w.harvestFill.toNat) && decide (regionStart w 7 ≤ 2 ^ 30)

/-- The warren entry of a composition's object id. -/
def findWarren (s : State) (c : BitVec 12) (w : BitVec 24) : Option Warren := KMap.find s.eng.warrens (warrenKey c w)

/-- The home extent of an extent index granted to a composition here (R295). -/
def ownExtent (s : State) (c : BitVec 12) (idx : Nat) : Option Nat :=
  match KMap.find (s.comp c).ext idx with
  | some e => if (e.state == 1 || e.state == 2) && e.home == s.self then some e.homeExt.toNat else none
  | none => none

/-- An empty partition. -/
def Part.empty (ext : Nat) : Part :=
  { ext := ext, gen := 0, body := [], side := [], bitmap := [], pend := [], dir := [], harvesting := false }

/-! ## The partition in its extent (R269): what endpoints read -/

/-- Write bytes of an extent through the home's own services. -/
def svcWrite (s : State) (c : BitVec 12) (he off : Nat) (bs : List Byte) : State :=
  (piecesOf off bs.length).foldl (fun s p =>
    match prepareStore s he (p.1 / 65536) with
    | (s, .ready) => (writePiece (sampleHeat s he (p.1 / 65536) true) c.toNat he (p.1 / 65536) (p.1 % 65536) ((bs.drop (p.1 - off)).take p.2)).1
    | (s, _) => s) s

/-- An attribute record's bytes. -/
def attrOut (l : List (BitVec 32)) : List Byte := l.flatMap (fun a => leBytes 4 a.toNat)

/-- A side record's bytes. -/
def sideRecord (w : WarrenSpec) (e : VecEntry) (day : Nat) : List Byte :=
  padTo (sideBytes w) (beBytes 8 e.id.toNat ++ beBytes 8 (day % 2 ^ 48 * 65536) ++ e.vec ++ attrOut e.attr)

/-- Write side record `j`. -/
def writeSide (s : State) (c : BitVec 12) (w : WarrenSpec) (ext j : Nat) (e : VecEntry) (day : Nat) : State :=
  match ownExtent s c ext with
  | some he => svcWrite s c he (regionStart w 6 + j * sideBytes w) (sideRecord w e day)
  | none => s

/-- Write body slot `i`. -/
def writeBody (s : State) (c : BitVec 12) (w : WarrenSpec) (ext i : Nat) (e : VecEntry) : State :=
  match ownExtent s c ext with
  | some he =>
    let v := vecBytes w.fmt w.dim.toNat
    let s := svcWrite s c he (regionStart w 1 + 8 * i) (beBytes 8 e.id.toNat)
    let s := svcWrite s c he (regionStart w 2 + v * i) e.vec
    svcWrite s c he (regionStart w 3 + attrBytes w.attr * i) (attrOut e.attr)
  | none => s

/-- Write the byte of the bitmap that holds a slot's bit: bit i of the region, counted from byte 0's least significant. -/
def writeBit (s : State) (c : BitVec 12) (w : WarrenSpec) (p : Part) (slot : Nat) : State :=
  match ownExtent s c p.ext with
  | some he =>
    let b := ((List.range 8).map (fun k => if p.bitmap.contains (slot / 8 * 8 + k) then 2 ^ k else 0)).sum
    svcWrite s c he (regionStart w 4 + slot / 8) [.ofNat 8 b]
  | none => s

/-- Write a whole version. -/
def writeVersion (s : State) (c : BitVec 12) (w : WarrenSpec) (p : Part) : State :=
  let s := p.body.zipIdx.foldl (fun s e => writeBody s c w p.ext e.2 e.1) s
  let s := p.side.zipIdx.foldl (fun s e => writeSide s c w p.ext e.2 e.1.1 e.1.2) s
  p.bitmap.foldl (fun s b => writeBit s c w p b) s

/-! ## Updates (R275 to R278) -/

/-- Set a partition. -/
def setPart (s : State) (key : Nat) (p : Part) : State := s.setEng { s.eng with parts := KMap.put s.eng.parts key p }

/-- The entry in a slot: body slots, then from `C` on side slots. -/
def slotEntry (w : WarrenSpec) (p : Part) (slot : Nat) : Option VecEntry :=
  if slot < w.cap.toNat then p.body[slot]? else (p.side[slot - w.cap.toNat]?).map (·.1)

/-- One item at its partition: none where it cannot be applied now (R276 to R278); else the state and 1 for a tombstone. -/
def applyItem (s : State) (c : BitVec 12) (w : WarrenSpec) (key : Nat) (insert : Bool) (e : VecEntry) (stamp : Nat) : Option (State × Nat) :=
  match KMap.find s.eng.parts key with
  | none => none
  | some p =>
    let old := KMap.find p.dir e.id.toNat
    let full := p.pend.length ≥ 16384
    if insert then
      if p.side.length ≥ w.side.toNat ∨ p.body.length + p.side.length ≥ w.cap.toNat ∨ (old.isSome = true ∧ full) then none
      else
        let p := match old with | some slot => { p with pend := KMap.put p.pend slot stamp } | none => p
        let j := p.side.length
        let p := { p with side := p.side ++ [(e, stamp)], dir := KMap.put p.dir e.id.toNat (w.cap.toNat + j) }
        some (writeSide (setPart s key p) c w p.ext j e stamp, 0)
    else
      match old with
      | none => some (s, 0)
      | some slot =>
        if full then none
        else some (setPart s key { p with pend := KMap.put p.pend slot stamp, dir := KMap.del p.dir e.id.toNat }, 1)

/-- Items in payload order until one cannot be applied: the state, the items left, the tombstones counted. -/
def applyItems (s : State) (c : BitVec 12) (w : WarrenSpec) (key stamp count : Nat) (items : List (Bool × VecEntry)) :
    State × List (Bool × VecEntry) × Nat :=
  match items with
  | [] => (s, [], count)
  | i :: rest =>
    match applyItem s c w key i.1 i.2 stamp with
    | none => (s, i :: rest, count)
    | some (s, n) => applyItems s c w key stamp (count + n) rest

/-- A Harvest of a partition that holds new updates: its copy has ended and its flip has not come (R284). -/
def updatesHeld (s : State) (key : Nat) : Bool := s.eng.harvests.any (fun h => h.2.part == key && h.2.next.isSome && h.2.oldExt.isNone)

/-- Apply waiting updates, each (source, partition) in admission order (R278). -/
def drainUpdates (s : State) : State :=
  (s.eng.updates.foldl (fun (acc : State × List (Ep × Nat)) u =>
    let (s, blocked) := acc
    let r := u.2.req
    if blocked.contains (r.hdr.src, u.2.part) then acc
    else if updatesHeld s u.2.part then (s, (r.hdr.src, u.2.part) :: blocked)
    else match findWarren s r.hdr.comp (.ofNat 24 (bits 63 40 r.hdr.etag.toNat)) with
      | none => (completeStatus (s.setEng { s.eng with updates := KMap.del s.eng.updates u.1 }) r 0x10, blocked)
      | some w =>
        match applyItems s r.hdr.comp w.spec u.2.part u.2.stamp u.2.count u.2.items with
        | (s, [], n) =>
          let s := s.setEng { s.eng with updates := KMap.del s.eng.updates u.1 }
          (complete s r s.self 0 (if bits 63 62 (wordAt r.payload 0) = 2 then beBytes 8 n else []) false 0, blocked)
        | (s, left, n) =>
          (s.setEng { s.eng with updates := KMap.put s.eng.updates u.1 { u.2 with items := left, count := n } }, (r.hdr.src, u.2.part) :: blocked))
    (s, [])).1

/-- The items of an update's payload (R289). -/
def parseItems (w : WarrenSpec) (insert : Bool) (n : Nat) (bs : List Byte) : List (Bool × VecEntry) :=
  let v := vecBytes w.fmt w.dim.toNat
  let a := attrBytes w.attr
  let size := if insert then (8 + v + a + 7) / 8 * 8 else 8
  (List.range n).map (fun i =>
    let b := (bs.drop (i * size)).take size
    (insert, { id := .ofNat 64 (wordAt b 0), vec := if insert then padTo v ((b.drop 8).take v) else [],
               attr := if insert then (List.range (a / 4)).map (fun k => .ofNat 32 (leNat ((b.drop (8 + v + 4 * k)).take 4))) else [] }))

/-- Bytes that an update's items take. -/
def itemsBytes (w : WarrenSpec) (insert : Bool) (n : Nat) : Nat :=
  if insert then n * ((8 + vecBytes w.fmt w.dim.toNat + attrBytes w.attr + 7) / 8 * 8) else 8 * n

/-- Fields of an update's descriptor that it does not ignore: its deadline's range, and no merge fields from an edge port (R289, R295, log 191). -/
def updateOk (r : Req) : Bool :=
  decide (1 ≤ bits 31 16 (wordAt r.payload 0) ∧ bits 31 16 (wordAt r.payload 0) ≤ 4096) && !(r.edge && decide (bits 63 16 (wordAt r.payload 4) ≠ 0))

/-- The service of an insert or delete at its partition's home (R275 to R278). -/
def serveUpdate (s : State) (r : Req) : State :=
  let h := r.hdr
  let kind := bits 63 62 (wordAt r.payload 0)
  let n := bits 61 56 (wordAt r.payload 0) + 1
  match findWarren s h.comp (.ofNat 24 (bits 63 40 h.etag.toNat)) with
  | none => completeStatus s r 0x10
  | some w =>
    let items := parseItems w.spec (kind == 1) n (r.payload.drop 64)
    let p := match items with | i :: _ => partitionOf i.2.id w.spec.pTotal.toNat | [] => 0
    let key := partKey h.comp w.spec.warren p
    let good := items.all (fun i => i.2.id != 0xFFFFFFFFFFFFFFFF && partitionOf i.2.id w.spec.pTotal.toNat == p)
    if !updateOk r || !good || decide (r.payload.length < 64 + itemsBytes w.spec (kind == 1) n) || (KMap.find s.eng.parts key).isNone then completeStatus s r 0x10
    else if keyRevoked s h then completeStatus s r 0x30
    else
      let (id, s) := s.fresh
      let u : HeldUpdate := { req := r, part := key, items := items, stamp := r.day + 1, count := 0, day := r.day }
      drainUpdates (s.setEng { s.eng with updates := KMap.put s.eng.updates id u })

/-! ## Snapshots (R280 to R282) -/

/-- Whether a slot's entry is live at a snapshot Day (R280). -/
def liveAt (p : Part) (q slot : Nat) (insDay : Option Nat) : Bool :=
  (match insDay with | some d => decide (d ≤ q) | none => true) && !p.bitmap.contains slot
    && (match KMap.find p.pend slot with | some d => decide (d > q) | none => true)

/-- The settle line of a partition (R282), searches that have not ended counted as scanning. -/
def settleLine (s : State) (key : Nat) : Nat :=
  (s.eng.searches.filter (fun x => !x.2.done && warrenKey x.2.req.hdr.comp (.ofNat 24 (bits 63 40 x.2.req.hdr.etag.toNat)) == key / 2 ^ 16)).foldl
    (fun m x => min m x.2.snap) (s.day - 1024)

/-- Settle the pending tombstones of every partition (R282). -/
def settleTombstones (s : State) : State :=
  s.eng.parts.foldl (fun s kv =>
    match KMap.find s.eng.parts kv.1, findWarren s (.ofNat 12 (kv.1 / 2 ^ 40)) (.ofNat 24 (kv.1 / 2 ^ 16)) with
    | some p, some w =>
      let line := settleLine s kv.1
      let due := (p.pend.filter (fun x => decide (x.2 ≤ line ∧ s.day ≥ 1024))).map (·.1)
      let p := { p with bitmap := p.bitmap ++ due.filter (fun x => !p.bitmap.contains x), pend := KMap.keep p.pend (fun k _ => !due.contains k) }
      due.foldl (fun s b => writeBit s w.spec.comp w.spec p b) (setPart s kv.1 p)
    | _, _ => s) s

/-! ## Harvests (R283 to R285) -/

/-- The die of an extent: that of its first page in T1 (log 26). -/
def extentDie (s : State) (c : BitVec 12) (ext : Nat) : Nat :=
  match ownExtent s c ext with
  | some he => (match (s.pte he 0).loc with | .t1 k _ => k / 8 | .t0 n _ => dieOfSlice s.variant n | _ => 0)
  | none => 0

/-- The spare of a warren on a die. -/
def spareKey (wk die : Nat) : Nat := wk * 2 + die

/-- Whether a Harvest of a partition is due (R283). -/
def harvestDue (s : State) (key : Nat) : Bool :=
  match KMap.find s.eng.parts key, KMap.find s.eng.warrens (key / 2 ^ 16) with
  | some p, some w =>
    !p.harvesting && (decide (8 * p.side.length ≥ w.spec.side.toNat * w.spec.harvestFill.toNat) || decide (p.pend.length ≥ 8192)
      || s.eng.updates.any (fun u => u.2.part == key) || (KMap.find s.eng.ordered key).isSome)
  | _, _ => false

/-- A Harvest that copies or waits for its flip on a die. -/
def harvestOn (s : State) (die : Nat) : Option (Nat × HarvestSt) :=
  KMap.first? s.eng.harvests (fun _ h => h.die == die && h.oldExt.isNone)

/-- Start a Harvest of a partition, when it is due, its die runs none, its spare is free and no lower partition of the die
waits (R283, R284 step 1). -/
def startHarvest (s : State) (key : Nat) : State :=
  match KMap.find s.eng.parts key, KMap.find s.eng.warrens (key / 2 ^ 16) with
  | some p, some w =>
    let die := extentDie s w.spec.comp p.ext
    let before := s.eng.parts.any (fun q => decide (q.1 % 2 ^ 16 < key % 2 ^ 16) && harvestDue s q.1
      && extentDie s (.ofNat 12 (q.1 / 2 ^ 40)) q.2.ext == die)
    if !harvestDue s key || (harvestOn s die).isSome || before || (KMap.find s.eng.spares (spareKey (key / 2 ^ 16) die)).isNone then s
    else
      let (id, s) := s.fresh
      let x : HarvestSt := { part := key, die := die, lineDay := settleLine s key, start := p, next := none, oldExt := none }
      setPart (s.setEng { s.eng with harvests := KMap.put s.eng.harvests id x }) key { p with harvesting := true }
  | _, _ => s

/-- The version that a Harvest makes of a partition: what its copy took at the start, with the updates logged since (R284
steps 2 to 4). -/
def harvested (cap line spare : Nat) (start cur : Part) : Part :=
  let body := cur.body.zipIdx.filter (fun e => !start.bitmap.contains e.2)
  let sides := cur.side.zipIdx.map (fun e => (e.1.1, e.1.2, cap + e.2))
  let moved := sides.filter (fun e => decide (e.2.1 ≤ line) && !start.bitmap.contains e.2.2)
  let kept := sides.filter (fun e => decide (e.2.1 > line))
  let newBody := body.map (·.1) ++ moved.map (·.1)
  let slots : List (Nat × Nat) := (body.map (·.2) ++ moved.map (·.2.2)).zipIdx ++ (kept.map (·.2.2)).zipIdx.map (fun e => (e.1, cap + e.2))
  let place (slot : Nat) : Option Nat := (slots.find? (fun e => e.1 == slot)).map (·.2)
  { ext := spare, gen := cur.gen + 1, body := newBody, side := kept.map (fun e => (e.1, e.2.1)),
    bitmap := cur.bitmap.filterMap place,
    pend := cur.pend.foldl (fun m e => match place e.1 with | some k => KMap.put m k e.2 | none => m) [],
    dir := cur.dir.foldl (fun m e => match place e.2 with | some k => KMap.put m e.1 k | none => m) [],
    harvesting := false }

/-- A Harvest's copy ends (R284 step 4). -/
def harvestCopied (s : State) (die : Nat) : State :=
  match harvestOn s die with
  | none => s
  | some (id, h) =>
    match KMap.find s.eng.parts h.part, KMap.find s.eng.warrens (h.part / 2 ^ 16) with
    | some p, some w =>
      let spare := KMap.getD s.eng.spares (spareKey (h.part / 2 ^ 16) die) 0
      let n := harvested w.spec.cap.toNat h.lineDay spare h.start p
      let s := s.setEng { s.eng with harvests := KMap.put s.eng.harvests id { h with next := some n } }
      writeVersion s w.spec.comp w.spec n
    | _, _ => s

/-- The flips of a Day boundary (R284 step 5): the spare becomes the version, with what settled since, and held updates go on. -/
def harvestFlips (s : State) : State :=
  drainUpdates (s.eng.harvests.foldl (fun s h =>
    match h.2.next, h.2.oldExt, KMap.find s.eng.parts h.2.part, KMap.find s.eng.warrens (h.2.part / 2 ^ 16) with
    | some n, none, some p, some w =>
      let fresh := harvested w.spec.cap.toNat h.2.lineDay n.ext h.2.start p
      let s := (fresh.bitmap.filter (fun b => !n.bitmap.contains b)).foldl (fun s b => writeBit s w.spec.comp w.spec fresh b) (setPart s h.2.part fresh)
      let x : HarvestSt := { h.2 with oldExt := some (p.ext, p.gen) }
      let s := s.setEng { s.eng with harvests := KMap.put s.eng.harvests h.1 x,
                                     spares := KMap.del s.eng.spares (spareKey (h.2.part / 2 ^ 16) h.2.die) }
      let s := (KMap.getD s.eng.ordered h.2.part []).foldl (fun s m => answer s m 0 0 []) s
      s.setEng { s.eng with ordered := KMap.del s.eng.ordered h.2.part }
    | _, _, _, _ => s) s)

/-- The last query on an old version has ended: its extent is the die's spare (R284 step 6). -/
def harvestRelease (s : State) (die : Nat) : State :=
  s.eng.harvests.foldl (fun s h =>
    match h.2.oldExt with
    | some (ext, gen) =>
      let inUse := s.eng.searches.any (fun x => x.2.views.any (fun v => v.2.ext == ext && v.2.gen == gen))
      if h.2.die = die ∧ inUse = false then
        s.setEng { s.eng with harvests := KMap.del s.eng.harvests h.1,
                              spares := KMap.put s.eng.spares (spareKey (h.2.part / 2 ^ 16) die) ext }
      else s
    | none => s) s

/-- A fault during a Harvest: it starts again from step 1 (R285). -/
def harvestAgain (s : State) (die : Nat) : State :=
  match harvestOn s die with
  | none => s
  | some (id, h) =>
    match KMap.find s.eng.parts h.part with
    | none => s
    | some p =>
      let x : HarvestSt := { h with lineDay := settleLine s h.part, start := p, next := none }
      s.setEng { s.eng with harvests := KMap.put s.eng.harvests id x }

/-! ## Filters (R286, R287) -/

/-- One predicate on an entry's fields. -/
def predHolds (w0 w1 : Nat) (attr : List (BitVec 32)) : Bool :=
  let op := bits 60 58 w0
  let ty := bits 57 56 w0
  let f := (attr.getD (bits 63 61 w0) 0).toNat
  let a := bits 63 32 w1
  let b := bits 31 0 w1
  let cmp (lt le eq : Nat → Nat → Bool) : Bool :=
    match op with
    | 0 => eq f a
    | 1 => !eq f a
    | 2 => lt f a
    | 3 => le f a
    | 4 => le a f && le f b
    | 5 => (f &&& a) != 0
    | _ => (f &&& a) == a
  let r : Bool :=
    if ty = 2 then
      let nan (v : Nat) : Bool := f32 v == .nan
      if nan f || nan a || (op == 4 && nan b) then false
      else cmp (fun x y => Fp.lt false (f32 x) (f32 y)) (fun x y => !Fp.lt false (f32 y) (f32 x))
        (fun x y => !Fp.lt false (f32 x) (f32 y) && !Fp.lt false (f32 y) (f32 x))
    else if ty = 1 then cmp (fun x y => decide (asInt 32 x < asInt 32 y)) (fun x y => decide (asInt 32 x ≤ asInt 32 y)) (· == ·)
    else cmp (fun x y => decide (x < y)) (fun x y => decide (x ≤ y)) (· == ·)
  r != bit 55 w0

/-- A predicate that a warren can evaluate (R286, R287). -/
def predOk (fields w0 : Nat) : Bool :=
  decide (bits 63 61 w0 < fields) && decide (bits 60 58 w0 ≠ 7) && decide (bits 57 56 w0 ≠ 3)
    && !(decide (bits 57 56 w0 = 2) && decide (bits 60 58 w0 = 5 ∨ bits 60 58 w0 = 6))

/-! ## Scores (R271, R272) -/

/-- The rank key of a vector for a query. -/
def scoreKey (fmt metric : Nat) (strict : Bool) (q x : List Byte) : BitVec 32 :=
  if fmt = 6 then
    let n := (List.zipWith (fun a b => ((List.range 8).filter (fun i => (a ^^^ b : Byte).getLsbD i)).length) q x).sum
    .ofNat 32 (toF32 (.fin false n 0))
  else if fmt = 5 then
    let i (b : Byte) : Int := asInt 8 b.toNat
    let terms := List.zipWith (fun a b => if metric = 1 then i a * i b else (i a - i b) * (i a - i b)) q x
    let v := f32 (toF32 (Fp.ofInt terms.sum 0))
    .ofNat 32 (toF32 (if metric = 1 then v.neg else v))
  else
    let r (v : Fp) : Fp := if strict then v else rnd32 v
    let term (a b : Fp) : Fp := if metric = 1 then r (a.mul b) else let d := r (a.sub b); r (d.mul d)
    let terms := List.zipWith term (decodeElems fmt false q) (decodeElems fmt false x)
    let acc := rnd32 ((foldLeft (fun a b => r (a.add b)) terms).getD Fp.zero)
    .ofNat 32 (toF32 (if metric = 1 then acc.neg else acc))

/-! ## Searches (R279, R281, R289 to R296) -/

/-- Replace bits `hi` down to `lo` of a word. -/
def putBits (hi lo v w : Nat) : Nat := w - bits hi lo w * 2 ^ lo + v % 2 ^ (hi + 1 - lo) * 2 ^ lo

/-- The predicates of a search as word pairs. -/
def searchPreds (bs : List Byte) : List (Nat × Nat) :=
  (List.range (bits 44 41 (wordAt bs 0))).map (fun i => (wordAt bs (8 + 2 * i), wordAt bs (9 + 2 * i)))

/-- Where the inline items of a search begin. -/
def itemsAt (bs : List Byte) : Nat := 64 + 16 * bits 44 41 (wordAt bs 0)

/-- A search's payload with its snapshot Day and inline queries written in. -/
def fixSearch (bs : List Byte) (snap : Nat) (queries : List Byte) : List Byte :=
  let w := wordAt bs
  wordsBytes [putBits 35 35 1 (w 0), putBits 63 16 snap (w 1), 0, w 3, w 4, w 5, w 6, w 7] ++ (bs.drop 64).take (itemsAt bs - 64) ++ queries

/-- A sub-request's payload (R292). -/
def subSearch (bs : List Byte) (mergeId : Nat) (ep : Ep) (inIdx : Nat) : List Byte :=
  let w := wordAt bs
  wordsBytes [w 0, w 1, 0, 0, mergeId * 2 ^ 40 + ep.toNat * 2 ^ 24 + inIdx * 2 ^ 16, w 5, w 6, w 7] ++ bs.drop 64

/-- Transient nodes open at this module (R292, R314). -/
def openTransients (s : State) : List Nat :=
  (s.eng.searches.filterMap (fun x => if x.2.coordinator && x.2.mergeId != 0 then some x.2.mergeId else none))
    ++ s.eng.attns.map (fun a => a.2.mergeId)

/-- A transient merge id that no open node and no kept record uses. -/
def freeTransient (s : State) : Nat :=
  let used := openTransients s ++ (s.eng.records.map (fun r => r.2.collId.toNat))
  firstFree (used.length + 1) 0xFF0000 used

/-- The transient `TOPK` node of a search (R292). -/
def transientNode (c : BitVec 12) (mergeId modules k deadline : Nat) : NodeEntry :=
  { collId := .ofNat 24 mergeId, op := 0xC, inFmt := 0xE, outFmt := 0xE, comp := c, nContrib := modules, lo := 0, hi := modules - 1,
    chunkElems := k, chunks := 64, outKind := 7, mcast := 0, outEp := 0, deadline := deadline, die := false, engMask := 0, row := 0,
    outGfa := 0, inputs := List.range modules }

/-- The Reduce engine that merges for a coordinator: the lowest of its composition's on the die of the requester's port
(R11, R293). -/
def mergeEngine (s : State) (r : Req) : Nat :=
  let p := reqUnits s r .reduce
  match p.find? (fun n => n / 32 == dieOfPort r.port) with | some n => n | none => p.headD 0

/-- What the warren and the descriptor require of a search (R279, R286, R289, R290, R295). -/
def searchOk (s : State) (r : Req) (w : Warren) : Bool :=
  let d := wordAt r.payload
  let fields := attrBytes w.spec.attr / 4
  let nq := searchNq r
  let k := searchK r
  let aux := bits 39 36 (d 0)
  let snap := if bits 63 16 (d 1) = 0 then r.day else bits 63 16 (d 1)
  let v := nq * vecBytes w.spec.fmt w.spec.dim.toNat
  let inl := bit 35 (d 0)
  let sub := bits 63 40 (d 4) != 0
  decide (bits 63 62 (d 0) = 0) && decide (1 ≤ k ∧ k ≤ 1024) && decide (bits 44 41 (d 0) ≤ 8) && decide (aux = 15 ∨ aux < fields)
    && decide (1 ≤ bits 31 16 (d 0) ∧ bits 31 16 (d 0) ≤ 4096) && decide (snap + 1024 ≥ r.day ∧ snap ≤ r.day)
    && (searchPreds r.payload).all (fun p => predOk fields p.1) && !(r.edge && decide (bits 63 16 (d 4) ≠ 0))
    && decide (r.payload.length ≥ itemsAt r.payload + (if inl then v else 0))
    && (inl || (!sub && !rangeElsewhere s r.hdr (d 2) v))
    && (sub || d 3 != 0 || decide (nq * (16 + 16 * k) ≤ 4096)) && (sub || d 3 == 0 || !rangeElsewhere s r.hdr (d 3) (nq * (16 + 16 * k)))
    && (sub || decide (w.spec.runs.length ≤ 1) || decide (itemsAt r.payload + v ≤ 4096))

/-- A frame that a module sends for an admitted request carries its composition, key, epoch and admission time (R363). -/
def derivedHeader (s : State) (h : Header) (op : Nat) (dest : Ep) (len : Nat) : Header :=
  { ownHeader s op dest len with comp := h.comp, epoch := h.epoch, tenant := h.tenant, keySlot := h.keySlot, keyGen := h.keyGen,
                                 etag := h.etag, stepLo := h.stepLo, tstamp := heirStamp s h.tstamp }

/-- A scan that must wait counts in `HELD` of the composition's first Score engine (R281, R316). -/
def countHeld (s : State) (r : Req) (waits : Bool) : State :=
  if waits then s.updEngine .score ((reqUnits s r .score).headD 0) (fun e => { e with c2 := satAdd 16 e.c2 1 }) else s

/-- Open a search whose queries are at hand: at a coordinator of several modules, the node and the sub-requests (R292). -/
def openSearch (s : State) (r : Req) (w : Warren) (queries : List Byte) : State :=
  let d := wordAt r.payload
  let snap := if bits 63 16 (d 1) = 0 then r.day else bits 63 16 (d 1)
  let sub := bits 63 40 (d 4) != 0
  let r' : Req := { r with payload := fixSearch r.payload snap queries }
  let n := w.spec.runs.length
  let wk := warrenKey w.spec.comp w.spec.warren
  let s := countHeld s r (s.eng.updates.any (fun u => u.2.part / 2 ^ 16 == wk && decide (u.2.stamp ≤ snap)))
  let (id, s) := s.fresh
  let x : Search :=
    { req := r', coordinator := !sub, mergeId := bits 63 40 (d 4), mergeEp := .ofNat 16 (bits 39 24 (d 4)),
      inIdx := if sub then bits 23 16 (d 4) else w.inIdx, snap := snap, started := false, done := false, views := [], lists := [],
      statuses := [], deadline := if sub then 0 else r.day + bits 31 16 (d 0) }
  if sub || decide (n ≤ 1) then s.setEng { s.eng with searches := KMap.put s.eng.searches id x }
  else
    let mid := freeTransient s
    let x := { x with mergeId := mid }
    let s := s.setEng { s.eng with searches := KMap.put s.eng.searches id x }
    let node := transientNode r.hdr.comp mid n (searchK r) (x.deadline - s.day)
    let s := (List.range (searchNq r)).foldl (fun s q => (openChunk s node 0 q r.hdr.epoch r.strict (some id) (mergeEngine s r)).2) s
    w.spec.runs.zipIdx.foldl (fun s run =>
      if run.2 = w.inIdx then s
      else
        let bs := subSearch r'.payload mid s.self run.2
        sendOwn s (derivedHeader s r.hdr 0x48 run.1.module bs.length) bs (.search id run.2)) s

/-- The dies that hold partitions of a warren here (R11). -/
def warrenDies (s : State) (c : BitVec 12) (warren : BitVec 24) : List Nat :=
  extsDies s c (fun x => s.eng.parts.any (fun p => p.1 / 2 ^ 16 == warrenKey c warren && p.2.ext == x))

/-- The service of an `SE_SEARCH` at a coordinator or a module of the list (R289 to R295): the Score engines scan, and a Reduce engine
merges (R293, R507). -/
def serveSearch (s : State) (old : Option (Nat × Nat)) (r : Req) : State :=
  let h := r.hdr
  let d := wordAt r.payload
  let fresh := old.isNone
  match engineAvail s r .score (warrenDies s h.comp (.ofNat 24 (bits 63 40 h.etag.toNat))) with
  | .absent => completeStatus s r 0x10
  | av =>
    if fresh && !funcOn s h.comp 2 then completeStatus s r 0x11
    else if r.poisoned then completeStatus s r (if keyRevoked s h then 0x30 else 0x40)
    else if r.payload.length < 64 ∨ bits 63 62 (d 0) = 3 then completeStatus s r 0x10
    else if bits 63 62 (d 0) ≠ 0 then serveUpdate s r
    else match findWarren s h.comp (.ofNat 24 (bits 63 40 h.etag.toNat)) with
      | none => completeStatus s r 0x10
      | some w =>
        if (reqUnits s r .reduce).isEmpty || (fresh && !searchOk s r w) then completeStatus s r 0x10
        else if fresh && keyRevoked s h then completeStatus s r 0x30
        else if av = .wait ∨ queuedBefore s r .score = true then engineWait s old .score ((reqUnits s r .score).headD 0) r
        else if bits 63 40 (d 4) = 0 ∧ w.spec.runs.length > 1 ∧ (openTransients s).length ≥ 256 then engineWait s old .reduce (mergeEngine s r) r
        else
          let v := searchNq r * vecBytes w.spec.fmt w.spec.dim.toNat
          if bit 35 (d 0) then openSearch s r w ((r.payload.drop (itemsAt r.payload)).take v)
          else
            let o := readOperand s h (d 2) v
            if !o.need.isEmpty then waitOperands s r o.need
            else
              let s := settleRead s h o
              if o.status.toNat ≥ 0x10 then completeStatus s r o.status else openSearch s r w o.bytes

/-- A scan starts once every update stamped at or before its snapshot is applied; it takes its view of each partition
(R281, R295). -/
def startScan (s : State) (id : Nat) : State :=
  match KMap.find s.eng.searches id with
  | none => s
  | some x =>
    match findWarren s x.req.hdr.comp (.ofNat 24 (bits 63 40 x.req.hdr.etag.toNat)) with
    | none => s.setEng { s.eng with searches := KMap.put s.eng.searches id { x with started := true } }
    | some w =>
      let wk := warrenKey w.spec.comp w.spec.warren
      if x.started || s.eng.updates.any (fun u => u.2.part / 2 ^ 16 == wk && decide (u.2.stamp ≤ x.snap)) then s
      else
        let (s, views) := (List.range w.pLocal).foldl (fun (acc : State × KMap Part) i =>
          let p := w.pFirst + i
          match KMap.find acc.1.eng.parts (wk * 2 ^ 16 + p) with
          | some v =>
            if (ownExtent acc.1 w.spec.comp v.ext).isSome then (acc.1, KMap.put acc.2 p v)
            else (countViol acc.1 x.req.hdr.comp x.req.hdr.src 4 1, acc.2)
          | none => acc) (s, [])
        s.setEng { s.eng with searches := KMap.put s.eng.searches id { x with started := true, views := views } }

/-- The live entries of a view at the snapshot, with the place of each. -/
def liveEntries (w : WarrenSpec) (p : Part) (q : Nat) : List (VecEntry × Nat) :=
  (p.body.zipIdx.filter (fun e => liveAt p q e.2 none)).map (fun e => (e.1, e.2))
    ++ (p.side.zipIdx.filter (fun e => liveAt p q (w.cap.toNat + e.2) (some e.1.2))).map (fun e => (e.1.1, w.cap.toNat + e.2))

/-- The parts of an extent that a scan reads for one slot (R288): its bitmap line; a body slot's attributes where predicates or `AUX` need
them, its vector where the entry passes and its id where a list takes it; of a side slot its id and Day, and then the rest likewise. -/
def entryParts (w : WarrenSpec) (slot : Nat) (attrs pass listed : Bool) : List (Nat × Nat) :=
  let v := vecBytes w.fmt w.dim.toNat
  let a := attrBytes w.attr
  let take (b : Bool) (x : Nat × Nat) : List (Nat × Nat) := if b && x.2 != 0 then [x] else []
  (regionStart w 4 + slot / 8, 1) ::
    (if slot < w.cap.toNat then
      take attrs (regionStart w 3 + a * slot, a) ++ take pass (regionStart w 2 + v * slot, v) ++ take listed (regionStart w 1 + 8 * slot, 8)
    else
      let o := regionStart w 6 + (slot - w.cap.toNat) * sideBytes w
      (o, 16) :: (take attrs (o + 16 + v, a) ++ take pass (o + 16, v)))

/-- The lines of 128 bytes that a part touches. -/
def wholeLines (x : Nat × Nat) : Nat × Nat := (x.1 / 128 * 128, (x.1 + x.2 + 127) / 128 * 128 - x.1 / 128 * 128)

/-- The status of reading parts of a partition's extent (R295). -/
def partsStatus (s : State) (c : BitVec 12) (he : Nat) (l : List (Nat × Nat)) : BitVec 8 :=
  l.foldl (fun st p => (piecesOf (wholeLines p).1 (wholeLines p).2).foldl (fun st x =>
    match readPiece s [] c.toNat he (x.1 / 65536) (x.1 % 65536) x.2 with
    | .fail e => worse st e
    | _ => st) st) 0

/-- The status of a view's lines, and the pages that its scan translates: the bitmap of every slot, every side record's id and Day, and of
live entries what R288 has the engines read. An id of the body is read for an entry that a list takes; of one that held a place for a
while and lost it the order of reading would decide, and it is not counted (log 186). -/
def viewReads (s : State) (w : WarrenSpec) (p : Part) (snap : Nat) (attrs : Bool) (pass : VecEntry → Bool) (listed : W64 → Bool) :
    BitVec 8 × List (Nat × Nat) :=
  match ownExtent s w.comp p.ext with
  | none => (0, [])
  | some he =>
    let slots := List.range p.body.length ++ (List.range p.side.length).map (· + w.cap.toNat)
    let live := liveEntries w p snap
    let l := (slots.flatMap (fun n => match live.find? (fun e => e.2 == n) with
      | some (e, _) => entryParts w n attrs (pass e) (pass e && listed e.id)
      | none => entryParts w n false false false)).eraseDups
    (partsStatus s w.comp he l, (l.map (fun x => (he, x.1 / 65536))).eraseDups)

/-- The die that holds an entry of a view: that of the page of its vector or side record (R11). -/
def entryDie (s : State) (w : WarrenSpec) (p : Part) (slot : Nat) : Nat :=
  match ownExtent s w.comp p.ext with
  | none => 0
  | some he =>
    let off := if slot < w.cap.toNat then regionStart w 2 + vecBytes w.fmt w.dim.toNat * slot else regionStart w 6 + (slot - w.cap.toNat) * sideBytes w
    (locDie s (s.pte he (off / 65536)).loc).getD 0

/-- The lists of a scan, one per query, with the worst status of its lines and the pages it translated (R253, R271 to R274, R287). The
engines of each die keep the lists of its entries, which merge into one (R11, R293). -/
def scanLists (s : State) (x : Search) (w : WarrenSpec) : List (List TopEntry) × BitVec 8 × List (Nat × Nat) :=
  let bs := x.req.payload
  let v := vecBytes w.fmt w.dim.toNat
  let preds := searchPreds bs
  let anyOf := bit 40 (wordAt bs 0)
  let aux := bits 39 36 (wordAt bs 0)
  let pass (e : VecEntry) : Bool :=
    preds.isEmpty || (if anyOf then preds.any (fun p => predHolds p.1 p.2 e.attr) else preds.all (fun p => predHolds p.1 p.2 e.attr))
  let hits (die : Nat) : List VecEntry := x.views.flatMap (fun p =>
    ((liveEntries w p.2 x.snap).filter (fun e => pass e.1 && entryDie s w p.2 e.2 == die)).map (·.1))
  let strict := x.req.strict
  let k := searchK x.req
  let one (q : Nat) : List TopEntry :=
    let query := (bs.drop (itemsAt bs + q * v)).take v
    topMerge k ([0, 1].flatMap (fun die => topMerge k ((hits die).map (fun e =>
      { key := scoreKey w.fmt.toNat w.metric.toNat strict query e.vec, aux := if aux = 15 then 0 else e.attr.getD aux 0, id := e.id }))))
  let lists := (List.range (searchNq x.req)).map one
  let reads := x.views.map (fun p => viewReads s w p.2 x.snap (!preds.isEmpty || decide (aux ≠ 15)) pass (fun i => lists.any (fun l => l.any (fun e => e.id == i))))
  (lists, reads.foldl (fun a r => worse a r.1) 0, reads.flatMap (·.2))

/-- A module's scan ends: its lists go to the coordinator, or are merged here (R293). -/
def endScan (s : State) (id : Nat) : State :=
  match KMap.find s.eng.searches id with
  | none => s
  | some x =>
    if !x.started || x.done then s
    else match findWarren s x.req.hdr.comp (.ofNat 24 (bits 63 40 x.req.hdr.etag.toNat)) with
      | none => failSearch s id 0x10
      | some w =>
        let (lists, st, pages) := scanLists s x w.spec
        let k := searchK x.req
        let s := meterWork s x.req.hdr.comp .score (workUnits s x.req .score (warrenDies s x.req.hdr.comp w.spec.warren))
        let s := heatPages (meterWork s x.req.hdr.comp .reduce [mergeEngine s x.req]) pages false
        let s := if st.toNat ≥ 0x10 then s.updEngine .score ((reqUnits s x.req .score).headD 0) (fun e => { e with c1 := satAdd 16 e.c1 1 }) else s
        let s := s.setEng { s.eng with searches := KMap.put s.eng.searches id { x with done := true, views := [] } }
        if st.toNat ≥ 0x10 then failSearch s id st
        else if !x.coordinator then
          let s := lists.zipIdx.foldl (fun s l =>
            (chunksOf 256 (k + 1) (topPad k l.1)).zipIdx.foldl (fun s f =>
              let bs := f.1.flatMap topBytes
              let h := derivedHeader s x.req.hdr 0x40 x.mergeEp bs.length
              let tag := x.mergeId * 2 ^ 40 + l.2 * 2 ^ 16 + x.inIdx
              sendOwn s { h with addr := .ofNat 64 (f.2 * 256), etag := .ofNat 64 tag, stepLo := 0 } bs .other) s) s
          let s := s.setEng { s.eng with searches := KMap.del s.eng.searches id }
          completeStatus s x.req (if lists.any (fun l => decide (l.length < k)) then 1 else 0)
        else if w.spec.runs.length ≤ 1 then lists.zipIdx.foldl (fun s l => mergedList s id l.2 l.1) s
        else lists.zipIdx.foldl (fun s l =>
          match KMap.first? s.eng.chunks (fun _ c => c.search == some id && c.chunk == l.2) with
          | some (key, _) => stageFrame s key x.inIdx 0 true ((topPad k l.1).flatMap topBytes)
          | none => s) s

end Sys2Proof.Machine
end

