-- ==== Sys2Proof/Machine/Kv.lean ====
section
/-! DEFINITION. The KV page service and decode attention: sequence records and page maps, appends, forks, truncation and
release, attention requests, leaves and merges (R299 to R322). -/

namespace Sys2Proof.Machine

/-! ## Sequences and the pool (R299 to R303) -/

/-- The sequence id that stands for a record outside rights, which is scanned as empty (R322). -/
def noSeq : Nat := 0xFFFFFFFF

/-- The key of a sequence. -/
def seqKey (c : BitVec 12) (id : Nat) : Nat := c.toNat * 2 ^ 32 + id

/-- The KV pool of a composition here, by ordinal. -/
def kvPool (s : State) (c : BitVec 12) : List Nat := match s.compEntry c with | some e => e.kvPool | none => []

/-- The home extent of a sequence's record, when its extent is a pool extent homed here (R300). -/
def seqHome (s : State) (c : BitVec 12) (id : Nat) : Option Nat :=
  if id < 2 ^ 30 ∧ (kvPool s c).contains (id / 1024) = true then ownExtent s c (id / 1024) else none

/-- An unused record. -/
def SeqRec.empty (c : BitVec 12) : SeqRec :=
  { state := 0, nLayers := 1, hKv := 1, headDim := 0, fmt := 0, tpp := 0, stride := 0, basePos := 0, prefix_ := 0, parent := 0,
    forked := false, scans := 0, len := [], map := [], mapPages := [], comp := c }

/-- A sequence's record. -/
def seqOf (s : State) (c : BitVec 12) (id : Nat) : SeqRec := KMap.getD s.eng.seqs (seqKey c id) (SeqRec.empty c)

/-- Element bytes of a KV format (R302). -/
def kvWidth (fmt : BitVec 3) : Nat := if fmt.toNat < 2 then 1 else 2

/-- The element format of a KV format's rows. -/
def kvFormat (fmt : BitVec 3) : Nat := if fmt = 0 then 3 else if fmt = 1 then 4 else 1

/-- Bytes of one row. -/
def rowBytes (x : SeqRec) : Nat := x.headDim * kvWidth x.fmt

/-- Tokens of a layer. -/
def seqLen (x : SeqRec) (layer : Nat) : Nat := KMap.getD x.len layer 0

/-- Word 0 of a record (R301). -/
def recWord0 (x : SeqRec) : Nat :=
  x.state.toNat * 2 ^ 62 + (x.nLayers - 1) * 2 ^ 54 + (x.hKv - 1) * 2 ^ 48 + x.headDim * 2 ^ 38 + x.fmt.toNat * 2 ^ 35
    + x.tpp * 2 ^ 19 + x.stride * 2 ^ 3

/-- A record's 4,096 bytes (R301). -/
def recBytes (x : SeqRec) : List Byte :=
  let w0 := if x.state = 0 then 0 else recWord0 x
  wordsBytes ([w0, x.basePos * 2 ^ 32 + x.prefix_, x.parent.toNat * 2 ^ 32 + b2n x.forked * 2 ^ 31, x.scans * 2 ^ 32] ++ List.replicate 12 0)
    ++ (List.range 256).flatMap (fun l => beBytes 4 (seqLen x l))
    ++ (List.range 736).flatMap (fun i => beBytes 4 (KMap.getD x.mapPages i 0xFFFFFFFF))

/-- Set a record and write it where endpoints read it. -/
def putSeq (s : State) (c : BitVec 12) (id : Nat) (x : SeqRec) : State :=
  let s := s.setEng { s.eng with seqs := KMap.put s.eng.seqs (seqKey c id) x }
  match seqHome s c id with
  | some he => svcWrite s c he (id % 1024 * 4096) (recBytes x)
  | none => s

/-- The completion payload of the control kinds (R308). -/
def recAnswer (x : SeqRec) : List Byte :=
  let ls := (List.range x.nLayers).map (seqLen x)
  let w0 := if x.state = 0 then 0 else recWord0 x
  wordsBytes [w0, ls.foldl min (ls.headD 0) * 2 ^ 32 + ls.foldl max 0]

/-- The home extent and page of a KV page number (R300). -/
def kvPlace (s : State) (c : BitVec 12) (n : Nat) : Option (Nat × Nat) :=
  match (kvPool s c)[n / 2 ^ 14]? with
  | some ext => (ownExtent s c ext).map (fun he => (he, n % 2 ^ 14))
  | none => none

/-- The key of a KV page's count. -/
def kvKey (c : BitVec 12) (n : Nat) : Nat := c.toNat * 2 ^ 32 + n

/-- The count of a KV page. -/
def kvCount (s : State) (c : BitVec 12) (n : Nat) : Nat := KMap.getD s.eng.kvPages (kvKey c n) 0

/-- KV pages in use by a composition. -/
def kvUsed (s : State) (c : BitVec 12) : List Nat :=
  (s.eng.kvPages.filter (fun p => decide (p.1 / 2 ^ 32 = c.toNat))).map (fun p => p.1 % 2 ^ 32)

/-- Free KV pages of a composition's pool. -/
def kvFree (s : State) (c : BitVec 12) : Nat := (kvPool s c).length * 16320 - (kvUsed s c).length

/-- Take the lowest free KV page number (R305). -/
def kvAlloc (s : State) (c : BitVec 12) : Nat × State :=
  let used := kvUsed s c
  let n := ((List.range (kvPool s c).length).findSome? (fun o =>
    let k := firstFree (used.length + 1) (o * 2 ^ 14 + 64) used
    if k < (o + 1) * 2 ^ 14 then some k else none)).getD 0xFFFFFFFF
  (n, s.setEng { s.eng with kvPages := KMap.put s.eng.kvPages (kvKey c n) 1 })

/-- Unmap a page and return its storage (R178, R216). -/
def unmapPage (s : State) (he page : Nat) : State :=
  let p := s.pte he page
  let codec := p.codec.toNat
  let free (s : State) : State :=
    match p.loc with
    | .t0 slice slot => zeroStorage (dropLoc s (.t0 slice slot) 1) ((slice * 256 + slot) * 65536) 65536
    | .t1 k f =>
      if isF codec then
        -- an octet's frames return when no page of it is left
        let others := (List.range 8).any (fun i => let q := page / 8 * 8 + i
          q != page && (match (s.pte he q).state, (s.pte he q).loc with | .unmapped, _ => false | _, .t1 .. => true | _, _ => false))
        let s := zeroStorage s ((pageAddr codec page p.loc).getD 0) (pageStored codec)
        if others then s else dropFrames s k (f - page % 8 * pageStored codec / 65536) (octetFrames codec)
      else dropFrames (zeroStorage s ((pageAddr codec page p.loc).getD 0) 65536) k f 1
    | l => dropLoc s l 1
  let s := match moveOf s he page with | some (id, _) => abandonMove s id false | none => s
  let s := if p.state = .unmapped then s else free s
  let s := s.updExt he (fun x => { x with pages := if x.lost then KMap.put x.pages page { Pte.init with pro := x.proAll } else KMap.del x.pages page, blocks := KMap.keep x.blocks (fun b _ => decide (b / 16 ≠ page)) })
  s.setHome { s.home with poison := s.home.poison.filter (fun l => decide (l / 512 ≠ he * 2 ^ 14 + page)),
                          fetched := KMap.keep s.home.fetched (fun k _ => decide (k / 16 ≠ he * 2 ^ 14 + page)) }

/-- A KV page loses one count; at zero it is unmapped (R311). -/
def kvDrop (s : State) (c : BitVec 12) (n : Nat) : State :=
  let k := kvCount s c n
  if k > 1 then s.setEng { s.eng with kvPages := KMap.put s.eng.kvPages (kvKey c n) (k - 1) }
  else
    let s := s.setEng { s.eng with kvPages := KMap.del s.eng.kvPages (kvKey c n) }
    match kvPlace s c n with
    | some (he, page) => unmapPage s he page
    | none => s

/-- Write bytes of a KV page. -/
def kvWrite (s : State) (c : BitVec 12) (n off : Nat) (bs : List Byte) : State :=
  match kvPlace s c n with
  | some (he, page) => svcWrite s c he (page * 65536 + off) bs
  | none => s

/-- Bytes of a KV page with the worst status of its lines, and the blocks that trays must send first (R320). -/
def kvRead (s : State) (c : BitVec 12) (n off len : Nat) : List Byte × BitVec 8 × List (Nat × Nat × Nat) :=
  match kvPlace s c n with
  | none => (zeros len, 0, [])
  | some (he, page) =>
    (piecesOf off len).foldl (fun acc p =>
      let (bs, st, need) := acc
      match readPiece s s.home.fetched c.toNat he page p.1 p.2 with
      | .data d => (bs ++ d, st, need)
      | .fail e => (bs ++ zeros p.2, worse st e, need)
      | .bad crc => (bs ++ zeros p.2, worse st (if crc then 0x40 else 0x41), need)
      | .fetch => (bs ++ zeros p.2, st, need ++ [(he, page, p.1 / 4096)])) ([], 0, [])

/-- Entry number of a page of (layer, head) (R303). -/
def mapIdx (x : SeqRec) (layer head p : Nat) : Nat := (layer * x.hKv + head) * x.stride + p

/-- Enter a page number in the map; the map page is taken when its first entry needs one (R303, log 27). -/
def setMap (s : State) (c : BitVec 12) (x : SeqRec) (i : Nat) (n : Option Nat) : State × SeqRec :=
  let (s, x) := match KMap.find x.mapPages (i / 16384), n with
    | none, some _ =>
      let (k, s) := kvAlloc s c
      (kvWrite s c k 0 (List.replicate 65536 0xFF), { x with mapPages := KMap.put x.mapPages (i / 16384) k })
    | _, _ => (s, x)
  let s := match KMap.find x.mapPages (i / 16384) with
    | some k => kvWrite s c k (i % 16384 * 4) (beBytes 4 (n.getD 0xFFFFFFFF))
    | none => s
  (s, { x with map := match n with | some v => KMap.put x.map i v | none => KMap.del x.map i })

/-- Map pages that new entries would take. -/
def mapNeed (x : SeqRec) (l : List Nat) : Nat :=
  ((l.map (· / 16384)).eraseDups.filter (fun m => (KMap.find x.mapPages m).isNone)).length

/-- Copy a page, or its rows below a slot, into a new page (R309, R310). -/
def kvCopy (s : State) (c : BitVec 12) (x : SeqRec) (n : Nat) (slots : Option Nat) : Nat × State :=
  let (k, s) := kvAlloc s c
  let rb := rowBytes x
  let runs := match slots with | none => [(0, 65536)] | some j => [(0, j * rb), (x.tpp * rb, j * rb)]
  (k, runs.foldl (fun s r => kvWrite s c k r.1 (kvRead s c n r.1 r.2).1) s)

/-! ## Held appends and commands (R306) -/

/-- What an append or command at the head of its record's line comes to. -/
inductive KvRes where
  | done (s : State) (status : BitVec 8) (payload : List Byte)
  | hold (s : State)

/-- Make the pages of KV page numbers ready for the home's writes: false when one is not (R176, R188, R189). -/
def kvReady (s : State) (c : BitVec 12) (ns : List Nat) : State × Bool :=
  ns.foldl (fun acc n =>
    match kvPlace acc.1 c n with
    | some (he, page) => (match prepareStore acc.1 he page with | (s, .ready) => (s, acc.2) | (s, _) => (s, false))
    | none => acc) (acc0 s)
where
  /-- Ready so far. -/
  acc0 (s : State) : State × Bool := (s, true)

/-- Append head and rows at an open record (R304, R305). -/
def runAppend (s : State) (r : Req) (id : Nat) : KvRes :=
  let c := r.hdr.comp
  let x := seqOf s c id
  let w0 := wordAt r.payload 0
  let layer := bits 63 56 w0
  let cnt := bits 55 44 w0
  let pos := bits 43 12 w0
  let rb := rowBytes x
  if x.state ≠ 1 ∨ layer ≥ x.nLayers ∨ cnt = 0 ∨ r.payload.length ≠ 16 + cnt * 2 * x.hKv * rb ∨ pos + cnt > x.basePos + x.stride * x.tpp then
    .done s 0x10 []
  else
    let e := x.basePos + seqLen x layer
    if pos > e then .hold s
    else
      let ts := (List.range (pos + cnt - max e pos)).map (· + max e pos)
      let cells := ts.flatMap (fun t => (List.range x.hKv).map (fun h => (t, h)))
      let firsts := cells.foldl (fun (acc : List (Nat × Nat × Nat)) th =>
        let i := mapIdx x layer th.2 ((th.1 - x.basePos) / x.tpp)
        if acc.any (fun a => a.1 == i) then acc else acc ++ [(i, (th.1 - x.basePos) % x.tpp, th.2)]) []
      let fresh := firsts.filter (fun a => a.2.1 == 0 || (KMap.find x.map a.1).isNone)
      let cow := firsts.filter (fun a => !(a.2.1 == 0) && (match KMap.find x.map a.1 with | some n => decide (kvCount s c n > 1) | none => false))
      if fresh.length + cow.length + mapNeed x ((fresh ++ cow).map (·.1)) > kvFree s c then .hold s
      else
        let (s1, x1) := fresh.foldl (fun (acc : State × SeqRec) a =>
          let (n, s) := kvAlloc acc.1 c
          let old := KMap.find acc.2.map a.1
          let (s, y) := setMap s c acc.2 a.1 (some n)
          ((match old with | some o => kvDrop s c o | none => s), y)) (s, x)
        let (s1, x1) := cow.foldl (fun (acc : State × SeqRec) a =>
          let old := KMap.getD acc.2.map a.1 0
          let (n, s) := kvCopy acc.1 c x old (some a.2.1)
          let (s, y) := setMap s c acc.2 a.1 (some n)
          (kvDrop s c old, y)) (s1, x1)
        match kvReady s1 c (firsts.map (fun a => KMap.getD x1.map a.1 0)) with
        | (s2, false) => .hold (s2.setEng { s2.eng with kvPages := s.eng.kvPages })
        | (s2, true) =>
          let s3 := cells.foldl (fun s th =>
            let n := KMap.getD x1.map (mapIdx x layer th.2 ((th.1 - x.basePos) / x.tpp)) 0
            let j := (th.1 - x.basePos) % x.tpp
            let o := 16 + (th.1 - pos) * 2 * x.hKv * rb
            let s := kvWrite s c n (j * rb) ((r.payload.drop (o + th.2 * rb)).take rb)
            kvWrite s c n ((x.tpp + j) * rb) ((r.payload.drop (o + (x.hKv + th.2) * rb)).take rb)) s2
          .done (putSeq s3 c id { x1 with len := KMap.put x1.len layer (max (seqLen x layer) (pos + cnt - x.basePos)) }) 0 []

/-- A create (R301 to R303, R308). -/
def runCreate (s : State) (r : Req) (id : Nat) : KvRes :=
  let c := r.hdr.comp
  let x := seqOf s c id
  let w := wordAt r.payload 1
  let dim := bits 47 38 w
  let fmt : BitVec 3 := .ofNat 3 (bits 37 35 w)
  let tpp := bits 34 19 w
  let stride := bits 18 3 w
  let nl := bits 61 54 w + 1
  let nh := bits 53 48 w + 1
  let (codec, elem) := match seqHome s c id with | some he => s.extCodec he | none => (0, 0)
  if x.state = 1 then .done s 0 (recAnswer x)
  else if fmt.toNat > 3 ∨ dim < 16 ∨ dim > 1008 ∨ dim % 16 ≠ 0 ∨ (fmt = 3 ∧ dim % 32 ≠ 0) ∨ tpp = 0 ∨ tpp > 65536 / (2 * dim * kvWidth fmt)
      ∨ stride = 0 ∨ nl * nh * stride > 12058624 ∨ ¬ (if fmt = 3 then codec = 2 ∧ elem = 1 else codec = 0) then .done s 0x10 []
  else
    let y : SeqRec := { SeqRec.empty c with state := 1, nLayers := nl, hKv := nh, headDim := dim, fmt := fmt, tpp := tpp, stride := stride,
                                            basePos := bits 63 32 (wordAt r.payload 2) }
    .done (putSeq s c id y) 0 (recAnswer y)

/-- A fork (R309). -/
def runFork (s : State) (r : Req) (id : Nat) : KvRes :=
  let c := r.hdr.comp
  let x := seqOf s c id
  let pid := bits 63 32 (wordAt r.payload 1)
  let p := bits 31 0 (wordAt r.payload 1)
  let e := entryFor s c r.hdr.epoch (pid / 1024 % 2 ^ 20)
  let granted := e.state == 1 || e.state == 2
  if x.state = 1 then .done s 0 (recAnswer x)
  else if pid ≥ 2 ^ 30 ∨ granted = false then
    -- a parent outside rights leaves an open child without layout
    let y := { SeqRec.empty c with state := 1 }
    .done (putSeq (countViol s c r.hdr.src 4 1) c id y) 0 (recAnswer y)
  else match seqHome s c pid with
    | none => .done s 0x10 []
    | some _ =>
      let y := seqOf s c pid
      let layers := List.range y.nLayers
      if y.state ≠ 1 then .done s 0x10 []
      else if layers.any (fun l => decide (p > seqLen y l)) then .hold s
      else
        let lh := layers.flatMap (fun l => (List.range y.hKv).map (fun h => (l, h)))
        let whole := lh.flatMap (fun a => (List.range (p / y.tpp)).filterMap (fun k =>
          let i := mapIdx y a.1 a.2 k
          (KMap.find y.map i).map (fun n => (i, n))))
        let part := if p % y.tpp = 0 then [] else lh.filterMap (fun a =>
          let i := mapIdx y a.1 a.2 (p / y.tpp)
          (KMap.find y.map i).map (fun n => (i, n)))
        let full := whole.filter (fun a => decide (kvCount s c a.2 ≥ 65535))
        let child0 : SeqRec := { y with prefix_ := p, parent := .ofNat 32 pid, forked := true, scans := 0, map := [], mapPages := [],
                                        len := layers.map (fun l => (l, p)) }
        if full.length + part.length + mapNeed child0 ((whole ++ part).map (·.1)) > kvFree s c then .hold s
        else
          let (s1, z) := whole.foldl (fun (acc : State × SeqRec) a =>
            let k := kvCount acc.1 c a.2
            if k ≥ 65535 then
              let (n, s) := kvCopy acc.1 c y a.2 none
              setMap s c acc.2 a.1 (some n)
            else setMap (acc.1.setEng { acc.1.eng with kvPages := KMap.put acc.1.eng.kvPages (kvKey c a.2) (k + 1) }) c acc.2 a.1 (some a.2)) (s, child0)
          let (s1, z) := part.foldl (fun (acc : State × SeqRec) a =>
            let (n, s) := kvCopy acc.1 c y a.2 (some (p % y.tpp))
            setMap s c acc.2 a.1 (some n)) (s1, z)
          .done (putSeq s1 c id z) 0 (recAnswer z)

/-- A truncate (R310). -/
def runTruncate (s : State) (r : Req) (id : Nat) : KvRes :=
  let c := r.hdr.comp
  let x := seqOf s c id
  let n := bits 31 0 (wordAt r.payload 1)
  if x.state ≠ 1 then .done s 0x10 []
  else if x.scans > 0 then .hold s
  else
    let cut := (List.range x.nLayers).filter (fun l => decide (seqLen x l > n))
    if cut.isEmpty then .done s 0 (recAnswer x)
    else
      let lh := cut.flatMap (fun l => (List.range x.hKv).map (fun h => (l, h)))
      let cow := if n % x.tpp = 0 then [] else lh.filterMap (fun a =>
        let i := mapIdx x a.1 a.2 (n / x.tpp)
        match KMap.find x.map i with
        | some k => if kvCount s c k > 1 then some (i, k) else none
        | none => none)
      if cow.length > kvFree s c then .hold s
      else
        let gone := x.map.filter (fun a => cut.contains (a.1 / x.stride / x.hKv) && decide (a.1 % x.stride * x.tpp ≥ n))
        let (s1, y) := gone.foldl (fun (acc : State × SeqRec) a =>
          let (s, y) := setMap acc.1 c acc.2 a.1 none
          (kvDrop s c a.2, y)) (s, x)
        let (s1, y) := cow.foldl (fun (acc : State × SeqRec) a =>
          let (k, s) := kvCopy acc.1 c x a.2 (some (n % x.tpp))
          let (s, y) := setMap s c acc.2 a.1 (some k)
          (kvDrop s c a.2, y)) (s1, y)
        let y := { y with len := cut.foldl (fun m l => KMap.put m l n) y.len }
        .done (putSeq s1 c id y) 0 (recAnswer y)

/-- A release (R311). -/
def runRelease (s : State) (r : Req) (id : Nat) : KvRes :=
  let c := r.hdr.comp
  let x := seqOf s c id
  if x.state = 0 then .done s 0 (recAnswer x)
  else
    let s := if x.state = 1 then putSeq s c id { x with state := 2 } else s
    if x.scans > 0 then .hold s
    else
      let s := (x.map.map (·.2) ++ x.mapPages.map (·.2)).foldl (fun s n => kvDrop s c n) s
      .done (putSeq s c id (SeqRec.empty c)) 0 (recAnswer (SeqRec.empty c))

/-- The tray blocks that a command's page copies would read (R309, R310, R320). -/
def kvNeeds (s : State) (r : Req) (id : Nat) : List (Nat × Nat × Nat) :=
  let c := r.hdr.comp
  let kind := if r.hdr.opcode = 0x15 then 9 else bits 63 61 (wordAt r.payload 0)
  let x := seqOf s c (if kind = 2 then bits 63 32 (wordAt r.payload 1) else id)
  let w0 := wordAt r.payload 0
  let cut := if kind = 9 then x.basePos + seqLen x (bits 63 56 w0) else x.basePos + bits 31 0 (wordAt r.payload 1)
  let p := if kind = 9 then (cut - x.basePos) / max x.tpp 1 else bits 31 0 (wordAt r.payload 1) / max x.tpp 1
  let pages := (x.map.filter (fun a => decide (a.1 % max x.stride 1 = p))).map (·.2)
  if kind = 1 ∨ kind = 4 ∨ (cut - x.basePos) % max x.tpp 1 = 0 then []
  else pages.flatMap (fun n => (kvRead s c n 0 65536).2.2)

/-- One append or command at the head of its record's line (R304 to R311). -/
def runKv (s : State) (r : Req) (id : Nat) : KvRes :=
  let kind := if r.hdr.opcode = 0x15 then 9 else bits 63 61 (wordAt r.payload 0)
  match seqHome s r.hdr.comp id with
  | none => .done s 0x10 []
  | some he =>
    if (s.pte he (id % 1024 / 16)).state = .keyLost then .done s 0x31 []
    else if s.home.operandWaits.any (fun w => w.2.req == r) then .hold s
    else
      let need := kvNeeds s r id
      if !need.isEmpty then .hold (waitOperands s r need)
      else if kind = 9 then runAppend s r id
      else if kind = 1 then runCreate s r id
      else if kind = 2 then runFork s r id
      else if kind = 3 then runTruncate s r id
      else runRelease s r id

/-- Apply held appends and commands, each record's in admission order (R306). -/
def drainKv (s : State) : State :=
  (s.eng.kvHeld.foldl (fun (acc : State × List Nat) k =>
    let (s, blocked) := acc
    let key := seqKey k.2.req.hdr.comp k.2.seqId
    if blocked.contains key then acc
    else match runKv s k.2.req k.2.seqId with
      | .hold s => (s, key :: blocked)
      | .done s st bs => (complete (s.setEng { s.eng with kvHeld := KMap.del s.eng.kvHeld k.1 }) k.2.req s.self st bs false 0, blocked)) (s, [])).1

/-- Put an append or command at the end of its record's line. -/
def enqueueKv (s : State) (r : Req) (id : Nat) : State :=
  let (k, s) := s.fresh
  drainKv (s.setEng { s.eng with kvHeld := KMap.put s.eng.kvHeld k { req := r, seqId := id, day := r.day } })

/-- The service of a `WR_APPEND` at the record's home (R304, R322). -/
def serveAppend (s : State) (r : Req) : State :=
  let h := r.hdr
  let id := extOf h.addr * 1024 + h.addr.toNat % 2 ^ 30 / 4096
  if !funcOn s h.comp 4 then completeStatus s r 0x11
  else if keyRevoked s h then completeStatus s r 0x30
  else match homeRights s h h.addr true true false with
    | .viol k _ => violation s r s.self k
    | .ok _ _ =>
      if r.poisoned then completeStatus s r 0x40
      else if h.addr.toNat % 4096 ≠ 0 ∨ h.addr.toNat % 2 ^ 30 ≥ 64 * 65536 ∨ (seqHome s h.comp id).isNone = true then completeStatus s r 0x10
      else enqueueKv s r id

/-! ## Attention (R312 to R321) -/

/-- A query vector element's bytes. -/
def qWidth (q : Nat) : Nat := if q = 2 then 2 else 1

/-- The format code of a query format. -/
def qFormat (q : Nat) : Nat := if q = 0 then 3 else if q = 1 then 4 else 1

/-- Query heads of a request. -/
def attnHeads (w0 : Nat) : Nat := (bits 51 46 w0 + 1) * (bits 45 42 w0 + 1)

/-- Whether a token at a position is selected (R313). -/
def selected (bs : List Byte) (t : Nat) : Bool :=
  let lo := bits 63 32 (wordAt bs 1)
  let hi := bits 31 0 (wordAt bs 1)
  let window := bits 63 32 (wordAt bs 2)
  let sink := bits 31 16 (wordAt bs 2)
  if t > hi then false
  else if t < sink then true
  else if t < lo then false
  else if window > 0 ∧ t + window ≤ hi then false
  else true

/-- A record that an attention request fits (R302, R312, R322). -/
def attnFits (x : SeqRec) (w0 layer : Nat) : Bool :=
  x.state == 1 && decide (layer < x.nLayers) && decide (bits 57 52 w0 + bits 51 46 w0 + 1 ≤ x.hKv) && decide (bits 41 40 w0 ≤ 2)
    && decide (bits 41 40 w0 = 2 ∨ x.fmt.toNat < 2) && decide (x.headDim > 0)

/-- Segment entries: sequence id and home. -/
def attnSegs (bs : List Byte) : List (Nat × Ep) :=
  (List.range (bits 60 58 (wordAt bs 0) + 1)).map (fun i => (bits 63 32 (wordAt bs (8 + i)), .ofNat 16 (bits 31 16 (wordAt bs (8 + i)))))

/-- Where the queries of an attention payload begin. -/
def attnHead (bs : List Byte) : Nat := 64 + 8 * (bits 60 58 (wordAt bs 0) + 1)

/-- A dot product as R271 forms it. -/
def dotRound (strict : Bool) (q k : List Fp) : Fp :=
  let r (v : Fp) : Fp := if strict then v else rnd32 v
  rnd32 ((foldLeft (fun a b => r (a.add b)) (List.zipWith (fun a b => r (a.mul b)) q k)).getD Fp.zero)

/-- A leaf: the selected rows of one KV page for one query (R318; log 176 for the zero that the sums start at). -/
def attnLeaf (strict : Bool) (scale : Fp) (row : Nat) (q : List Fp) (rows : List (List Fp × List Fp)) : Lse :=
  let ss := rows.map (fun kv => rnd32 ((dotRound strict q kv.1).mul scale))
  let m := ss.foldl Fp.maximum (.inf true)
  if m = .inf true then lseEmpty row
  else
    let r (v : Fp) : Fp := if strict then v else rnd32 v
    let ps := List.zip (ss.map (fun x => fpExp (rnd32 (x.sub m)))) rows
    let l := ps.foldl (fun a p => r (a.add p.1)) Fp.zero
    let o := ps.foldl (fun (a : List Fp) p => List.zipWith (fun x v => r (x.add (p.1.mul v))) a p.2.2) (List.replicate row Fp.zero)
    { m := m, l := rnd32 l, o := o.map rnd32 }

/-- The leaves of one KV head under the order of the mode (R319). -/
def attnCombine (strict : Bool) (engines row : Nat) (leaves : List Lse) : Lse :=
  let v := if strict then tree lseMerge leaves
    else foldLeft lseMerge ((cutPieces (min engines leaves.length) leaves).filterMap (foldLeft lseMerge))
  v.getD (lseEmpty row)

/-- The selected rows of a (layer, head), page by page, with their worst status and the tray blocks they need. -/
def attnRows (s : State) (c : BitVec 12) (x : SeqRec) (bs : List Byte) (layer head endPos : Nat) :
    List (List (List Fp × List Fp)) × BitVec 8 × List (Nat × Nat × Nat) :=
  let rb := rowBytes x
  let pages := (List.range ((endPos - x.basePos + x.tpp - 1) / max x.tpp 1))
  pages.foldl (fun acc p =>
    let js := (List.range x.tpp).filter (fun j => decide (x.basePos + p * x.tpp + j < endPos) && selected bs (x.basePos + p * x.tpp + j))
    match KMap.find x.map (mapIdx x layer head p) with
    | none => acc
    | some n =>
      if js.isEmpty then acc
      else
        let rows := js.map (fun j => (kvRead s c n (j * rb) rb, kvRead s c n ((x.tpp + j) * rb) rb))
        let vals := rows.map (fun r => (decodeElems (kvFormat x.fmt) false r.1.1, decodeElems (kvFormat x.fmt) false r.2.1))
        let st := rows.foldl (fun a r => worse a (worse r.1.2.1 r.2.2.1)) acc.2.1
        (acc.1 ++ [vals], st, acc.2.2 ++ (rows.flatMap (fun r => r.1.2.2 ++ r.2.2.2)).eraseDups)) ([], 0, [])

/-- Close an attention request at its coordinator with a failure: no records (R317, R322). -/
def failAttn (s : State) (id : Nat) (status : BitVec 8) : State :=
  match KMap.find s.eng.attns id with
  | none => s
  | some a =>
    let mine := s.eng.kvScans.filter (fun k => k.2.coordinator == some id)
    let s := mine.foldl (fun s k =>
      let x := seqOf s k.2.req.hdr.comp k.2.seqId
      if k.2.started && k.2.seqId != noSeq then putSeq s k.2.req.hdr.comp k.2.seqId { x with scans := x.scans - 1 } else s) s
    let s := s.setEng { s.eng with attns := KMap.del s.eng.attns id, kvScans := KMap.keep s.eng.kvScans (fun _ k => k.coordinator != some id) }
    drainKv (completeStatus s a.req status)

/-- Whether every segment's partials have come. -/
def Attn.whole (a : Attn) : Bool :=
  (List.range a.segs).all (fun g => (List.range a.heads).all (fun j => match KMap.find a.partials g with | some m => (KMap.find m j).isSome | none => false))

/-- Bytes of an attention request's results. -/
def Attn.outBytes (a : Attn) : Nat := a.heads * (if a.final then finalBytesLen a.row a.outFmt.toNat else lseBytesLen a.row)

/-- End an attention request once every segment's partials are here and its output pages are ready (R319, R321). -/
def finishAttn (s : State) (id : Nat) : State :=
  match KMap.find s.eng.attns id with
  | none => s
  | some a =>
    if !a.whole then s
    else
      let rec' (j : Nat) : Lse :=
        let ps := (List.range a.segs).map (fun g => parseLse a.row (KMap.getD (KMap.getD a.partials g []) j []))
        ((if a.strict then tree lseMerge ps else foldLeft lseMerge ps)).getD (lseEmpty a.row)
      let out := (List.range a.heads).flatMap (fun j => if a.final then lseFinalBytes a.outFmt.toNat (fun _ => rne) (rec' j) else lseBytes (rec' j))
      let drop (s : State) : State := meterWork (s.setEng { s.eng with attns := KMap.del s.eng.attns id }) a.req.hdr.comp .reduce [mergeEngine s a.req]
      if a.outGfa = 0 then complete (drop s) a.req s.self 0 out false 0
      else match readyOutput s a.req.hdr a.outGfa out.length with
        | (s, some _) => s
        | (s, none) =>
          let (s, st) := writeOperand (drop s) a.req.hdr a.outGfa out
          completeStatus s a.req st

/-- Partial records of a segment reach the coordinator (R317, R319). -/
def attnPartials (s : State) (id seg first : Nat) (recs : List (List Byte)) : State :=
  match KMap.find s.eng.attns id with
  | none => s
  | some a =>
    let m := recs.zipIdx.foldl (fun m r => KMap.put m (first + r.2) r.1) (KMap.getD a.partials seg [])
    finishAttn (s.setEng { s.eng with attns := KMap.put s.eng.attns id { a with partials := KMap.put a.partials seg m } }) id

/-- An arriving `SE_PARTIAL` (R294, R317): from a fabric port and in the request's composition. -/
def servePartial (s : State) (r : Req) : State :=
  let h := r.hdr
  match KMap.first? s.eng.attns (fun _ a => a.mergeId == bits 23 0 h.etag.toNat) with
  | none => s
  | some (id, a) =>
    if r.edge then s
    else if a.req.hdr.comp ≠ h.comp then countViol s h.comp h.src 4 1
    else if r.poisoned then failAttn s id 0x40
    else if h.status.toNat ≥ 0x10 then failAttn s id h.status
    else attnPartials s id (bits 31 24 h.addr.toNat) (bits 23 12 h.addr.toNat) (chunksOf (lseBytesLen a.row) r.payload.length r.payload)

/-- Whether a scan may start: truncates and releases admitted before it have been applied, and the last segment holds `T_HI`
(R310, R316). -/
def scanReady (s : State) (id : Nat) (k : KvScan) : Bool :=
  let c := k.req.hdr.comp
  let x := seqOf s c k.seqId
  let blocked := s.eng.kvHeld.any (fun h => decide (h.1 < id) && h.2.req.hdr.comp == c && h.2.seqId == k.seqId && h.2.req.hdr.opcode == 0x49
    && decide (bits 63 61 (wordAt h.2.req.payload 0) ≥ 3))
  !blocked && (!k.last || x.state != 1 || decide (x.basePos + seqLen x k.layer > bits 31 0 (wordAt k.req.payload 1)))

/-- Add a scan of a segment. -/
def addScan (s : State) (k : KvScan) : State :=
  let (id, s) := s.fresh
  countHeld (s.setEng { s.eng with kvScans := KMap.put s.eng.kvScans id k }) k.req (!scanReady s id k)

/-- The frames of a sub-request: head, segment list, slice of queries (R314). -/
def subAttn (bs : List Byte) (row : Nat) (fmt : BitVec 3) (mergeId : Nat) (ep : Ep) (seg : Nat) (queries : List Byte) : List (List Byte) :=
  let w := wordAt bs
  let head := attnHead bs
  let cap := 4096 - head
  let slices := chunksOf cap (queries.length + 1) queries
  slices.zipIdx.map (fun p =>
    wordsBytes [putBits 34 34 1 (w 0), w 1, w 2, putBits 31 22 row (putBits 21 19 fmt.toNat (w 3)), 0, 0,
      mergeId * 2 ^ 40 + ep.toNat * 2 ^ 24 + seg * 2 ^ 16, (p.2 * cap) * 2 ^ 48 + (slices.length - 1) * 2 ^ 46]
      ++ (bs.drop 64).take (head - 64) ++ p.1)

/-- Open an attention request at its coordinator, `seq` being segment 0's sequence and `x` its record (R314). -/
def openAttn (s : State) (r : Req) (seq : Nat) (x : SeqRec) (queries : List Byte) : State :=
  let bs := r.payload
  let w := wordAt bs
  let segs := attnSegs bs
  let layer := bits 31 24 r.hdr.etag.toNat
  let mid := freeTransient s
  let (id, s) := s.fresh
  let a : Attn := { req := r, mergeId := mid, segs := segs.length, heads := attnHeads (w 0), row := x.headDim, final := bit 39 (w 0),
                    outFmt := .ofNat 4 (bits 38 35 (w 0)), outGfa := w 5, partials := [], deadline := r.day + bits 31 16 (w 0),
                    strict := r.strict }
  let s := s.setEng { s.eng with attns := KMap.put s.eng.attns id a }
  let s := segs.zipIdx.foldl (fun s g =>
    if g.2 = 0 then s
    else (subAttn bs x.headDim x.fmt mid s.self g.2 queries).zipIdx.foldl (fun s f =>
      sendOwn s (derivedHeader s r.hdr 0x49 g.1.2 f.1.length) f.1 (.attn id g.2)) s) s
  addScan s { req := r, seqId := seq, layer := layer, coordinator := some id, mergeId := mid, mergeEp := s.self,
              segIdx := 0, last := segs.length == 1 && seq != noSeq, started := false, ended := 0, queries := queries, assembly := false,
              deadline := a.deadline }

/-- Rights of a segment's record: its extent in the request's map (R322, R510). -/
def segRights (s : State) (h : Header) (seq : Nat) : Bool :=
  match extentRights s h (.ofNat 64 (seq / 1024 % 2 ^ 20 * 2 ^ 30)) false false with | .ok _ _ => true | .viol _ _ => false

/-- A sub-request at a segment's home, all of whose frames are here (R314, R315, R322). -/
def segmentScan (s : State) (r : Req) (queries : List Byte) : State :=
  let bs := r.payload
  let w := wordAt bs
  let segs := attnSegs bs
  let i := bits 23 16 (w 6)
  let (seq, home) := segs.getD i (0, 0)
  let layer := bits 31 24 r.hdr.etag.toNat
  let row := bits 31 22 (w 3)
  let x := seqOf s r.hdr.comp seq
  let scan : KvScan := { req := r, seqId := seq, layer := layer, coordinator := none, mergeId := bits 63 40 (w 6),
                         mergeEp := .ofNat 16 (bits 39 24 (w 6)), segIdx := i, last := i + 1 == segs.length, started := false, ended := 0,
                         queries := queries, assembly := false, deadline := r.day + bits 31 16 (w 0) }
  if i ≥ segs.length ∨ home ≠ s.self then completeStatus s r 0x10
  else if !segRights s r.hdr seq then
    -- outside rights: scanned as empty
    addScan (countViol s r.hdr.comp r.hdr.src 4 1) { scan with seqId := noSeq, last := false }
  else if (seqHome s r.hdr.comp seq).isNone || !attnFits x (w 0) layer || decide (x.headDim ≠ row ∨ x.fmt.toNat ≠ bits 21 19 (w 3)) then
    completeStatus s r 0x10
  else addScan s scan

/-- A frame of a sub-request: staged until every frame is here (R314). -/
def serveSubAttn (s : State) (r : Req) : State :=
  let w := wordAt r.payload
  let off := bits 63 48 (w 7)
  let frames := bits 47 46 (w 7) + 1
  let key := bits 39 24 (w 6) * 2 ^ 32 + bits 63 40 (w 6) * 2 ^ 8 + bits 23 16 (w 6)
  let st := KMap.getD s.eng.subStage key { src := r.hdr.src, mergeId := bits 63 40 (w 6), slices := [], first := none }
  let st := { st with slices := KMap.put st.slices off (r.payload.drop (attnHead r.payload)), first := if off = 0 then some r else st.first }
  let s := if off = 0 then s else completeStatus s r 0
  match st.first with
  | some r0 =>
    if st.slices.length ≥ frames then
      segmentScan (s.setEng { s.eng with subStage := KMap.del s.eng.subStage key }) r0 (st.slices.flatMap (·.2))
    else s.setEng { s.eng with subStage := KMap.put s.eng.subStage key st }
  | none => s.setEng { s.eng with subStage := KMap.put s.eng.subStage key st }

/-- The service of an attention request at its coordinator (R312, R314, R321, R322). A record of segment 0 outside rights is scanned as empty:
its layout reads as zeros, so the results have no rows (R83, log 90). -/
def serveAttend (s : State) (old : Option (Nat × Nat)) (r : Req) : State :=
  let h := r.hdr
  let w := wordAt r.payload
  let segs := attnSegs r.payload
  let layer := bits 31 24 h.etag.toNat
  let (seq, home) := segs.headD (0, 0)
  let outside := !segRights s h seq
  let x := if outside then SeqRec.empty h.comp else seqOf s h.comp seq
  let nq := attnHeads (w 0)
  let final := bit 39 (w 0)
  let outF := bits 38 35 (w 0)
  let qlen := nq * x.headDim * qWidth (bits 41 40 (w 0))
  let outLen := nq * (if final then finalBytesLen x.headDim outF else lseBytesLen x.headDim)
  let inl := bit 34 (w 0)
  if home ≠ s.self then completeStatus s r 0x10
  else if (!outside && ((seqHome s h.comp seq).isNone || !attnFits x (w 0) layer)) || (final && decide (outF > 4)) || decide (bits 31 16 (w 0) = 0 ∨ bits 31 16 (w 0) > 4096)
      || decide (w 5 = 0 ∧ outLen > 4096) || (w 5 != 0 && rangeElsewhere s h (w 5) outLen)
      || (decide (segs.length > 1) && decide (qlen > 4 * (4096 - attnHead r.payload)))
      || (inl && decide (r.payload.length < attnHead r.payload + qlen)) || (!inl && rangeElsewhere s h (w 4) qlen) then completeStatus s r 0x10
  else if (openTransients s).length ≥ 256 then engineWait s old .score ((reqUnits s r .score).headD 0) r
  else if outside then openAttn (countViol s h.comp h.src 4 1) r noSeq x []
  else if inl then openAttn s r seq x ((r.payload.drop (attnHead r.payload)).take qlen)
  else
    let o := readOperand s h (w 4) qlen
    if !o.need.isEmpty then waitOperands s r o.need
    else
      let s := settleRead s h o
      if o.status.toNat ≥ 0x10 then completeStatus s r o.status else openAttn s r seq x o.bytes

/-- The dies that hold a sequence's pages here (R11). -/
def seqDies (s : State) (c : BitVec 12) (seq : Nat) : List Nat :=
  ((seqOf s c seq).map.filterMap (fun a => (kvPlace s c a.2).bind (fun p => locDie s (s.pte p.1 p.2).loc))).eraseDups

/-- The sequence that an attention frame has this module scan. -/
def attnSeq (bs : List Byte) : Nat := ((attnSegs bs).getD (bits 23 16 (wordAt bs 6)) (0, 0)).1

/-- The service of an `SE_ATTN` of any kind (R86, R312, R314, R455). -/
def serveAttn (s : State) (old : Option (Nat × Nat)) (r : Req) : State :=
  let h := r.hdr
  let w := wordAt r.payload
  let kind := bits 63 61 (w 0)
  let fresh := old.isNone
  if kind = 0 then
    match engineAvail s r .score (seqDies s h.comp (attnSeq r.payload)) with
    | .absent => completeStatus s r 0x10
    | av =>
      if fresh && !funcOn s h.comp 3 then completeStatus s r 0x11
      else if r.poisoned then completeStatus s r (if keyRevoked s h then 0x30 else 0x40)
      else if (reqUnits s r .reduce).isEmpty || decide (r.payload.length < attnHead r.payload) || (r.edge && (w 6 / 2 ^ 16 != 0 || w 7 / 2 ^ 46 != 0)) then completeStatus s r 0x10
      else if fresh && keyRevoked s h then completeStatus s r 0x30
      else if av = .wait ∨ queuedBefore s r .score = true then engineWait s old .score ((reqUnits s r .score).headD 0) r
      else if w 6 / 2 ^ 16 ≠ 0 then serveSubAttn s r
      else serveAttend s old r
  else
    let seq := bits 63 32 h.etag.toNat
    if !funcOn s h.comp 4 then completeStatus s r 0x11
    else if r.poisoned then completeStatus s r (if keyRevoked s h then 0x30 else 0x40)
    else if kind > 4 ∨ (seqHome s h.comp seq).isNone = true ∨ r.payload.length < 64 then completeStatus s r 0x10
    else if keyRevoked s h then completeStatus s r 0x30
    else enqueueKv s r seq

/-! ## Scans (R316 to R320) -/

/-- A scan ends without its values: its request fails (R322). -/
def failScan (s : State) (id : Nat) (k : KvScan) (status : BitVec 8) : State :=
  let c := k.req.hdr.comp
  let x := seqOf s c k.seqId
  let s := if k.started && k.seqId != noSeq then putSeq s c k.seqId { x with scans := x.scans - 1 } else s
  let s := s.setEng { s.eng with kvScans := KMap.del s.eng.kvScans id }
  match k.coordinator with
  | some a => failAttn (drainKv s) a status
  | none => drainKv (completeStatus s k.req status)

/-- A scan starts: `SCANS` rises, the end of the stored rows is fixed, and blocks in trays are asked for. -/
def beginScan (s : State) (id : Nat) : State :=
  match KMap.find s.eng.kvScans id with
  | none => s
  | some k =>
    let c := k.req.hdr.comp
    let x := seqOf s c k.seqId
    let w0 := wordAt k.req.payload 0
    let av := engineAvail s k.req .score (seqDies s c k.seqId)
    if k.assembly || k.started || !scanReady s id k || av == .wait then s
    else if k.seqId = noSeq then s.setEng { s.eng with kvScans := KMap.put s.eng.kvScans id { k with started := true } }
    else if av == .absent || !attnFits x w0 k.layer then failScan s id k 0x10
    else
      let e := x.basePos + seqLen x k.layer
      let s := putSeq s c k.seqId { x with scans := x.scans + 1 }
      let need := ((List.range (bits 51 46 w0 + 1)).flatMap (fun h =>
        (attnRows s c x k.req.payload k.layer (bits 57 52 w0 + h) e).2.2)).eraseDups
      let s := s.setEng { s.eng with kvScans := KMap.put s.eng.kvScans id { k with started := true, ended := e } }
      if need.isEmpty then s else waitOperands s k.req need

/-- The partial records of a scan, one per query head in ascending order, and their worst status (R318, R319). -/
def scanRecords (s : State) (k : KvScan) : List Lse × BitVec 8 :=
  let c := k.req.hdr.comp
  let bs := k.req.payload
  let w0 := wordAt bs 0
  let q := bits 41 40 w0
  let group := bits 45 42 w0 + 1
  if k.seqId = noSeq then
    (List.replicate (attnHeads w0) (lseEmpty (if k.coordinator.isSome then 0 else bits 31 22 (wordAt bs 3))), 0)
  else
    let x := seqOf s c k.seqId
    let strict := k.req.strict
    let engines := (reqUnits s k.req .score).length
    let scale := f32 (bits 63 32 (wordAt bs 3))
    let qb := x.headDim * qWidth q
    (List.range (bits 51 46 w0 + 1)).foldl (fun (acc : List Lse × BitVec 8) h =>
      let (pages, st, _) := attnRows s c x bs k.layer (bits 57 52 w0 + h) k.ended
      let recs := (List.range group).map (fun g =>
        let v := decodeElems (qFormat q) false ((k.queries.drop ((h * group + g) * qb)).take qb)
        attnCombine strict engines x.headDim (pages.map (attnLeaf strict scale x.headDim v)))
      (acc.1 ++ recs, worse acc.2 st)) ([], 0)

/-- The pages that a scan reads: those that hold a selected position (R179, R320). -/
def scanPages (s : State) (k : KvScan) : List (Nat × Nat) :=
  let c := k.req.hdr.comp
  let bs := k.req.payload
  let w0 := wordAt bs 0
  let x := seqOf s c k.seqId
  if k.seqId = noSeq then []
  else (List.range (bits 51 46 w0 + 1)).flatMap (fun h =>
    (List.range ((k.ended - x.basePos + x.tpp - 1) / max x.tpp 1)).filterMap (fun p =>
      if (List.range x.tpp).any (fun j => decide (x.basePos + p * x.tpp + j < k.ended) && selected bs (x.basePos + p * x.tpp + j)) then
        (KMap.find x.map (mapIdx x k.layer (bits 57 52 w0 + h) p)).bind (kvPlace s c)
      else none))

/-- A scan ends: its partials are merged here or sent to the coordinator (R317, R319). -/
def endKvScan (s : State) (id : Nat) : State :=
  match KMap.find s.eng.kvScans id with
  | none => s
  | some k =>
    let c := k.req.hdr.comp
    if !k.started || k.assembly || s.home.operandWaits.any (fun w => w.2.req == k.req) then s
    else
      let (recs, st) := scanRecords s k
      let s := meterWork s c .score (workUnits s k.req .score (seqDies s c k.seqId))
      let s := heatPages s (scanPages s k) false
      if st.toNat ≥ 0x10 then
        failScan (s.updEngine .score ((reqUnits s k.req .score).headD 0) (fun e => { e with c1 := satAdd 16 e.c1 1 })) id k st
      else
        let x := seqOf s c k.seqId
        let s := if k.seqId = noSeq then s else putSeq s c k.seqId { x with scans := x.scans - 1 }
        let s := s.setEng { s.eng with kvScans := KMap.del s.eng.kvScans id }
        match k.coordinator with
        | some a => drainKv (attnPartials s a k.segIdx 0 (recs.map lseBytes))
        | none =>
          let row := bits 31 22 (wordAt k.req.payload 3)
          let per := max 1 (4096 / lseBytesLen row)
          let s := (chunksOf per (recs.length + 1) recs).zipIdx.foldl (fun s f =>
            let bs := f.1.flatMap lseBytes
            let h := derivedHeader s k.req.hdr 0x4A k.mergeEp bs.length
            let tag := k.req.hdr.etag.toNat / 2 ^ 24 * 2 ^ 24 + k.mergeId
            let (seq, s) := nextSeq s k.mergeEp
            sendRequest s { hdr := { h with seq := seq, addr := .ofNat 64 (k.segIdx * 2 ^ 24 + f.2 * per * 2 ^ 12), etag := .ofNat 64 tag },
                            payload := bs, poisoned := false }) s
          drainKv (completeStatus s k.req 0)

end Sys2Proof.Machine
end

