-- ==== Sys2Proof/Machine/Gather.lean ====
section
/-! DEFINITION. The Gather engines: indexed gather and scatter, embedding bags, KV page assembly and graph walks
(R325 to R344). -/

namespace Sys2Proof.Machine

/-! ## Deadlines of waiting requests (R343) -/

/-- The engine that folds and orders a request: the composition's first on the die of the requester's port (R325). -/
def gatherEngine (s : State) (r : Req) : Nat :=
  let p := reqUnits s r .gather
  ((p.find? (fun n => n / 32 == dieOfPort r.port)).getD (p.headD 0))

/-- A request that must wait runs against its deadline from its admission. -/
def armDeadline (s : State) (r : Req) (days : Nat) : State :=
  if s.eng.gwaits.any (fun w => w.2.req == r) then s
  else
    let (id, s) := s.fresh
    s.setEng { s.eng with gwaits := KMap.put s.eng.gwaits id { req := r, deadline := r.day + days } }

/-- A request has ended: its deadline is gone. -/
def dropDeadline (s : State) (r : Req) : State :=
  s.setEng { s.eng with gwaits := KMap.keep s.eng.gwaits (fun _ w => w.req != r) }

/-- Complete a Gather request with a status and nothing else. -/
def gatherEnds (s : State) (r : Req) (status : BitVec 8) : State := completeStatus (dropDeadline s r) r status

/-- Hold a Gather request at the home. -/
def gatherHold (s : State) (old : Option (Nat × Nat)) (r : Req) (days : Nat) (why : HeldWhy) (he page : Nat) : State :=
  armDeadline (holdReq s old r why he page) r days

/-- A Gather request waits for blocks in trays. -/
def gatherFetch (s : State) (r : Req) (days : Nat) (need : List (Nat × Nat × Nat)) : State :=
  armDeadline (waitOperands s r need.eraseDups) r days

/-! ## Objects (R326, R327) -/

/-- The object that a request names, of the kind it needs. -/
def findObject (s : State) (h : Header) (graph : Bool) : Option GatherObj :=
  match s.compEntry h.comp with
  | some e => e.objects.find? (fun o => o.obj == .ofNat 24 (bits 63 40 h.etag.toNat) && o.graph == graph)
  | none => none

/-- Elements of a row: 0 encodes 4,096. -/
def GatherObj.elems (o : GatherObj) : Nat := if o.rowElems = 0 then 4096 else o.rowElems

/-- Bytes of a row of some elements in a format, rounded up to 16 (R326). -/
def rowStride (fmt n : Nat) : Nat := (formatBytes fmt n + 15) / 16 * 16

/-- The extents that an object's rows, or a graph's arrays, lie in. -/
def GatherObj.exts (o : GatherObj) : List Nat :=
  let span (a n : Nat) : List Nat := (List.range ((a + n - 1) / 2 ^ 30 + 1 - a / 2 ^ 30)).map (· + a / 2 ^ 30)
  if o.graph then span o.base (8 * (o.count + 1)) ++ [o.edges / 2 ^ 30] ++ span o.delmap ((o.count + 7) / 8)
  else span o.base (o.count * rowStride o.fmt.toNat o.elems)

/-- The dies that take a part of a request on an object: those of its pages, and that of the requester's port (R11, R325). -/
def gatherDies (s : State) (r : Req) (o : Option GatherObj) : List Nat :=
  (dieOfPort r.port :: match o with | some o => extsDies s r.hdr.comp o.exts.contains | none => []).eraseDups

/-- A table's stride. -/
def GatherObj.stride (o : GatherObj) : Nat := rowStride o.fmt.toNat o.elems

/-! ## The descriptor of gather, scatter and bag (R328, R329) -/

/-- A gather descriptor. -/
structure GatherCmd where
  n : Nat
  bags : Nat
  outFmt : Nat
  bagOp : Nat
  weighted : Bool
  inl : Bool
  idx64 : Bool
  deadline : Nat
  idxGfa : Nat
  wGfa : Nat
  ofsGfa : Nat
  outGfa : Nat
  deriving DecidableEq, Repr

/-- A descriptor read from a payload. -/
def parseGather (bs : List Byte) : GatherCmd :=
  let w := wordAt bs
  { n := bits 63 48 (w 0) + 1, bags := bits 47 32 (w 0) + 1, outFmt := bits 31 28 (w 0), bagOp := bits 27 26 (w 0), weighted := bit 25 (w 0),
    inl := bit 24 (w 0), idx64 := bit 23 (w 0), deadline := bits 15 0 (w 0), idxGfa := w 1, wGfa := w 2, ofsGfa := w 3, outGfa := w 4 }

/-- Bytes of an index. -/
def GatherCmd.idxBytes (d : GatherCmd) : Nat := if d.idx64 then 8 else 4

/-- A list's length, padded to 8 bytes. -/
def pad8 (n : Nat) : Nat := (n + 7) / 8 * 8

/-- Bytes of the index list, the weight list and the bag offsets of an opcode. -/
def GatherCmd.listBytes (d : GatherCmd) (op : Nat) : Nat × Nat × Nat :=
  (d.n * d.idxBytes, if op = 0x52 ∧ d.weighted = true then 4 * d.n else 0, if op = 0x52 then 4 * (d.bags + 1) else 0)

/-- Where the inline scatter rows begin. -/
def GatherCmd.rowsAt (d : GatherCmd) (op : Nat) : Nat :=
  let (a, b, c) := d.listBytes op
  if d.inl then 64 + pad8 a + pad8 b + pad8 c else 64

/-- Bytes of the output, or of a scatter's rows. -/
def GatherCmd.outBytes (d : GatherCmd) (op : Nat) (o : GatherObj) : Nat :=
  if op = 0x52 then d.bags * rowStride d.outFmt o.elems else d.n * o.stride

/-- A request that R328, R329 and R331 allow: its fields, the inline lists in its payload, and its lists and output here. -/
def gatherOk (s : State) (h : Header) (d : GatherCmd) (o : GatherObj) (len : Nat) : Bool :=
  let op := h.opcode.toNat
  let (a, b, c) := d.listBytes op
  let rows := if op = 0x51 ∧ d.outGfa = 0 then pad8 (d.n * o.stride) else 0
  decide (1 ≤ d.deadline ∧ d.deadline ≤ 4096) && decide (d.rowsAt op + rows ≤ len)
    && (op != 0x52 || decide (d.bagOp ≠ 3 ∧ d.outFmt ≤ 4 ∧ o.fmt.toNat ≤ 4))
    && (d.inl || (!rangeElsewhere s h d.idxGfa a && (b == 0 || !rangeElsewhere s h d.wGfa b) && (c == 0 || !rangeElsewhere s h d.ofsGfa c)))
    && (if d.outGfa = 0 then op == 0x51 || decide (d.outBytes op o ≤ 4096) else !rangeElsewhere s h d.outGfa (d.outBytes op o))

/-- The three lists of a request, read from its payload or from memory, and a scatter's rows. -/
def gatherLists (s : State) (r : Req) (d : GatherCmd) (o : GatherObj) : List OpRead :=
  let op := r.hdr.opcode.toNat
  let (a, b, c) := d.listBytes op
  let inline (at' n : Nat) : OpRead := { bytes := (r.payload.drop at').take n, viols := 0, status := 0, need := [], bad := [], pages := [] }
  let lists := if d.inl then [inline 64 a, inline (64 + pad8 a) b, inline (64 + pad8 a + pad8 b) c]
    else [readOperand s r.hdr d.idxGfa a, readOperand s r.hdr d.wGfa b, readOperand s r.hdr d.ofsGfa c]
  let rows := d.n * o.stride
  lists ++ [if op ≠ 0x51 then inline 0 0 else if d.outGfa = 0 then inline (d.rowsAt op) rows else readOperand s r.hdr d.outGfa rows]

/-- Words of some bytes each. -/
def wordsOf (n : Nat) (bs : List Byte) : List Nat := (chunksOf n bs.length bs).map beNat

/-- The skip index (R330). -/
def GatherCmd.skip (d : GatherCmd) : Nat := 2 ^ (8 * d.idxBytes) - 1

/-- Bag offsets that R329 allows. -/
def offsetsOk (n : Nat) (l : List Nat) : Bool :=
  l.head? == some 0 && l.getLast? == some n && (List.zipWith (fun a b => decide (a ≤ b)) l (l.drop 1)).all id

/-! ## Running them (R330 to R334) -/

/-- One bag: the rows it covers with their weights, by elements (R333). -/
def bagFold (d : GatherCmd) (strict : Bool) (elems : Nat) (rows : List (List Fp × Fp)) : List Fp :=
  let r (v : Fp) : Fp := if strict then v else rnd32 v
  (List.range elems).map (fun e =>
    let ps := rows.map (fun row => let v := row.1.getD e Fp.zero; if d.weighted then r (row.2.mul v) else v)
    match foldLeft (fpComb (if d.bagOp = 2 then 1 else 0) strict) ps with
    | none => Fp.zero
    | some acc => if d.bagOp = 1 then acc.div (Fp.ofInt rows.length 0) else acc)

/-- The results of a bag request, in `OUT_FMT`, each bag's row padded to its stride. -/
def bagBytes (d : GatherCmd) (strict : Bool) (o : GatherObj) (idx ofs : List Nat) (ws : List Fp) (rows : List (List Byte)) : List Byte :=
  let all := List.zip idx (List.zip (rows.map (fun b => (decodeElems o.fmt.toNat false b).take o.elems))
    (if d.weighted then ws else idx.map (fun _ => Fp.one)))
  (List.range d.bags).flatMap (fun b =>
    let lo := ofs.getD b 0
    let mine := ((all.drop lo).take (ofs.getD (b + 1) 0 - lo)).filter (fun p => p.1 != d.skip)
    padTo (rowStride d.outFmt o.elems) (fpOut d.outFmt false upNearest 0 (bagFold d strict o.elems (mine.map (·.2)))))

/-- Write a scatter's rows in list order, each under its own rights (R332): rows of a read-only extent count as kind 0x3,
others outside rights as kind 0x4. -/
def scatterRows (s : State) (h : Header) (o : GatherObj) (l : List (Nat × List Byte)) : State × BitVec 8 :=
  let kinds := l.flatMap (fun p => (piecesOf (o.base + p.1 * o.stride) o.stride).filterMap (fun q =>
    match homeRights s h (.ofNat 64 q.1) true false false with | .viol k _ => some (if k = 3 then 3 else 4) | .ok .. => none))
  let (s', st) := l.foldl (fun (acc : State × BitVec 8) p =>
    (piecesOf (o.base + p.1 * o.stride) o.stride).foldl (fun acc q =>
      let a : W64 := .ofNat 64 q.1
      match homeRights acc.1 h a true false false with
      | .viol _ _ => acc
      | .ok _ he =>
        match prepareStore acc.1 he (pageOf a) with
        | (s, .ready) =>
          let (s, st) := applyStore s h he a ((p.2.drop (q.1 - (o.base + p.1 * o.stride))).take q.2)
          (s, worse acc.2 st)
        | (s, _) => (s, acc.2)) acc) (s, (0 : BitVec 8))
  ([3, 4].foldl (fun s k => if kinds.contains k then countViol s h.comp h.src k 1 else s) s', st)

/-- Make every row that a scatter writes ready. -/
def readyRows (s : State) (h : Header) (o : GatherObj) (idx : List Nat) : State × Option (HeldWhy × Nat × Nat) :=
  idx.foldl (fun acc i =>
    match acc with
    | (s, some w) => (s, some w)
    | (s, none) => readyOutput s h (o.base + i * o.stride) o.stride) (s, none)

/-- Run a gather, scatter or bag whose lists are at hand. -/
def runGather (s : State) (old : Option (Nat × Nat)) (r : Req) (d : GatherCmd) (o : GatherObj) (reads : List OpRead) : State :=
  let h := r.hdr
  let op := h.opcode.toNat
  let lists := reads.map (·.bytes)
  let idx := wordsOf d.idxBytes (lists.getD 0 [])
  let ws := decodeElems 0 false (lists.getD 1 [])
  let ofs := wordsOf 4 (lists.getD 2 [])
  -- violations of the lists count when the request ends
  let settle (s : State) : State := reads.foldl (fun s l => settleRead s h l) s
  let live := idx.filter (· != d.skip)
  let engine := gatherEngine s r
  let done (s : State) : State :=
    meterWork ((settle s).updEngine .gather engine (fun e => { e with c2 := satAdd 16 e.c2 (idx.length - live.length) })) h.comp .gather (workUnits s r .gather (gatherDies s r (some o)))
  if live.any (fun i => decide (i ≥ o.count)) ∨ (op = 0x52 ∧ offsetsOk d.n ofs = false) then gatherEnds (settle s) r 0x10
  else if op = 0x51 then
    match readyRows s h o live with
    | (s, some (why, he, page)) => gatherHold s old r d.deadline why he page
    | (s, none) =>
      let rows := (idx.zip (chunksOf o.stride (d.n + 1) (lists.getD 3 []))).filter (fun p => p.1 != d.skip)
      let (s, st) := scatterRows (done s) h o rows
      gatherEnds s r st
  else
    let reads := live.map (fun i => (i, readOperand s h (o.base + i * o.stride) o.stride))
    let need := reads.flatMap (·.2.need)
    if !need.isEmpty then gatherFetch s r d.deadline need
    else
      let (s, wait) := if d.outGfa = 0 then (s, none) else readyOutput s h d.outGfa (d.outBytes op o)
      match wait with
      | some (why, he, page) => gatherHold s old r d.deadline why he page
      | none =>
        let s := reads.foldl (fun s p => settleRead s h p.2) s
        let st := reads.foldl (fun a p => worse a p.2.status) 0
        if st.toNat ≥ 0x10 then gatherEnds (settle s) r st
        else
          let row (i : Nat) : List Byte :=
            match reads.find? (fun p => p.1 == i) with | some p => p.2.bytes | none => zeros o.stride
          let rows := idx.map row
          let out := if op = 0x52 then bagBytes d r.strict o idx ofs ws rows else rows.flatten
          let s := dropDeadline (done s) r
          if d.outGfa = 0 then complete s r s.self 0 out false 0
          else
            let (s, st) := writeOperand s h d.outGfa out
            completeStatus s r st

/-- The checks of R86 that every Gather request meets before it runs, `ok` being those on its descriptor: what it answers,
or none when it may run. `dies` are those that take part (R11). -/
def gatherChecks (s : State) (old : Option (Nat × Nat)) (r : Req) (fn days : Nat) (dies : List Nat) (ok : Bool) : Option State :=
  let h := r.hdr
  let fresh := old.isNone
  match engineAvail s r .gather dies with
  | .absent => some (gatherEnds s r 0x10)
  | av =>
    if fresh && !funcOn s h.comp fn then some (gatherEnds s r 0x11)
    else if r.poisoned then some (gatherEnds s r (if keyRevoked s h then 0x30 else 0x40))
    else if fresh && !ok then some (gatherEnds s r 0x10)
    else if fresh && keyRevoked s h then some (gatherEnds s r 0x30)
    else if av = .wait ∨ queuedBefore s r .gather = true then some (armDeadline (engineWait s old .gather (gatherEngine s r) r) r days)
    else if engineBehind s r then some (gatherHold s old r days .behind 0 0)
    else none

/-- The service of a `GE_GATHER`, `GE_SCATTER` or `GE_BAG` (R327 to R334). -/
def serveGather (s : State) (old : Option (Nat × Nat)) (r : Req) : State :=
  let d := parseGather r.payload
  let obj := findObject s r.hdr false
  let ok := match obj with | some o => decide (64 ≤ r.payload.length) && gatherOk s r.hdr d o r.payload.length | none => false
  match gatherChecks s old r 5 d.deadline (gatherDies s r obj) ok, obj with
  | some s, _ => s
  | none, none => gatherEnds s r 0x10
  | none, some o =>
    let lists := gatherLists s r d o
    let need := lists.flatMap (·.need)
    if !need.isEmpty then gatherFetch s r d.deadline need
    else
      let st := lists.foldl (fun a l => worse a l.status) 0
      if st.toNat ≥ 0x10 then gatherEnds (lists.foldl (fun s l => settleRead s r.hdr l) s) r st
      else runGather s old r d o lists

/-! ## Walks (R337 to R342) -/

/-- A walk descriptor. -/
structure WalkCmd where
  seeds : Nat
  hops : Nat
  places : Nat
  inl : Bool
  deadline : Nat
  fan : List Nat
  seedGfa : Nat
  outGfa : Nat
  deriving DecidableEq, Repr

/-- A descriptor read from a payload. -/
def parseWalk (bs : List Byte) : WalkCmd :=
  let w := wordAt bs
  { seeds := bits 63 58 (w 0) + 1, hops := bits 57 55 (w 0) + 1, places := bits 54 39 (w 0) + 1, inl := bit 38 (w 0),
    deadline := bits 31 16 (w 0), fan := (List.range 8).map (fun i => bits (63 - i % 4 * 16) (48 - i % 4 * 16) (w (1 + i / 4))),
    seedGfa := w 3, outGfa := w 4 }

/-- Bytes of a result record (R340). -/
def WalkCmd.outBytes (d : WalkCmd) : Nat := 16 + 8 * d.places

/-- A request that R338 and R340 allow. -/
def walkOk (s : State) (h : Header) (d : WalkCmd) (len : Nat) : Bool :=
  decide (64 ≤ len) && decide (1 ≤ d.deadline ∧ d.deadline ≤ 4096) && (d.fan.take d.hops).all (fun f => decide (1 ≤ f ∧ f ≤ 1024))
    && (if d.inl then decide (64 + 4 * d.seeds ≤ len) else !rangeElsewhere s h d.seedGfa (4 * d.seeds))
    && (if d.outGfa = 0 then decide (d.outBytes ≤ 4096) else !rangeElsewhere s h d.outGfa d.outBytes)

/-- A walk as it runs: places in order (node, hop, parent), nodes seen, skips and bad edges, and what its reads met. -/
structure Walk where
  places : List (Nat × Nat × Nat)
  seen : List Nat
  skips : Nat
  bad : Nat
  viols : Nat
  status : BitVec 8
  need : List (Nat × Nat × Nat)
  poisons : List (Nat × Nat × Nat × Bool)
  pages : List (Nat × Nat)
  deriving DecidableEq, Repr

/-- Whether a walk can go no further until blocks arrive, or has met a failed read. -/
def Walk.stopped (w : Walk) : Bool := !w.need.isEmpty || decide (w.status.toNat ≥ 0x10)

/-- Read bytes for a walk. -/
def Walk.read (s : State) (h : Header) (w : Walk) (addr len : Nat) : List Byte × Walk :=
  let o := readOperand s h addr len
  (o.bytes, { w with viols := w.viols + o.viols, status := worse w.status o.status, need := w.need ++ o.need, poisons := w.poisons ++ o.bad, pages := w.pages ++ o.pages })

/-- Whether a node is deleted: its bit of the tombstone bitmap (R337). -/
def Walk.deleted (s : State) (h : Header) (o : GatherObj) (w : Walk) (n : Nat) : Bool × Walk :=
  let (bs, w) := w.read s h (o.delmap + n / 8) 1
  (bit (n % 8) (beNat bs), w)

/-- One seed. -/
def Walk.seed (s : State) (h : Header) (o : GatherObj) (max : Nat) (w : Walk) (n : Nat) : Walk :=
  if w.stopped ∨ w.places.length ≥ max ∨ w.seen.contains n = true then w
  else
    let w := { w with seen := n :: w.seen }
    let (gone, w) := Walk.deleted s h o w n
    if w.stopped then w
    else if gone then { w with skips := w.skips + 1 }
    else { w with places := w.places ++ [(n, 0, 0xFFFF)] }

/-- The edges of a place from one entry of the edge array on; the fuel counts the entries left. -/
def Walk.edges (s : State) (h : Header) (o : GatherObj) (max cap hop parent : Nat) (fuel at' taken : Nat) (w : Walk) : Walk :=
  match fuel with
  | 0 => w
  | f + 1 =>
    if w.stopped ∨ taken ≥ cap ∨ w.places.length ≥ max then w
    else
      let (bs, w) := w.read s h (o.edges + 4 * at') 4
      let c := beNat bs
      if w.stopped then w
      else if c ≥ o.count then Walk.edges s h o max cap hop parent f (at' + 1) taken { w with skips := w.skips + 1, bad := w.bad + 1 }
      else if w.seen.contains c then Walk.edges s h o max cap hop parent f (at' + 1) taken w
      else
        let w := { w with seen := c :: w.seen }
        let (gone, w) := Walk.deleted s h o w c
        if w.stopped then w
        else if gone then Walk.edges s h o max cap hop parent f (at' + 1) taken { w with skips := w.skips + 1 }
        else Walk.edges s h o max cap hop parent f (at' + 1) (taken + 1) { w with places := w.places ++ [(c, hop, parent)] }

/-- Expand one place: its offsets, then its edges (R337, R339). -/
def Walk.expand (s : State) (h : Header) (o : GatherObj) (d : WalkCmd) (hop : Nat) (w : Walk) (p : (Nat × Nat × Nat) × Nat) : Walk :=
  if w.stopped ∨ w.places.length ≥ d.places then w
  else
    let (bs, w) := w.read s h (o.base + 8 * p.1.1) 16
    let lo := beNat (bs.take 8)
    let hi := beNat (bs.drop 8)
    if w.stopped then w
    else if hi < lo then { w with bad := w.bad + 1 }
    else Walk.edges s h o d.places (d.fan.getD (hop - 1) 0) hop p.2 (hi - lo) lo 0 w

/-- One hop: every place of the hop before it, in result order. -/
def Walk.hop (s : State) (h : Header) (o : GatherObj) (d : WalkCmd) (w : Walk) (hop : Nat) : Walk :=
  (w.places.zipIdx.filter (fun p => p.1.2.1 + 1 == hop)).foldl (Walk.expand s h o d hop) w

/-- The whole walk from its seeds. -/
def runWalk (s : State) (h : Header) (o : GatherObj) (d : WalkCmd) (seeds : List Nat) : Walk :=
  let w0 : Walk := { places := [], seen := [], skips := 0, bad := 0, viols := 0, status := 0, need := [], poisons := [], pages := [] }
  ((List.range d.hops).map (· + 1)).foldl (Walk.hop s h o d) (seeds.foldl (Walk.seed s h o d.places) w0)

/-- The result record (R340). -/
def walkRecord (d : WalkCmd) (w : Walk) : List Byte :=
  wordsBytes ([w.places.length * 2 ^ 32 + w.skips % 2 ^ 32, 0] ++ w.places.map (fun p => p.1 * 2 ^ 32 + p.2.1 * 2 ^ 28 + p.2.2)
    ++ List.replicate (d.places - w.places.length) 0xFFFFFFFFFFFFFFFF)

/-- A walk's status (R340). -/
def walkStatus (d : WalkCmd) (w : Walk) : BitVec 8 := if w.places.length < d.places then 1 else if w.skips > 0 then 2 else 0

/-- The service of a `GE_WALK` (R338 to R343). -/
def serveWalk (s : State) (old : Option (Nat × Nat)) (r : Req) : State :=
  let h := r.hdr
  let d := parseWalk r.payload
  let obj := findObject s h true
  match gatherChecks s old r 5 d.deadline (gatherDies s r obj) (obj.isSome && walkOk s h d r.payload.length), obj with
  | some s, _ => s
  | none, none => gatherEnds s r 0x10
  | none, some o =>
    let sr : OpRead := if d.inl then { bytes := (r.payload.drop 64).take (4 * d.seeds), viols := 0, status := 0, need := [], bad := [], pages := [] }
      else readOperand s h d.seedGfa (4 * d.seeds)
    let seeds := wordsOf 4 sr.bytes
    if !sr.need.isEmpty then gatherFetch s r d.deadline sr.need
    else if sr.status.toNat ≥ 0x10 then gatherEnds (settleRead s h sr) r sr.status
    else if seeds.any (fun n => decide (n ≥ o.count)) then gatherEnds (settleRead s h sr) r 0x10
    else
      let w := runWalk s h o d seeds
      if !w.need.isEmpty then gatherFetch s r d.deadline w.need
      else
        let (s, wait) := if d.outGfa = 0 then (s, none) else readyOutput s h d.outGfa d.outBytes
        match wait with
        | some (why, he, page) => gatherHold s old r d.deadline why he page
        | none =>
          let s := settleRead s h { bytes := [], viols := sr.viols + w.viols, status := 0, need := [], bad := w.poisons, pages := sr.pages ++ w.pages }
          let s := s.updEngine .gather (gatherEngine s r) (fun e => { e with c0 := satAdd 16 e.c0 w.skips, c1 := satAdd 16 e.c1 w.bad })
          let s := dropDeadline (meterWork s h.comp .gather (workUnits s r .gather (gatherDies s r (some o)))) r
          if w.status.toNat ≥ 0x10 then completeStatus s r w.status
          else if d.outGfa = 0 then complete s r s.self (walkStatus d w) (walkRecord d w) false 0
          else
            let (s, st) := writeOperand s h d.outGfa (walkRecord d w)
            completeStatus s r (if st.toNat ≥ 0x10 then st else walkStatus d w)

/-! ## KV assembly (R335, R336) -/

/-- A KV assembly that fits its record. -/
def kvasmOk (s : State) (h : Header) (bs : List Byte) : Bool :=
  let w := wordAt bs
  let seq := bits 63 32 h.etag.toNat
  let x := seqOf s h.comp seq
  let lo := bits 63 32 (w 1)
  let hi := bits 31 0 (w 1)
  decide (64 ≤ bs.length) && decide (1 ≤ bits 31 16 (w 0) ∧ bits 31 16 (w 0) ≤ 4096) && (seqHome s h.comp seq).isSome
    && x.state == 1 && decide (bits 31 24 h.etag.toNat < x.nLayers) && decide (bits 63 58 (w 0) + bits 57 52 (w 0) + 1 ≤ x.hKv)
    && decide (x.basePos ≤ lo ∧ lo ≤ hi ∧ hi < x.basePos + x.stride * x.tpp) && (counterOk s h (.ofNat 64 (w 3))).isSome

/-- The service of a `GE_KVASM` at the record's home: it waits as an attention scan does (R336). A record outside rights gives nothing to copy,
silently (R83, R343, log 90). -/
def serveKvasm (s : State) (old : Option (Nat × Nat)) (r : Req) : State :=
  let w := wordAt r.payload
  let seq := bits 63 32 r.hdr.etag.toNat
  let outside := decide (64 ≤ r.payload.length) && !segRights s r.hdr seq
  match gatherChecks s old r 4 (bits 31 16 (w 0)) (dieOfPort r.port :: seqDies s r.hdr.comp seq) (outside || kvasmOk s r.hdr r.payload) with
  | some t => t
  | none =>
    if outside then complete (countViol (dropDeadline s r) r.hdr.comp r.hdr.src 4 1) r s.self 0 [] false (violTime r) else
    let k : KvScan := { req := r, seqId := seq, layer := bits 31 24 r.hdr.etag.toNat, coordinator := none, mergeId := 0, mergeEp := 0, segIdx := 0,
                        last := true, started := false, ended := 0, queries := [], assembly := true, deadline := r.day + bits 31 16 (w 0) }
    addScan (dropDeadline s r) k

/-- The GFA of a byte of a KV page. -/
def kvGfa (s : State) (c : BitVec 12) (n off : Nat) : Nat :=
  match (kvPool s c)[n / 2 ^ 14]? with | some ext => ext * 2 ^ 30 + n % 2 ^ 14 * 65536 + off | none => 2 ^ 50

/-- The runs of an assembly: for each head the K rows, then the V rows, of its positions (R336). -/
def assemblyRuns (s : State) (c : BitVec 12) (x : SeqRec) (layer : Nat) (bs : List Byte) : List (Nat × Nat × Nat) :=
  let w := wordAt bs
  let lo := bits 63 32 (w 1)
  let n := bits 31 0 (w 1) + 1 - lo
  let rb := rowBytes x
  (List.range (bits 57 52 (w 0) + 1)).flatMap (fun i =>
    [0, 1].flatMap (fun kv =>
      let ps := (List.range ((lo + n - 1 - x.basePos) / max x.tpp 1 + 1 - (lo - x.basePos) / max x.tpp 1)).map (· + (lo - x.basePos) / max x.tpp 1)
      ps.filterMap (fun p =>
        let from' := max lo (x.basePos + p * x.tpp)
        let upto := min (lo + n) (x.basePos + (p + 1) * x.tpp)
        (KMap.find x.map (mapIdx x layer (bits 63 58 (w 0) + i) p)).map (fun page =>
          (kvGfa s c page ((kv * x.tpp + (from' - x.basePos) % x.tpp) * rb), w 2 + ((2 * i + kv) * n + (from' - lo)) * rb, (upto - from') * rb)))))

/-- An assembly starts once its record holds `T_HI` (R316, R336): it raises `SCANS` and copies its rows. -/
def beginAssembly (s : State) (id : Nat) : State :=
  match KMap.find s.eng.kvScans id with
  | none => s
  | some k =>
    let c := k.req.hdr.comp
    let x := seqOf s c k.seqId
    let w := wordAt k.req.payload
    let dies := dieOfPort k.req.port :: seqDies s c k.seqId
    let av := engineAvail s k.req .gather dies
    if !k.assembly || k.started || !scanReady s id k || av == .wait then s
    else if av == .absent || !kvasmOk s k.req.hdr k.req.payload then failScan s id k 0x10
    else match counterOk s k.req.hdr (.ofNat 64 (w 3)) with
      | none => failScan s id k 0x10
      | some place =>
        let s := if place ≥ 2 ^ 50 then countViol s c k.req.hdr.src 4 1 else s
        let s := putSeq s c k.seqId { x with scans := x.scans + 1 }
        let s := s.setEng { s.eng with kvScans := KMap.put s.eng.kvScans id { k with started := true, ended := x.basePos + seqLen x k.layer } }
        startCopy (meterWork s c .gather (workUnits s k.req .gather dies)) k.req place
          (assemblyRuns s c x k.layer k.req.payload) (bit 51 (w 0)) (.ofNat 16 (bits 50 35 (w 0))) (some id) (k.seqId / 1024)

/-- Assemblies whose copies have ended lower `SCANS` and go (R316, R336). -/
def settleAssemblies (s : State) : State :=
  let ended := s.eng.kvScans.filter (fun k => k.2.assembly && k.2.started && !s.home.copies.any (fun c => c.2.scanOf == some k.1))
  if ended.isEmpty then s
  else drainKv (ended.foldl (fun s k =>
    let x := seqOf s k.2.req.hdr.comp k.2.seqId
    let s := putSeq s k.2.req.hdr.comp k.2.seqId { x with scans := x.scans - 1 }
    s.setEng { s.eng with kvScans := KMap.del s.eng.kvScans k.1 }) s)

/-! ## Deadlines (R316, R343) -/

/-- The dies that take a part of a command (R11). -/
def reqDies (s : State) (r : Req) : List Nat :=
  let op := r.hdr.opcode.toNat
  if op = 0x48 then warrenDies s r.hdr.comp (.ofNat 24 (bits 63 40 r.hdr.etag.toNat))
  else if op = 0x49 then seqDies s r.hdr.comp (attnSeq r.payload)
  else if op = 0x53 then dieOfPort r.port :: seqDies s r.hdr.comp (bits 63 32 r.hdr.etag.toNat)
  else if op = 0x54 then gatherDies s r (findObject s r.hdr true)
  else if 0x50 ≤ op ∧ op ≤ 0x52 then gatherDies s r (findObject s r.hdr false)
  else bothDies

/-- Take a request out of every place where it waits. -/
def forgetReq (s : State) (r : Req) : State :=
  let s := s.setHome { s.home with held := KMap.keep s.home.held (fun _ h => h.req != r),
                                   operandWaits := KMap.keep s.home.operandWaits (fun _ w => w.req != r) }
  s.setEng { s.eng with queue := KMap.keep s.eng.queue (fun _ q => q.req != r) }

/-- A request's deadline has come: it completes `TIMEOUT` if it has not finished. A scan that has started goes on unless it is
an assembly, and a search of several modules closes by its chunks' deadlines. -/
def deadlineComes (s : State) (id : Nat) : State :=
  match KMap.find s.eng.gwaits id, KMap.find s.eng.kvScans id, KMap.find s.eng.searches id with
  | some w, _, _ => if s.day < w.deadline then s else gatherEnds (forgetReq s w.req) w.req 0x50
  | none, some k, _ =>
    if s.day < k.deadline ∨ (k.started = true ∧ k.assembly = false) ∨ k.coordinator.isSome = true then s
    else
      let mine := s.home.copies.filter (fun c => c.2.scanOf == some id)
      let s := mine.foldl (fun s c =>
        addHold (s.setHome { s.home with copies := KMap.del s.home.copies c.1 }) (c.2.counter / 2 ^ 30) (c.2.counter / 65536 % 2 ^ 14) false) s
      failScan s id k 0x50
  | none, none, some x =>
    if s.day < x.deadline ∨ x.coordinator = false ∨ s.eng.chunks.any (fun c => c.2.search == some id) then s
    else
      let e := (reqUnits s x.req .score).headD 0
      failSearch (s.updEngine .score e (fun e => { e with c0 := satAdd 16 e.c0 1 })) id 0x50
  | none, none, none => s

end Sys2Proof.Machine
end

