-- ==== Sys2Proof/Machine/Tiers.lean ====
section
/-! DEFINITION. Moves of pages between tiers: budgets and precedence, copying, the flip, octets, prefetch calendars, demotion
below the floor, and what a tray or lender answers (R181 to R195, R207 to R210, R217, R223, R412, R509). -/

namespace Sys2Proof.Machine

/-! ## Places -/

/-- The Tier engine of a move: that of its T1 stack (R225). -/
def moveEngine (src dst : Loc) : Nat :=
  match src, dst with | .t1 k _, _ => k | _, .t1 k _ => k | _, _ => 0

/-- The pages that move with a page: the mapped pages of its octet under codec F (R217). -/
def movePages (s : State) (he page : Nat) : List Nat :=
  if isF (s.pte he page).codec.toNat then
    ((List.range 8).map (page / 8 * 8 + ·)).filter (fun q => (s.pte he q).state == .resident && (s.pte he q).loc.tier == (s.pte he page).loc.tier)
  else [page]

/-- Every place that a page, a move or a source not yet freed takes, with its units. -/
def placesTaken (s : State) : List (Loc × Nat) :=
  s.home.exts.flatMap (fun e => (e.2.pages.filter (fun p => p.2.state != .unmapped)).map (fun p =>
      (octetBaseLoc p.2.codec.toNat p.1 p.2.loc, moveUnits p.2.codec.toNat)))
    ++ s.home.moves.map (fun m => let c := (s.pte m.2.homeExt m.2.page).codec.toNat
      (octetBaseLoc c m.2.page m.2.dst, moveUnits c))
    ++ s.home.olds.map (fun o => (o.2.loc, o.2.units)) ++ s.sweeps.filterMap (fun w => w.2.dest.map (fun l => (l, 1)))

/-- Tray pages in use at a tray. -/
def trayUsed (s : State) (ep : Ep) : List Nat :=
  (placesTaken s).flatMap (fun p => match p.1 with
    | .t2 e n => if e = ep then (List.range p.2).map (n + ·) else []
    | _ => [])

/-- Lend pages in use of a lend. -/
def lendUsed (s : State) (lend : Nat) : List Nat :=
  (placesTaken s).flatMap (fun p => match p.1 with
    | .t2n _ n l => if l = lend then (List.range p.2).map (n + ·) else []
    | _ => [])

/-- The lowest run of free numbers below a bound. -/
def freeUnits (fuel n bound units : Nat) (used : List Nat) : Option Nat :=
  match fuel with
  | 0 => none
  | f + 1 =>
    if n + units > bound then none
    else if (List.range units).any (fun i => used.contains (n + i)) then freeUnits f (n + 1) bound units used
    else some n

/-- The endpoints of the topology that are trays: their binding names no composition (R505). -/
def trayEps (s : State) : List Ep :=
  (s.alm.cur.ports.filter (fun p => !p.2.fabric && p.2.comp.isNone)).map (fun p => p.2.ep)

/-- The tray page of a demotion that names none: the first tray of this module, its lowest free pages (log 28). -/
def pickTray (s : State) (units : Nat) : Option Loc :=
  (trayEps s).findSome? (fun ep =>
    let used := trayUsed s ep
    (freeUnits (used.length + 1) 0 (2 ^ 40) units used).map (fun n => Loc.t2 ep n))

/-- A lend with room for a composition's page (R204, R207). -/
def pickLend (s : State) (c : BitVec 12) (units : Nat) : Option Loc :=
  if (match s.compEntry c with | some e => e.lendUse | none => false) then
    s.home.lends.findSome? (fun l =>
      if l.2.notice.isSome || l.2.ended then none
      else
        let used := lendUsed s l.1
        (freeUnits (used.length + 1) 0 l.2.pages units used).map (fun n => Loc.t2n l.2.lender n l.1))
  else none

/-- A free slot of the T0 slices that the Almanac leaves to pages. -/
def pickT0 (s : State) : Option Loc :=
  (s.alm.cur.settings.pageSlices.filter (fun n => (slicesOf s.variant) > n)).findSome? (fun slice =>
    let used := KMap.getD s.home.usedT0 slice []
    let k := firstFree (used.length + 1) 0 used
    if k < 256 then some (Loc.t0 slice k) else none)

/-- Pages of a composition that lie in T0 or are on their way there (R183). -/
def t0Pages (s : State) (c : BitVec 12) : Nat :=
  ((s.home.exts.filter (fun e => e.2.comp == c)).map (fun e =>
    (e.2.pages.filter (fun p => p.2.state == .resident && p.2.loc.tier == .t0)).length)).sum
    + (s.home.moves.filter (fun m => (match s.homeExt m.2.homeExt with | some x => x.comp == c | none => false)
        && (m.2.src.tier == .t0 || m.2.dst.tier == .t0))).length

/-- A T1 place for a move: same stack for a channel's retirement, above the floor except for withdrawals, retirements and
promotions on write (R184, R188, R412). -/
def pickT1 (s : State) (kind : MoveKind) (src : Loc) (units : Nat) : Option Loc :=
  if kind = .retire then
    match src with
    | .t1 k _ => (freeRunFrom s k units (frameFuel s k units) 0).map (fun f => .t1 k f)
    | _ => none
  else if (kind = .prefetch ∨ kind = .den) ∧ freeFrames s < s.alm.cur.settings.t1FreeFloor + units then none
  else (allocFrames s units).map (fun p => .t1 p.1 p.2)

/-- The tier that a move's next step reaches: a page passes through T1, but from T2n to T2 on a lend's withdrawal (R172). -/
def nextTier (kind : MoveKind) (src dst : Tier) : Tier :=
  match src, dst with
  | .t2, .t0 => .t1 | .t2n, .t0 => .t1 | .t0, .t2 => .t1 | .t0, .t2n => .t1
  | .t2, .t2n => .t1
  | .t2n, .t2 => if kind = .withdraw then .t2 else .t1
  | _, d => d

/-- The T1 frames that waiting orders will take: those that bring a page up, an octet counted once (R184, R207). -/
def waitingFrames (s : State) : Nat :=
  ((s.home.orders.filter (fun o =>
    let p := s.pte o.2.homeExt o.2.page
    p.loc.lower && nextTier o.2.kind p.loc.tier o.2.dest == .t1
      && !s.home.orders.any (fun x => decide (x.1 < o.1) && x.2.homeExt == o.2.homeExt && samePlace s o.2.homeExt x.2.page o.2.page))).map
    (fun o => moveUnits (s.pte o.2.homeExt o.2.page).codec.toNat)).sum

/-! ## Starting a move (R181 to R185) -/

/-- A budget of moves under the throttle step in force (R487). -/
def throttled (s : State) (n : Nat) : Nat := if s.power.step ≥ 3 then 0 else if s.power.step = 2 then n / 2 else n

/-- Whether the Day's budget of a move's direction has room for some pages (R181, R182). -/
def budgetOk (s : State) (kind : MoveKind) (src dst : Tier) (n : Nat) : Bool :=
  let st := s.alm.cur.settings
  if kind ≠ .prefetch ∧ kind ≠ .den then true
  else match src, dst with
    | .t2, .t1 => decide (s.home.upToday + n ≤ throttled s st.upPagesDay)
    | .t2n, .t1 => decide (s.home.upToday + n ≤ throttled s st.upPagesDay)
    | .t1, .t2 => decide (s.home.downToday + n ≤ throttled s st.downPagesDay)
    | .t1, .t2n => decide (s.home.downToday + n ≤ throttled s st.downPagesDay)
    | .t1, .t1 => true
    | .t2n, .t2 => true
    | _, _ => decide (s.home.t0Today + n ≤ throttled s st.t0PagesDay)

/-- Count pages against the budget of their direction (R182). -/
def countBudget (s : State) (src dst : Tier) (n : Nat) : State :=
  let h := s.home
  match src, dst with
  | .t2, .t1 => s.setHome { h with upToday := h.upToday + n }
  | .t2n, .t1 => s.setHome { h with upToday := h.upToday + n }
  | .t1, .t2 => s.setHome { h with downToday := h.downToday + n }
  | .t1, .t2n => s.setHome { h with downToday := h.downToday + n }
  | .t1, .t1 => s
  | .t2n, .t2 => s
  | _, _ => s.setHome { h with t0Today := h.t0Today + n }

/-- Mark a destination as taken. -/
def takeLoc (s : State) (l : Loc) (units : Nat) : State :=
  match l with
  | .t0 slice slot => s.setHome { s.home with usedT0 := KMap.upd s.home.usedT0 slice [] (fun u => u ++ [slot]) }
  | .t1 k f => takeFrames s k f units
  | .t2n _ p lend => s.setHome { s.home with lends := s.home.lends.map (fun x =>
      if x.1 = lend then (x.1, { x.2 with used := x.2.used ++ (List.range units).map (p + ·) }) else x) }
  | .t2 .. => s

/-- Whether no frame of a page's slot may be read any more (R405). -/
def pageRevoked (s : State) (he : Nat) : Bool :=
  match s.homeExt he with
  | some x => (match KMap.find s.kp.slots (s.comp x.comp).keySlot.toNat with | some k => k.state == 3 | none => false)
  | none => true

/-- Whether an extent homed here is draining or revoked: no new move of its pages starts (R367). -/
def extentLeaving (s : State) (he : Nat) : Bool :=
  match s.homeExt he with
  | some x => (s.comp x.comp).rev.any (fun r => r.2.home == s.self && r.2.homeExt == he)
  | none => true

/-- Whether an ordered move may start for its page: its extent is not leaving, the page is resident elsewhere, no counter holds it in T0, a pinned page is
not demoted by the Den, and no page under codec F goes to T0 (R155, R184, R210). -/
def moveAllowed (s : State) (o : MoveOrder) (d : Tier) : Bool :=
  let ps := movePages s o.homeExt o.page
  ps.all (fun q =>
    let p := s.pte o.homeExt q
    p.state == .resident && (p.loc.tier != d || o.kind == .retire) && p.hold == 0
      && !(p.loc.tier == .t0 && o.kind == .den && p.pin) && !((d == .t2 || d == .t2n) && p.pin && o.kind == .den)
      && !(isF p.codec.toNat && d == .t0) && !(p.anchor && d != .t1))
    && !ps.isEmpty && !pageRevoked s o.homeExt && !extentLeaving s o.homeExt

/-- Where an ordered move goes, if a place is free. -/
def pickDest (s : State) (o : MoveOrder) (d : Tier) : Option Loc :=
  let p := s.pte o.homeExt o.page
  let units := moveUnits p.codec.toNat
  match d with
  | .t0 =>
    match s.homeExt o.homeExt with
    | some x =>
      let grant := match s.compEntry x.comp with | some e => e.t0Grant | none => 0
      if t0Pages s x.comp < 256 * grant then pickT0 s else none
    | none => none
  | .t1 => pickT1 s o.kind p.loc units
  | .t2 => if o.ep = 0 then pickTray s units
      else if (List.range units).any (fun i => (trayUsed s o.ep).contains (o.trayPage + i)) then none else some (.t2 o.ep o.trayPage)
  | .t2n => match s.homeExt o.homeExt with | some x => pickLend s x.comp units | none => none

/-- The stored bytes of a page in T0 or T1 in the form that a frame to a tray carries: piece i of the page (R216, R223, R224). -/
def storedPiece (s : State) (he page i : Nat) : List Byte :=
  let p := s.pte he page
  let c := p.codec.toNat
  let base := (pageAddr c page p.loc).getD 0
  if isF c then Memory.readBytes s.mem (base + i * 4096) (min 4096 (pageStored c - i * 4096))
  else
    let t := s.blockTag he page i
    let bs := Memory.readBytes s.mem (base + i * 4096) 4096
    if c = 4 ∧ t.raw = false then padTo ((t.stored + 127) / 128 * 128) (encodeL (s.extCodec he).2 bs) else bs

/-- The pieces of a move's frames: those of its own page come first, and the first record of an octet also moves the unmapped pages of the
octet, each under its place in it (R217). -/
def restPiece (page i : Nat) : Nat := 16 * (1 + page % 8) + i

/-- The page and piece of a record's piece number. -/
def pieceOf (page k : Nat) : Nat × Nat := if k < 16 then (page, k) else (page / 8 * 8 + (k / 16 - 1), k % 16)

/-- Pieces of a page as frames of at most 4,096 bytes: 16, or fewer under codec F (R185, R217). -/
def pieceCount (codec : Nat) : Nat := (pageStored codec + 4095) / 4096

/-- Length of piece i to read from a tray. -/
def pieceLen (s : State) (he page i : Nat) : Nat :=
  let p := s.pte he page
  let c := p.codec.toNat
  if isF c then min 4096 (pageStored c - i * 4096)
  else if c = 4 then min 4096 (((s.blockTag he page i).stored + 127) / 128 * 128)
  else 4096

/-- Ask a tray or lender for the pieces of an octet's unmapped pages, or send them: the octet moves whole (R217). -/
def moveRest (s : State) (id he : Nat) (codec : BitVec 3) (src dst : Loc) (q : Nat) : State :=
  let c := codec.toNat
  (List.range (pieceCount c)).foldl (fun s i =>
    if src.lower then sendFetchAt s (.moveRead id (restPiece q i)) 6 he q codec (octetLoc c q src) (i * 4096) 4096
    else match trayAddr s c q (octetLoc c q dst) with
      | none => s
      | some (ep, a) =>
        let bs := Memory.readBytes s.mem ((pageAddr c q (octetLoc c q src)).getD 0 + i * 4096) 4096
        sendStore s (.moveWrite id (restPiece q i)) he q ep (a + i * 4096) (xtsPage s true c he q (i * 4096) bs)) s

/-- Open the move record of one page, and send the frames that a tray or lender takes part in (R185, R191). -/
def openMove (s : State) (he page : Nat) (dst : Loc) (kind : MoveKind) : State :=
  let p := s.pte he page
  let (id, s) := s.fresh
  let m : MoveRec := { homeExt := he, page := page, src := p.loc, dst := dst, dirty := [], passes := 0, holding := false, kind := kind, copied := [] }
  let s := (s.setHome { s.home with moves := KMap.put s.home.moves id m }).updPte he page (fun p => { p with state := .moving, move := id % 65536 })
  let c := p.codec.toNat
  if p.loc.lower then
    (List.range (pieceCount c)).foldl (fun s i =>
      let n := pieceLen s he page i
      if n = 0 then s else sendFetch s (.moveRead id i) 6 he page (i * 4096) n) s
  else match trayAddr s c page dst with
    | none => s
    | some (ep, a) =>
      (List.range (pieceCount c)).foldl (fun s i =>
        let bs := storedPiece s he page i
        if bs.isEmpty then s else sendStore s (.moveWrite id i) he page ep (a + i * 4096) (xtsPage s true c he page (i * 4096) bs)) s

/-- Start an ordered move if its budget, its record and its place allow it now; else it stays ordered (R182 to R185). An order that can never
start is dropped: the page is not there or already where it should be, codec F keeps out of T0 (R210), and a withdrawal is of a lent page. -/
def startMove (s : State) (id : Nat) : State :=
  match KMap.find s.home.orders id with
  | none => s
  | some o =>
    let p := s.pte o.homeExt o.page
    let d := nextTier o.kind p.loc.tier o.dest
    let ps := movePages s o.homeExt o.page
    let drop (s : State) : State := s.setHome { s.home with orders := KMap.del s.home.orders id }
    let void := p.state == .unmapped || p.state == .poisoned || p.state == .keyLost || (p.loc.tier == o.dest && o.kind != .retire)
      || (isF p.codec.toNat && o.dest == .t0) || (o.kind == .withdraw && p.loc.tier != .t2n)
    if void then drop s
    else if s.day < o.notBefore then s
    else if !moveAllowed s o d || !budgetOk s o.kind p.loc.tier d (if isF p.codec.toNat then 8 else 1) then s
    else match pickDest s o d with
      | none => s
      | some base =>
        let e := moveEngine p.loc base
        let opened := (s.home.moves.filter (fun m => moveEngine m.2.src m.2.dst == e)).length
        if opened + ps.length > s.alm.cur.settings.movesMax then s
        else
          let c := p.codec.toNat
          let s := takeLoc s base (moveUnits c)
          let s := countBudget s p.loc.tier d (if isF c then 8 else 1)
          let first := s.nextId
          let from' := octetBaseLoc c o.page p.loc
          let rest := if isF c then ((List.range 8).map (o.page / 8 * 8 + ·)).filter (fun q => !ps.contains q) else []
          let s := ps.foldl (fun s q => openMove s o.homeExt q (octetLoc c q base) o.kind) s
          let s := rest.foldl (fun s q => moveRest s first o.homeExt p.codec from' base q) s
          if d = o.dest then drop s else s

/-! ## The flip (R185, R186, R210, R217, R223, R228) -/

/-- Frames outstanding to the tray or lender for a move. -/
def moveWaits (s : State) (id : Nat) : Bool :=
  s.home.fetches.any (fun f => match f.2.why with | .moveRead k _ => k == id | .moveWrite k _ => k == id | _ => false)

/-- Bytes of T1 become T0 lines: a codec L block that does not decode poisons its 32 lines, and the page is plain there (R210,
R228). -/
def toT0 (s : State) (owner he page : Nat) (src dst : Loc) : State :=
  let p := s.pte he page
  let base := (pageAddr 0 page src).getD 0
  let there := (pageAddr 0 page dst).getD 0
  let bad := match src with | .t1 k f => frameBad s k f | _ => false
  (List.range 16).foldl (fun s i =>
    let t := s.blockTag he page i
    let lost := bad || (p.codec == 4 && (t.bpoison || t.escape.isSome))
    let s := if p.codec = 4 ∧ t.escape.isSome = true then decodeFailed s he page i (t.escape == some 2) else s
    let s := writeT0 s owner there (i * 4096) (if lost then zeros 4096 else Memory.readBytes s.mem (base + i * 4096) 4096)
    if lost then
      let ls := (List.range 32).map (fun l => he * 2 ^ 23 + page * 512 + i * 32 + l)
      s.setHome { s.home with poison := s.home.poison ++ ls.filter (fun l => !s.home.poison.contains l) }
    else s) s

/-- Store bytes that came from a tray in a T1 frame, as the page's codec keeps them there (R217, R223, R228). -/
def fromTray (s : State) (he page : Nat) (m : MoveRec) : State :=
  let p := s.pte he page
  let c := p.codec.toNat
  m.copied.foldl (fun s x =>
    let (q, i) := pieceOf page x.1
    let base := (pageAddr c q (octetLoc c q (octetBaseLoc c page m.dst))).getD 0
    let bs := xtsPage s false c he q (i * 4096) x.2
    if c = 4 then
      let t := s.blockTag he page i
      if t.raw ∨ t.bpoison then s.setMem (Memory.writeBytes s.mem (base + i * 4096) bs)
      else match decodeL t.stored bs with
        | (plain, none) => s.setMem (Memory.writeBytes s.mem (base + i * 4096) plain)
        | (_, some crc) => s.setBlockTag he page i { t with escape := some (if crc then 2 else 1) }
    else s.setMem (Memory.writeBytes s.mem (base + i * 4096) bs)) s

/-- Flip one page to its destination. -/
def flipPage (s : State) (id : Nat) (m : MoveRec) : State :=
  let he := m.homeExt
  let page := m.page
  let p := s.pte he page
  let c := p.codec.toNat
  let ext := (s.extCodec he).1
  let owner := match s.homeExt he with | some x => x.comp.toNat | none => 0x1FFF
  let s := match m.src, m.dst with
    | .t1 .., .t0 .. =>
      let s := toT0 s owner he page m.src m.dst
      s.updExt he (fun x => { x with blocks := KMap.keep x.blocks (fun b _ => decide (b / 16 ≠ page)) })
    | .t0 slice slot, .t1 .. =>
      let bs := readT0 s owner ((slice * 256 + slot) * 65536) 0 65536
      let s := s.setMem (Memory.writeBytes s.mem ((pageAddr 0 page m.dst).getD 0) bs)
      if ext = 4 then
        (List.range 16).foldl (fun s i => s.setBlockTag he page i (tagL (s.extCodec he).2 ((bs.drop (i * 4096)).take 4096))) s
      else s
    | .t1 .., .t1 .. =>
      let n := pageStored c
      s.setMem (Memory.writeBytes s.mem ((pageAddr c page m.dst).getD 0) (Memory.readBytes s.mem ((pageAddr c page m.src).getD 0) n))
    | .t2 .., .t1 .. => fromTray s he page m
    | .t2n .., .t1 .. => fromTray s he page m
    | _, _ => s
  let codec : BitVec 3 := match m.dst with | .t0 .. => 0 | .t1 .. => (if m.src.tier = .t0 then .ofNat 3 ext else p.codec) | _ => p.codec
  let s := s.updPte he page (fun p => { p with loc := m.dst, state := .resident, codec := codec, move := 0 })
  let e := moveEngine m.src m.dst
  let s := s.updTe e (fun t => { t with moves := satAdd 28 t.moves 1 })
  s.setHome { s.home with moves := KMap.del s.home.moves id,
                          orders := KMap.keep s.home.orders (fun _ o => !(o.homeExt == he && o.page == page && o.dest == m.dst.tier && o.kind != .retire)),
                          fetched := KMap.keep s.home.fetched (fun k _ => decide (k / 16 ≠ he * 2 ^ 14 + page)) }

/-- Whether a frame to a tray or lender is an access to a page, and no copy of it (R186). -/
def FetchWhy.isAccess (w : FetchWhy) : Bool :=
  match w with | .read _ => true | .operand .. => true | .piece .. => true | .hash .. => true | _ => false

/-- Whether a frame was translated to a place: its page's, or its octet's (R186). -/
def Fetch.isTo (f : Fetch) (base : Loc) : Bool := f.why.isAccess && octetBaseLoc f.codec.toNat f.page f.loc == base

/-- Accesses still translated to a place (R186). -/
def accessesTo (s : State) (base : Loc) : Nat := (s.home.fetches.filter (fun f => f.2.isTo base)).length

/-- Flip a group, each page's source left until the last access translated to it has ended (R185, R186). -/
def flipGroup (s : State) (g : List (Nat × MoveRec)) : State :=
  match g with
  | [] => s
  | (id, m) :: _ =>
    let c := (s.pte m.homeExt m.page).codec.toNat
    let from' := octetBaseLoc c m.page m.src
    let old : OldSource := { loc := from', units := moveUnits c, accesses := accessesTo s from' }
    let s := g.foldl (fun s x => flipPage s x.1 x.2) s
    s.setHome { s.home with olds := KMap.put s.home.olds id old }

/-- Between a lender and a tray the page has been read: its ciphertext goes to the new place as it is (R173, R207). -/
def relayMove (s : State) (id : Nat) (m : MoveRec) : State :=
  let c := (s.pte m.homeExt m.page).codec.toNat
  let s := s.setHome { s.home with moves := KMap.put s.home.moves id { m with passes := 1 } }
  m.copied.foldl (fun s x =>
    let (q, i) := pieceOf m.page x.1
    match trayAddr s c q (octetLoc c q (octetBaseLoc c m.page m.dst)) with
    | some (ep, a) => sendStore s (.moveWrite id x.1) m.homeExt q ep (a + i * 4096) x.2
    | none => s) s

/-- A pass of a move ends (R185): up to three more passes copy lines that became dirty, else the page flips, with its octet. -/
def endPass (s : State) (id : Nat) : State :=
  match KMap.find s.home.moves id with
  | none => s
  | some m =>
    let g := moveGroup s m
    if g.any (fun x => moveWaits s x.1) then s
    else if m.src.lower && m.dst.lower && m.passes == 0 then g.foldl (fun s x => relayMove s x.1 x.2) s
    else
      let n := m.passes + 1
      if m.dirty.length > 32 ∧ n < 4 then
        s.setHome { s.home with moves := KMap.put s.home.moves id { m with passes := n, dirty := [] } }
      else flipGroup s g

/-- Free a moved page's source once no access is translated to it (R186). -/
def freeSource (s : State) (id : Nat) : State :=
  match KMap.find s.home.olds id with
  | none => s
  | some o =>
    if o.accesses > 0 then s
    else dropLoc (s.setHome { s.home with olds := KMap.del s.home.olds id }) o.loc o.units

/-- A frame translated to a place has been answered: the source it was translated to counts it no more (R186). -/
def accessEnds (s : State) (f : Fetch) : State :=
  s.setHome { s.home with olds := KMap.mapVals s.home.olds (fun o => if f.isTo o.loc then { o with accesses := o.accesses - 1 } else o) }

/-! ## Demotion and prefetch (R184, R194, R195) -/

/-- Whether a page is the one that stands for all that move with it: itself, or the first mapped page of its octet (R217). -/
def octetLead (s : State) (he page : Nat) : Bool := (movePages s he page).head? == some page

/-- The T1 pages that may be demoted, the coldest first, and of equal heat the lowest GFA: `PIN` and `WRITTEN` clear and no hold (R184). -/
def coldPages (s : State) : List (Nat × Nat) :=
  let cold := s.home.exts.flatMap (fun e => (e.2.pages.filter (fun p => p.2.state == .resident && p.2.loc.tier == .t1 && !p.2.pin && !p.2.written
      && !p.2.anchor && p.2.hold == 0 && octetLead s e.1 p.1)).map (fun p => (p.2.heat, e.2.idx * 2 ^ 14 + p.1, e.1, p.1)))
  (sortBy (fun a b => decide (a.1 < b.1 ∨ (a.1 = b.1 ∧ a.2.1 ≤ b.2.1))) cold).map (fun x => (x.2.2.1, x.2.2.2))

/-- A state with the place that a demotion to a lend would take counted as taken, where a lend has room. -/
def setAside (s : State) (he page : Nat) : Option State :=
  let units := moveUnits (s.pte he page).codec.toNat
  ((s.homeExt he).bind (fun x => pickLend s x.comp units)).map (fun l =>
    s.setHome { s.home with olds := KMap.put s.home.olds (2 ^ 60 + s.home.olds.length) { loc := l, units := units, accesses := 0 } })

/-- What demotions still to order find: the state itself, the lends as earlier orders leave them, and the frames still wanted. -/
structure Demotion where
  state : State
  room : State
  short : Nat
  deriving DecidableEq, Repr

/-- One page is ordered down: to a lend while one has room, else to a tray (R184). -/
def Demotion.next (d : Demotion) (q : Nat × Nat) : Demotion :=
  if d.short = 0 then d
  else
    let o (t : Tier) : MoveOrder := { homeExt := q.1, page := q.2, dest := t, ep := 0, trayPage := 0, kind := .den }
    let short := d.short - moveUnits (d.state.pte q.1 q.2).codec.toNat
    match setAside d.room q.1 q.2 with
    | some r => { state := orderMove d.state (o .t2n), room := r, short := short }
    | none => { d with state := orderMove d.state (o .t2), short := short }

/-- Demote the coldest pages until the floor would hold (R184). Orders to lends that wait already have their room. -/
def demoteCold (s : State) : State :=
  let room := s.home.orders.foldl (fun r o => if o.2.dest = .t2n then (setAside r o.2.homeExt o.2.page).getD r else r) s
  ((coldPages s).foldl Demotion.next { state := s, room := room, short := s.alm.cur.settings.t1FreeFloor - freeFrames s }).state

/-- A prefetch calendar's entry (R192): its first page, how many, and whether they go to T0. -/
def pfEntry (w : W64 × W64) : Nat × Nat × Bool := (bits 63 16 w.1.toNat, bits 63 48 w.2.toNat, bit 47 w.2.toNat)

/-- The home extent and pages of a prefetch entry that lie here. -/
def prefetchPages (s : State) (c : BitVec 12) (e : Nat × Nat × Bool) : List (Nat × Nat) :=
  (List.range e.2.1).filterMap (fun i =>
    let gfa : W64 := .ofNat 64 ((e.1 + i) * 65536)
    (ownExtent s c (extOf gfa)).map (fun he => (he, pageOf gfa)))

/-- The cursor has taken its next value (R194, R195): the window's pages are pinned, those out of their tier are ordered, others are
unpinned, and an entry reached too early counts as late. -/
def cursorMoved (s : State) (c : BitVec 12) : State :=
  match (s.compEntry c).bind (·.prefetch), KMap.getD s.home.cursor c.toNat [] with
  | some p, v :: later =>
    let s := s.setHome { s.home with cursor := KMap.put s.home.cursor c.toNat later }
    let n := p.entries.length
    if n = 0 then s
    else
      let at' (i : Nat) : List (Nat × Nat) := prefetchPages s c (pfEntry (p.entries.getD (i % n) (0, 0)))
      let target (i : Nat) : Tier := if (pfEntry (p.entries.getD (i % n) (0, 0))).2.2 then .t0 else .t1
      let there (d : Tier) (q : Nat × Nat) : Bool := let e := s.pte q.1 q.2
        e.state == .resident && e.loc.tier == d
      let window := (List.range (p.keep + p.lead + 1)).map (fun i => v + n * (p.keep + 1) - p.keep + i)
      let inWin := window.flatMap at'
      let all := (List.range n).flatMap at'
      let s := all.foldl (fun s q => s.updPte q.1 q.2 (fun e => { e with pin := inWin.contains q })) s
      let s := if (at' v).all (there (target v)) then s
        else s.updTe (match (at' v).head? with | some q => tierEngineOf (s.pte q.1 q.2).loc | none => 0) (fun t => { t with pfLate := satAdd 16 t.pfLate 1 })
      let ahead := (List.range p.lead).map (· + 1)
      let again := ahead.flatMap (fun i => at' (v + i))
      let s := s.setHome { s.home with orders := KMap.keep s.home.orders (fun _ o => !(o.kind == .prefetch && again.contains (o.homeExt, o.page))) }
      ahead.foldl (fun s i =>
        (at' (v + i)).foldl (fun s q =>
          if there (target (v + i)) q then s
          else orderMove s { homeExt := q.1, page := q.2, dest := target (v + i), ep := 0, trayPage := 0, kind := .prefetch }) s) s
  | _, _ => s

/-! ## Lends (R204 to R208) -/

/-- A page can no longer be read where it lies: it becomes poisoned (R178, R208). -/
def poisonPage (s : State) (he page : Nat) : State :=
  let s := match moveOf s he page with | some (id, _) => abandonMove s id false | none => s
  s.updPte he page (fun p => { p with state := .poisoned, move := 0 })

/-- Pages that lie at an endpoint, by home extent and page. -/
def pagesAt (s : State) (here : Loc → Bool) : List (Nat × Nat) :=
  s.home.exts.flatMap (fun e => (e.2.pages.filter (fun p => here p.2.loc && (p.2.state == .resident || p.2.state == .moving))).map (fun p => (e.1, p.1)))

/-- Whether a place lies in a lend. -/
def inLend (lend : Nat) (l : Loc) : Bool := match l with | .t2n _ _ k => k == lend | _ => false

/-- Withdraw a lend: no further page is placed in it, and every page of it is ordered to T1, or to T2 when T1 would fall below its floor
(R207). -/
def withdrawLend (s : State) (lend : Nat) : State :=
  let s := (s.home.moves.filter (fun m => inLend lend m.2.dst)).foldl (fun s m => abandonMove s m.1 false) s
  ((pagesAt s (inLend lend)).filter (fun q => (s.pte q.1 q.2).state == .moving || octetLead s q.1 q.2)).foldl (fun s q =>
    let units := moveUnits (s.pte q.1 q.2).codec.toNat
    let low := freeFrames s < s.alm.cur.settings.t1FreeFloor + waitingFrames s + units
    let d : Tier := if low ∧ (pickTray s units).isSome = true then .t2 else .t1
    orderMove s { homeExt := q.1, page := q.2, dest := d, ep := 0, trayPage := 0, kind := .withdraw }) s

/-- The notice that ends a lend, with `RELEASE` set. -/
def sendRelease (s : State) (lend : Nat) (ep : Ep) : State := sendPlain s 0x84 ep (wordsBytes [lend * 2 ^ 56 + 2 ^ 55, 0])

/-! ## Sweeps at trays and lenders (R401, R498) -/

/-- The slot's watermark just past a page. -/
def pastPage (s : State) (slot he page : Nat) : State :=
  match KMap.find s.kp.slots slot with
  | some k => s.setKp { s.kp with slots := KMap.put s.kp.slots slot { k with sweepExt := he, sweepPage := page + 1 } }
  | none => s

/-- Stored bytes of a page that came back under the old key go to their new place under the new one. -/
def sweepRewrite (s : State) (slot : Nat) (f : Fetch) (payload : List Byte) : State :=
  let c := f.codec.toNat
  match (KMap.find s.sweeps slot).bind (·.dest), trayAddr s c f.page (s.pte f.homeExt f.page).loc with
  | some d, some (_, from') =>
    let off := f.frame.hdr.addr.toNat - from'
    let plain := xtsPage s false c f.homeExt f.page off payload
    match trayAddr s c f.page d with
    | some (ep, a) => sendStore s (.sweepFrame slot) f.homeExt f.page ep (a + off) (xtsPage (pastPage s slot f.homeExt f.page) true c f.homeExt f.page off plain)
    | none => s
  | _, _ => s

end Sys2Proof.Machine
end

