-- ==== Sys2Proof/Machine/Serve.lean ====
section
/-! DEFINITION. The service of every request at its home or engine, work that waits and is tried again, and the completions of
the module's own requests (R122, R142 to R153, R156, R191, R226, R509). -/

namespace Sys2Proof.Machine

/-- The service of a request at its destination, by opcode; `old` names the wait it comes back from, with its arrival Day. -/
def serve (s : State) (old : Option (Nat × Nat)) (r : Req) : State :=
  let op := r.hdr.opcode.toNat
  if op = 0x10 ∨ op = 0x11 ∨ op = 0x14 ∨ isAtomic op = true then serveMem s old r
  else if op = 0x15 then serveAppend s r
  else if op = 0x30 then serveCpStart s r
  else if op = 0x31 then serveCpData s old r
  else if op = 0x32 then serveCtrArm s r
  else if op = 0x40 then serveContrib s old r
  else if op = 0x42 then serveReCmd s old r
  else if op = 0x48 then serveSearch s old r
  else if op = 0x49 then serveAttn s old r
  else if op = 0x50 ∨ op = 0x51 ∨ op = 0x52 then serveGather s old r
  else if op = 0x53 then serveKvasm s old r
  else if op = 0x54 then serveWalk s old r
  else if op = 0x41 then serveResult s r
  else if op = 0x4A then servePartial s r
  else completeStatus s r 0x10

/-! ## Work that waits -/

/-- A held request as it is tried again: the rights of one that reads or writes memory have been judged (R27). -/
def heldAgain (x : HeldReq) : Req :=
  let op := x.req.hdr.opcode.toNat
  if op = 0x10 ∨ op = 0x11 ∨ op = 0x14 ∨ op = 0x31 ∨ isAtomic op = true then { x.req with judged := some (.ofNat 20 x.homeExt) } else x.req

/-- Try every held request again, in the order they were held (R142, R185, R188, R226). -/
def retryHeld (s : State) : State :=
  s.home.held.foldl (fun s p =>
    match KMap.find s.home.held p.1 with
    | none => s
    | some x => serve (s.setHome { s.home with held := KMap.del s.home.held p.1 }) (some (p.1, x.day)) (heldAgain x)) s

/-- Try every frame of the engines' input queues again (R245, R495). -/
def retryQueue (s : State) : State :=
  s.eng.queue.foldl (fun s p =>
    match KMap.find s.eng.queue p.1 with
    | none => s
    | some x => serve (s.setEng { s.eng with queue := KMap.del s.eng.queue p.1 }) (some (p.1, x.req.day)) x.req) s

/-- Answer every search and attention request that only waited for its output pages. -/
def retryResults (s : State) : State :=
  let s := s.eng.searches.foldl (fun s p => finishSearch s p.1) s
  s.eng.attns.foldl (fun s p => finishAttn s p.1) s

/-- Work that fails with a status while it waits for operands, whatever kind it is (R191, R322, R509). -/
def failWork (s : State) (r : Req) (status : BitVec 8) : State :=
  let s := forgetReq s r
  match KMap.first? s.eng.kvScans (fun _ k => k.req == r && k.started), KMap.first? s.eng.kvHeld (fun _ h => h.req == r),
      KMap.first? s.eng.searches (fun _ x => x.req == r) with
  | some (id, k), _, _ => failScan s id k status
  | none, some (id, _), _ => drainKv (completeStatus (s.setEng { s.eng with kvHeld := KMap.del s.eng.kvHeld id }) r status)
  | none, none, some (id, _) => failSearch s id status
  | none, none, none => gatherEnds s r status

/-- All blocks of a waiting piece of work are here: it runs again, and blocks it still needs stay (R191). -/
def resumeWork (s : State) (id : Nat) (w : OperandWait) : State :=
  let s := s.setHome { s.home with operandWaits := KMap.del s.home.operandWaits id }
  if s.eng.kvScans.any (fun k => k.2.req == w.req && k.2.started) then s
  else if s.eng.kvHeld.any (fun h => h.2.req == w.req) then drainKv s
  else
    let s := serve s (some (id, w.req.day)) w.req
    s.setHome { s.home with operandWaits := KMap.mapVals s.home.operandWaits (fun x =>
      if x.req = w.req then { x with blocks := x.blocks ++ w.blocks } else x) }

/-- Blocks that no work waits for or scans any more are dropped. -/
def dropFetched (s : State) : State :=
  if s.home.fetched.isEmpty || s.eng.kvScans.any (fun k => k.2.started && !k.2.assembly) then s
  else
    let live := s.home.operandWaits.flatMap (fun w => w.2.blocks)
    s.setHome { s.home with fetched := KMap.keep s.home.fetched (fun k _ => live.contains k) }

/-! ## Completions of the module's own requests -/

/-- A back-invalidate has been completed (R142): with the last, the line leaves its old state. -/
def binvDone (s : State) (line : Nat) (ep : Ep) : State :=
  match KMap.find s.home.binv line with
  | none => s
  | some b =>
    let left := b.await.filter (· != ep)
    let d := KMap.find s.home.dir line
    let holders := match d with | some x => x.holders.filter (· != ep) | none => []
    let s := s.setHome { s.home with binv := if left.isEmpty then KMap.del s.home.binv line else KMap.put s.home.binv line { b with await := left } }
    match d with
    | none => s
    | some x =>
      if left.isEmpty ∧ (holders.isEmpty ∨ b.evict = true ∨ x.state = .o) then delDir s line
      else if left.isEmpty then s.setHome { s.home with dir := KMap.put s.home.dir line { x with holders := holders, broadcast := false } }
      else s.setHome { s.home with dir := KMap.put s.home.dir line { x with holders := if x.state = .o then x.holders else holders } }

/-- What waits for the promotion of a page, or of its octet, completes with a status (R189, R191, R509). -/
def failPromotion (s : State) (he page : Nat) (status : BitVec 8) : State :=
  (s.home.held.filter (fun h => h.2.why == .promote && h.2.homeExt == he && samePlace s he h.2.page page)).foldl (fun s h => failWork s h.2.req status) s

/-- A frame of a move has been answered with a failure: the move is abandoned with its octet, what waited for it completes, and a
withdrawal starts again at the next Day (R509). -/
def moveFails (s : State) (id : Nat) (m : MoveRec) (status : BitVec 8) : State :=
  let s := failPromotion (abandonMove s id false) m.homeExt m.page status
  if m.kind = .withdraw then
    orderMove s { homeExt := m.homeExt, page := m.page, dest := m.dst.tier, ep := 0, trayPage := 0, kind := .withdraw, notBefore := s.day + 1 }
  else s

/-- A tray or lender has answered a frame (R191, R405, R509). -/
def trayAnswer (s : State) (id : Nat) (f : Fetch) (status : BitVec 8) (payload : List Byte) : State :=
  let failed := decide (status.toNat ≥ 0x10)
  let asStatus : BitVec 8 := if status = 0x40 then 0x40 else 0x50
  let s := accessEnds (s.setHome { s.home with fetches := KMap.del s.home.fetches id }) f
  match f.why with
  | .read r =>
    let off := byteOf r.hdr.addr
    let first := if isF f.codec.toNat then off / 4096 * codecFSlot f.codec.toNat
      else if f.codec = 4 ∧ f.tag.raw = false then off / 4096 * 4096 else off / 128 * 128
    if keyRevoked s r.hdr then completeStatus s r 0x30
    else if failed then completeStatus s r asStatus
    else match blockOfAnswer s f.codec f.tag f.homeExt f.page first payload with
      | .data bs => complete s r s.self 0 ((bs.drop (off % 4096)).take r.hdr.length.toNat) false 0
      | .bad crc => completeStatus (decodeFailed s f.homeExt f.page (off / 4096) crc) r (if crc then 0x40 else 0x41)
      | .lost => completeStatus s r 0x40
  | .operand w blk =>
    match KMap.find s.home.operandWaits w with
    | none => s
    | some x =>
      if keyRevoked s x.req.hdr then failWork s x.req 0x30
      else if failed then failWork s x.req asStatus
      else
        let b := blk % 16
        let first := if isF f.codec.toNat then b * codecFSlot f.codec.toNat else b * 4096
        match blockOfAnswer s f.codec f.tag f.homeExt f.page first payload with
        | .bad crc => failWork (decodeFailed s f.homeExt f.page b crc) x.req (if crc then 0x40 else 0x41)
        | .lost => failWork s x.req 0x40
        | .data bs =>
          let left := x.left.filter (· != id)
          let s := s.setHome { s.home with fetched := KMap.put s.home.fetched blk bs,
                                           operandWaits := KMap.put s.home.operandWaits w { x with left := left } }
          if left.isEmpty then resumeWork s w { x with left := [] } else s
  | .piece c src dst len =>
    match KMap.find s.home.copies c with
    | none => s
    | some x =>
      let key := 2 ^ 60 + id
      if keyRevoked s x.req.hdr then pumpCopy (pieceEnds s c key len 0x30) c
      else if failed then pumpCopy (pieceEnds s c key len asStatus) c
      else
        let off := src % 65536
        let first := if isF f.codec.toNat then off / 4096 * codecFSlot f.codec.toNat
          else if f.codec = 4 ∧ f.tag.raw = false then off / 4096 * 4096 else off / 128 * 128
        match blockOfAnswer s f.codec f.tag f.homeExt f.page first payload with
        | .bad crc => pumpCopy (pieceEnds (decodeFailed s f.homeExt f.page (off / 4096) crc) c key len (if crc then 0x40 else 0x41)) c
        | .lost => pumpCopy (pieceEnds s c key len 0x40) c
        | .data bs =>
          let x := { x with outstanding := x.outstanding.filter (fun p => p.1 != key) }
          let s := s.setHome { s.home with copies := KMap.put s.home.copies c x }
          pumpCopy (sendPiece s c x dst ((bs.drop (off % 4096)).take len)) c
  | .moveRead m i =>
    match KMap.find s.home.moves m with
    | none => s
    | some x =>
      if failed then moveFails s m x asStatus
      else s.setHome { s.home with moves := KMap.put s.home.moves m { x with copied := KMap.put x.copied i payload } }
  | .moveWrite m _ =>
    match KMap.find s.home.moves m with
    | none => s
    | some x => if failed then moveFails s m x asStatus else s
  | .hash v block =>
    match KMap.find s.home.pubs v with
    | none => s
    | some x =>
      if failed then s
      else
        let b := block % 16
        match blockOfAnswer s f.codec f.tag f.homeExt f.page (if isF f.codec.toNat then b * codecFSlot f.codec.toNat else b * 4096) payload with
        | .data bs => s.setHome { s.home with pubs := KMap.put s.home.pubs v { x with blocks := KMap.put x.blocks block bs } }
        | .bad crc => decodeFailed s f.homeExt f.page b crc
        | .lost => s
  | .scrubWrite _ =>
    -- a refused write is sent again on the schedule of R191
    if failed then s.setHome { s.home with fetches := KMap.put s.home.fetches id f } else s
  | .sweepFrame slot =>
    if failed then s.setHome { s.home with fetches := KMap.put s.home.fetches id f }
    else if f.frame.hdr.opcode = 0x10 then sweepRewrite s slot f payload else s

/-- The reply to a combined request reaches its members (R148, R153). -/
def combinedAnswer (s : State) (id : Nat) (status : BitVec 8) (payload : List Byte) : State :=
  match KMap.find s.xb.combine id with
  | none => s
  | some e =>
    let s := s.setXb { s.xb with combine := KMap.del s.xb.combine id }
    if e.isRead then
      e.members.foldl (fun s m =>
        let off := m.hdr.addr.toNat % 128
        complete s m e.home status (if status.toNat ≥ 0x10 then [] else (payload.drop off).take m.hdr.length.toNat) false 0) s
    else
      e.members.zipIdx.foldl (fun s m =>
        let w := wordAt payload (2 * m.2 + 2)
        let st : BitVec 8 := if status.toNat ≥ 0x10 then status else .ofNat 8 w
        let old := leBytes (atomicBytes m.1.hdr.opcode.toNat m.1.hdr.etag) (wordAt payload (2 * m.2 + 3))
        complete s m.1 e.home st (if st.toNat ≥ 0x10 then [] else old) true 0) s

/-- The request of the module's own that a completion answers: by `SRC` and `SEQ`, or where another module answers for the
destination, by what the completion echoes (R79). -/
def findOwn (s : State) (f : Frame) : Option (Nat × OwnReq) :=
  let echo (o : OwnReq) : Bool := o.opcode == f.hdr.opcode && o.addr == f.hdr.addr && o.etag == f.hdr.etag
  match KMap.find s.xb.own (pairKey f.hdr.src f.hdr.seq) with
  | some o => some (pairKey f.hdr.src f.hdr.seq, o)
  | none => KMap.first? s.xb.own (fun k o => k % 2 ^ 32 == f.hdr.seq.toNat && isModule s f.hdr.src && echo o)

/-- A completion whose destination is this module. A poisoned one is a lost reply, but a combined read's gives its members
`POISON` (R122, R148). -/
def ownCompletion (s : State) (f : Frame) : State :=
  match findOwn s f with
  | none => s
  | some (key, o) =>
    let lost := f.poisoned && (match o.why with
      | .combine e => (match KMap.find s.xb.combine e with | some x => !x.isRead | none => true)
      | _ => true)
    if lost then s
    else
      let st := if f.poisoned then 0x40 else f.hdr.status
      let failed := decide (st.toNat ≥ 0x10)
      let s := s.setXb { s.xb with own := KMap.del s.xb.own key }
      match o.why with
      | .binv line ep => binvDone s line ep
      | .fetch id =>
        match KMap.find s.home.fetches id with
        | some x => trayAnswer s id x st f.payload
        | none => s
      | .combine e => combinedAnswer s e st f.payload
      | .piece c len => pumpCopy (pieceEnds s c key len st) c
      | .search id _ => if failed then failSearch s id st else s
      | .attn id _ => if failed then failAttn s id st else s
      | .partial_ _ => s
      | .vote index query =>
        let w := wordAt f.payload
        let v : VoteIn := { src := f.hdr.src, term := bits 63 32 (w 0), granted := !failed && bit 31 (w 0), last := w 1, about := index, query := query }
        if failed then s else s.setCh { s.ch with inbox := s.ch.inbox ++ [v] }
      | .other => s

/-! ## Frames for this module itself -/

/-- The source and mode of a frame that comes from this module. -/
def ownReq (s : State) (f : Frame) : Req :=
  { hdr := f.hdr, payload := f.payload, port := ownPort, lseq := none, edge := false, day := s.day, cycle := s.time.cycle, poisoned := f.poisoned,
    strict := s.strict f.hdr.comp, entry := s.compEntry f.hdr.comp }

/-- One frame that the module has sent to itself. -/
def takeLoop (s : State) (f : Frame) : State :=
  if f.hdr.isResp then ownCompletion s f
  else
    let op := f.hdr.opcode.toNat
    let r := ownReq s f
    if noCompletionOps.contains op then serve s none r
    else match earlyCheck s false f.hdr with
      | some (st, bs) => complete s r s.self st bs false 0
      | none => serve s none r

/-- Take frames that the module has sent to itself, up to a number of them; the rest wait for the next command or cycle. -/
def drainLoop (fuel : Nat) (s : State) : State :=
  match fuel with
  | 0 => s
  | n + 1 =>
    match s.xb.loop with
    | [] => s
    | f :: rest => drainLoop n (takeLoop (s.setXb { s.xb with loop := rest }) f)

end Sys2Proof.Machine
end

