-- ==== Sys2Proof/Machine/Ingress.lean ====
section
/-! DEFINITION. Frames that arrive on a port: stamps and format checks at the edge, rights at the first hop, store order,
leases, combining, paths, and what every command does after its own effect (R46, R62, R71, R81, R86, R139, R147 to R163, R440,
R505, R506). -/

namespace Sys2Proof.Machine

/-! ## The edge (R70, R71, R81, R505) -/

/-- The binding of a logical port. -/
def State.bind (s : State) (port : Nat) : Option PortBind := KMap.find s.alm.cur.ports port

/-- The stamps of an edge port (R62, R71, R505). -/
def stampEdge (s : State) (b : PortBind) (h : Header) : Header :=
  let h := { h with src := b.ep, tstamp := s.stamp }
  match b.comp with
  | none => { h with comp := 0, tenant := 0, keySlot := 0, keyGen := 0, status := if h.isResp then h.status else 0 }
  | some c =>
    let slot := (s.comp c).keySlot
    { h with comp := c, tenant := b.tenant, keySlot := slot, keyGen := (KMap.getD s.kp.slots slot.toNat KeySlot.init).gen,
             status := if h.isResp then h.status else 0,
             flags := if !h.isResp && s.strict c then h.flags &&& ~~~flagMayVary else h.flags }

/-- Whether a length is one an opcode's payload may have (R69, R76). -/
def lengthOk (op : Nat) (etag : W64) (len : Nat) : Bool :=
  if op = 0x14 ∨ op = 0x31 then decide (1 ≤ len ∧ len ≤ 4096)
  else if op = 0x15 then decide (16 ≤ len ∧ len ≤ 4096)
  else if op = 0x18 then len == 0
  else if isAtomic op then len == atomicPayload op etag && len != 0
  else if op = 0x30 then len == 32
  else if op = 0x32 then len == 16
  else if op = 0x33 then len == 8
  else if op = 0x70 then decide (64 ≤ len ∧ len ≤ 4160)
  else decide (len ≤ 4096)

/-- Whether an address meets its opcode's alignment or boundary rule (R77, R138). -/
def addrOk (op : Nat) (etag addr : W64) (len : Nat) : Bool :=
  if op = 0x10 ∨ op = 0x11 ∨ op = 0x14 ∨ op = 0x15 then decide (addr.toNat % 4096 + len ≤ 4096)
  else if isAtomic op then addr.toNat % max 1 (atomicBytes op etag) == 0
  else true

/-- Check 1 of R86: whether an edge port can carry a frame (R69, R74, R81, R505). -/
def formatOk (s : State) (b : PortBind) (h : Header) (n : Nat) : Bool :=
  let op := h.opcode.toNat
  let read := decide (op = 0x10 ∨ op = 0x11)
  let len := h.length.toNat
  h.version == 1 && assignedOps.contains op
    && classCarries h.cls.toNat op false
    && (if read then decide (1 ≤ len ∧ len ≤ 4096) && n == 0 else len == n && lengthOk op h.etag len)
    && addrOk op h.etag h.addr len
    && (addressRouted op || (h.cls == 0 && (op == 0x40 || op == 0x70)) || op == 0x41 || assigned s h.dest)
    && (b.comp.isSome || op == 0x81 || op == 0x82)

/-- Count a malformed frame (R81). -/
def countMalformed (s : State) (port : Nat) : State := s.updPort port (fun p => { p with malformed := satAdd 64 p.malformed 1 })

/-! ## Scheduled frames (R43, R46) -/

/-- The flow that a TC0 frame belongs to here: its port, source and composition, in the template in force, at its cycle. -/
def flowAt (s : State) (port : Nat) (h : Header) : Option (Nat × Flow) :=
  let inForce (id : Nat) : Bool := match s.xb.template.bind (KMap.find s.alm.cur.templates) with
    | some t => t.runs.any (fun p => p.2.any (fun r => r.2.2 == id))
    | none => false
  KMap.first? s.alm.cur.flows (fun id f => f.inPort == port && f.src == h.src && f.comp == h.comp && inForce id
    && f.expected.any (fun e => decide (s.time.cycle ≤ e + 4 ∧ e ≤ s.time.cycle + 4)))

/-- Discard a TC0 frame that fits no flow (R46). -/
def misfit (s : State) (port : Nat) (h : Header) (mir : Option Nat) : State :=
  let o : Origin := { port := port, lseq := none, mir := mir, admitted := s.now }
  mirror (s.updPort port (fun p => { p with tc0Misfit := satAdd 64 p.tc0Misfit 1 })) h o 4 ownPort 0

/-! ## Coded groups at their encoder (R49 to R51) -/

/-- The key of a coded group. -/
def groupKey (flow group : Nat) : Nat := flow * 65536 + group

/-- A member's bytes as the code sees them (R50): its header with `TENANT`, `COMP`, `STATUS` and `HCRC` zero, and its payload
padded. -/
def memberCode (n : Nat) (f : Frame) : List Byte :=
  headerBytes60 { f.hdr with tenant := 0, comp := 0, status := 0 } ++ zeros 4 ++ padTo n f.payload

/-- The flow of a scheduled request, as it was found at its admission. -/
def reqFlow (s : State) (r : Req) : Option (Nat × Flow) := r.flow.bind (fun id => (KMap.find s.alm.cur.flows id).map (fun f => (id, f)))

/-- The flow, group and member of a data frame for which this module is the encoder: the frame's place among the flow's arrivals here. -/
def encodedAt (s : State) (r : Req) : Option (Nat × Flow × Nat × Nat) :=
  match (if r.edge then reqFlow s r else none) with
  | none => none
  | some (id, f) =>
    if f.ecK = 0 ∨ f.encoder ≠ s.self then none
    else (f.expected.findIdx? (fun e => decide (r.cycle ≤ e + 4 ∧ e ≤ r.cycle + 4))).map (fun j => (id, f, j / f.ecK, j % f.ecK))

/-- The parity frame of a group (R49, R50), under the stamped fields that its members share (R54, log 46). -/
def parityFrame (id group : Nat) (f : Flow) (data : List Frame) (last : Header) : Frame :=
  let n := data.foldl (fun m d => max m d.payload.length) 0
  let body := (data.map (memberCode n)).foldl xorBytes (zeros (64 + n))
  let h : Header := { last with opcode := 0x70, flags := 0, addr := 0, seq := 0, status := 0, length := .ofNat 16 body.length,
                                etag := .ofNat 64 (id * 2 ^ 48 + group * 2 ^ 32 + f.ecK * 2 ^ 29 + n) }
  { hdr := h, payload := body, poisoned := data.any (fun d => d.poisoned) }

/-- A data member has gone out: with the last of its group, the parity frame goes out as well (R50). All members of a group are sent in one
Day: what is left of an earlier Day's is forgotten (R51). -/
def memberSent (s : State) (r : Req) : State :=
  match encodedAt s r with
  | none => s
  | some (id, f, group, m) =>
    let k := groupKey id group
    let g := KMap.getD s.xb.ec k { members := [], day := s.day }
    let ms := if g.day ≠ s.day ∨ (KMap.find g.members m).isSome = true then [] else g.members
    let ms : KMap (Option Frame) := KMap.put ms m (some (reqFrame r))
    if ms.length < f.ecK then s.setXb { s.xb with ec := KMap.put s.xb.ec k { members := ms, day := s.day } }
    else
      let x := parityFrame id group f (ms.filterMap (·.2)) r.hdr
      store (s.setXb { s.xb with ec := KMap.del s.xb.ec k }) (f.sends.getD f.ecK 0) x (ownOrigin s x.hdr) 0 (some id) 0

/-- The ports that a scheduled frame leaves by: its flow's, or at the encoder that of its member (R43, R49, R126). -/
def flowPorts (s : State) (r : Req) : List Nat :=
  match encodedAt s r with
  | some (_, f, _, m) => (f.sends[m]?).toList
  | none => match reqFlow s r with | some x => x.2.outPorts | none => []

/-! ## Paths (R159, R160, R506) -/

/-- The key of a (source, home, class). -/
def pinKey (r : Req) : Nat := r.hdr.src.toNat * 2 ^ 20 + r.hdr.dest.toNat * 8 + r.hdr.cls.toNat

/-- What the first hop notes of a request that is out: ingress port, home, class and whether it is a store, and what its completion echoes.
A scheduled step yields one completion for all its frames: of a TC0 store its step is noted (R80). -/
def outKey (r : Req) : Nat × Nat :=
  (r.port * 2 ^ 20 + r.hdr.dest.toNat * 16 + r.hdr.cls.toNat * 2 + b2n (isStoreOp r.hdr.opcode.toNat),
    if r.hdr.cls = 0 then stepNote r.hdr.stepLo else r.hdr.seq.toNat * 2 ^ 64 + r.hdr.addr.toNat)

/-- Requests of a source that are out. -/
def outOf (s : State) (src : Ep) : List (Nat × Nat) := KMap.getD s.xb.outstanding src.toNat []

/-- Note a request of an edge port as out, once (R161). Of TC0 only stores are noted. -/
def noteOut (s : State) (r : Req) : State :=
  if r.hdr.cls = 0 ∧ isStoreOp r.hdr.opcode.toNat = false then s
  else s.setXb { s.xb with outstanding := KMap.put s.xb.outstanding r.hdr.src.toNat (addOnce (outOf s r.hdr.src) (outKey r)) }

/-- Whether requests of a (source, home, class) are still out, this one apart. -/
def tripleOut (s : State) (r : Req) : Bool :=
  (outOf s r.hdr.src).any (fun p => p.1 % 2 ^ 20 / 2 == (outKey r).1 % 2 ^ 20 / 2 && p != outKey r)

/-- A request waits for a path (R506), or for those on its old path (R160). Its 64 Days run from its arrival. -/
def waitPath (s : State) (r : Req) (moving : Bool) : State :=
  let (id, s) := s.fresh
  s.setXb { s.xb with waiting := KMap.put s.xb.waiting id { req := r, dest := r.hdr.dest, day := r.day, moving := moving } }

/-- The port that a request leaves by: its flow's for a scheduled one (R43); else its triple is pinned at the first hop (R159). None
where it must wait, with the reason. -/
def choosePort (s : State) (r : Req) : State × Option Nat × Bool :=
  if r.hdr.cls = 0 then
    (s, (match flowPorts s r with
      | p :: _ => some p
      | [] => nextPort s r.hdr.src r.hdr.dest r.hdr.cls), false)
  else if !r.edge then (s, nextPort s r.hdr.src r.hdr.dest r.hdr.cls, false)
  else
    let k := pinKey r
    let set (s : State) (p : Nat) (m : Bool) : State := s.setXb { s.xb with pins := KMap.put s.xb.pins k { port := p, moving := m } }
    let again (s : State) : State × Option Nat × Bool :=
      match nextPort s r.hdr.src r.hdr.dest r.hdr.cls with
      | none => (s, none, false)
      | some p => if tripleOut s r then (set s p true, none, true) else (set s p false, some p, false)
    match KMap.find s.xb.pins k with
    | none =>
      match nextPort s r.hdr.src r.hdr.dest r.hdr.cls with
      | none => (s, none, false)
      | some p => (set s p false, some p, false)
    | some x =>
      if !(s.port x.port).up then again s
      else if x.moving then (if tripleOut s r then (s, none, true) else (set s x.port false, some x.port, false))
      else (s, some x.port, false)

/-- Whether an earlier request of the same triple waits. -/
def behindWaiting (s : State) (r : Req) : Bool := s.xb.waiting.any (fun w => pinKey w.2.req == pinKey r && w.2.req.edge == r.edge)

/-! ## Combining (R147 to R151) -/

/-- Whether a read may be combined (R147). -/
def readCombines (s : State) (h : Header) : Bool :=
  let e := entryFor s h.comp h.epoch (extOf h.addr)
  h.opcode == 0x10 && h.cls == 3 && !h.noCombine && !h.isRetry && !outsideExtents h.addr
    && decide (h.addr.toNat % 128 + h.length.toNat ≤ 128)
    && ((e.mode == 1 && !e.svc) || (e.mode == 0 && h.src != e.writer)) && (e.state == 1 || e.state == 2)

/-- Whether a fetch-add may be combined (R60, R150, R153). -/
def faddCombines (s : State) (r : Req) : Bool :=
  let h := r.hdr
  let op := h.opcode.toNat
  isFadd op && !isCombined s h && !h.noCombine && !h.isRetry && (h.mayVary || op == 0x22 || op == 0x23) && h.cls == 2

/-- An open entry that a request may join. -/
def openEntry (s : State) (r : Req) (port : Nat) (read : Bool) : Option (Nat × Combine) :=
  let h := r.hdr
  KMap.first? s.xb.combine (fun _ e => e.isRead == read && e.isOpen && e.egress == port && e.home == h.dest && (match e.members.head? with
    | some m =>
      let g := m.hdr
      g.comp == h.comp && g.epoch == h.epoch && g.keySlot == h.keySlot && g.keyGen == h.keyGen
        && (if read then e.line == h.addr.toNat / 128 else g.opcode == h.opcode && g.addr == h.addr)
    | none => false))

/-- Whether an earlier fetch-add of the same triple waits in a combining entry, one apart (R159). -/
def behindCombine (s : State) (r : Req) (join : Option Nat) : Bool :=
  s.xb.combine.any (fun e => decide (some e.1 ≠ join) && !e.2.isRead && e.2.sentSeq.isNone && e.2.members.any (fun m => pinKey m == pinKey r))

/-- Send a frame of a request out on a port. -/
def forwardReq (s : State) (r : Req) (port : Nat) : State := store s port (reqFrame r) (reqOrigin r) 0 r.flow 0

/-- Send the combined form of an entry's requests, under the module's own `SRC` and `SEQ` (R148, R151, log 29). -/
def sendCombined (s : State) (id : Nat) (e : Combine) : State :=
  match e.members with
  | [] => s
  | m :: _ =>
    let h := m.hdr
    let (seq, s) := nextSeq s e.home
    let ms := e.members.map (fun r => (({ src := r.hdr.src, seq := r.hdr.seq, opnd := leNat r.payload } : Member), (0 : BitVec 8)))
    let body := if e.isRead then [] else memberBytes ms
    let h' : Header :=
      if e.isRead then { h with src := s.self, seq := seq, addr := .ofNat 64 (e.line * 128), length := 128 }
      else { h with src := s.self, seq := seq, length := .ofNat 16 body.length, flags := h.flags ||| flagMayVary }
    let o : OwnReq := { why := .combine id, dest := e.home, opcode := h'.opcode, addr := h'.addr, etag := h'.etag }
    let s := s.setXb { s.xb with own := KMap.put s.xb.own (pairKey e.home seq) o,
                                 combine := KMap.put s.xb.combine id { e with sentSeq := some seq, isOpen := e.isRead && e.isOpen } }
    enqueue s e.egress { hdr := h', payload := body, poisoned := false } 0

/-- Close a fetch-add entry (R150): one member goes on unchanged, more go combined. -/
def closeFadd (s : State) (id : Nat) (e : Combine) : State :=
  match e.members with
  | [m] => forwardReq (s.setXb { s.xb with combine := KMap.del s.xb.combine id }) m e.egress
  | l => sendCombined (l.foldl freeReq s) id e

/-- Offer a request that is about to leave by a port for combining: none where it goes on alone (R147 to R150). -/
def offerCombine (s : State) (r : Req) (port : Nat) : Option State :=
  let read := readCombines s r.hdr
  if r.poisoned ∨ ¬ (read = true ∨ faddCombines s r = true) then none
  else
    let s := s.updPort port (fun p => { p with wElig := p.wElig + 1 })
    match openEntry s r port read with
    | some (id, e) =>
      let s := if read then freeReq s r else s
      let e := { e with members := e.members ++ [r] }
      let s := (s.setXb { s.xb with combine := KMap.put s.xb.combine id e }).updPort port (fun p => { p with wComb := p.wComb + 1 })
      some (if !read && decide (e.members.length ≥ 255) then closeFadd s id e else s)
    | none =>
      if (s.port port).w = 0 then some (forwardReq s r port)
      else
        let (id, s) := s.fresh
        let e : Combine := { isRead := read, members := [r], egress := port, line := r.hdr.addr.toNat / 128, opened := s.now, sentSeq := none,
                             home := r.hdr.dest, isOpen := true }
        let s := s.setXb { s.xb with combine := KMap.put s.xb.combine id e }
        some (if read then sendCombined (freeReq s r) id e else s)

/-- The combining window of an entry has ended (R148, R150). -/
def windowEnds (s : State) (id : Nat) : State :=
  match KMap.find s.xb.combine id with
  | none => s
  | some e =>
    if !e.isOpen || decide (s.now < e.opened + (s.port e.egress).w) then s
    else if e.isRead then s.setXb { s.xb with combine := KMap.put s.xb.combine id { e with isOpen := false } }
    else closeFadd s id e

/-! ## Onward (R86, R161, R440) -/

/-- A frame that this module keeps no longer and does not send on: its credits go back, and a bulk frame is released (R105, R106). -/
def doneWith (s : State) (r : Req) : State := releaseBulk (freeReq s r) r

/-- A frame for this module that is still arriving waits for its last cell (R120); `go` takes it when it has come. -/
def onceWhole (s : State) (r : Req) (go : State → Req → State) : State :=
  match r.rx with
  | none => go s r
  | some n =>
    s.updPort r.port (fun p => { p with openOther := p.openOther.map (fun o => if o.name = n then { o with req := some r, here := true } else o) })

/-- A request at its destination: the credits of its cells go back, and it is served. -/
def admitHere (s : State) (r : Req) (here : State → Req → State) : State := onceWhole s r (fun s r => here (freeReq s r) r)

/-- Send a request on towards its destination, or serve it here. -/
def sendOn (s : State) (r : Req) (here : State → Req → State) : State :=
  if r.hdr.dest = s.self then admitHere s r here
  else if (flowPorts s r).length ≥ 2 then multicast s (reqFrame r) (reqOrigin r) (flowPorts s r) r.flow
  else if behindWaiting s r then waitPath s r true
  else match choosePort s r with
    | (s, none, moving) => waitPath s r moving
    | (s, some p, _) =>
      if behindCombine s r ((openEntry s r p false).map (·.1)) then waitPath s r true
      else match offerCombine s r p with
      | some s => s
      | none => memberSent (forwardReq s r p) r

/-- Requests that the first hop keeps a lease for (R440). -/
def leased (r : Req) : Bool :=
  let op := r.hdr.opcode.toNat
  decide (op = 0x30 ∨ op = 0x53 ∨ op = 0x32) || (op == 0x48 && bits 63 62 (wordAt r.payload 0) == 0)
    || (op == 0x49 && bits 63 61 (wordAt r.payload 0) == 0)

/-- Whether two requests are the same one, a retry or not (R80). -/
def sameReq (a b : Req) : Bool := a.hdr.src == b.hdr.src && a.hdr.dest == b.hdr.dest && a.hdr.seq == b.hdr.seq

/-- Withhold credits of some classes at a port, or grant them again (R163, R440). -/
def setWithheld (s : State) (port : Nat) (cls : List Nat) (on : Bool) : State :=
  let p := s.port port
  let was := cls.all (fun c => p.withheld.contains c)
  if on = was then s
  else if on then s.updPort port (fun p => { p with withheld := (p.withheld ++ cls).eraseDups })
  else
    let s := s.updPort port (fun p => { p with withheld := p.withheld.filter (fun c => !cls.contains c) })
    cls.foldl (fun s c => sendControl s port 3 (c * 2 ^ 24 + (KMap.getD (s.port port).rxFreed c 0).toNat)) s

/-- Stores of a source that are out. -/
def storesOut (s : State) (src : Ep) : List (Nat × Nat) := (outOf s src).filter (fun p => p.1 % 2 == 1)

/-- Those of them that came in by a port (R163). -/
def portStores (s : State) (src : Ep) (port : Nat) : List (Nat × Nat) := (storesOut s src).filter (fun p => p.1 / 2 ^ 20 == port)

/-- Set what an edge port withholds from its outstanding stores, its leases and the throttle step (R163, R440, R487). -/
def withholdPort (s : State) (port : Nat) : State :=
  match s.bind port with
  | none => s
  | some b =>
    if b.fabric then s
    else
      let s := setWithheld s port [2, 4] (decide ((portStores s b.ep port).length ≥ 16384))
      setWithheld s port [5, 6] (decide ((s.xb.leases.filter (fun l => l.2.req.port == port)).length ≥ 4096 ∨ s.power.step ≥ 4))

/-- Whether the first hop already holds a request: in its store order, waiting for a path, or in a combining entry. A retry of it is absorbed
(R161). -/
def heldHere (s : State) (r : Req) : Bool :=
  s.xb.flagged.any (fun f => sameReq f.2.req r) || s.xb.waiting.any (fun w => sameReq w.2.req r)
    || s.xb.combine.any (fun e => e.2.sentSeq.isNone && e.2.members.any (fun m => sameReq m r))

/-- A request of an edge port: stores keep their order, multi-phase requests take a lease (R161, R440). -/
def firstHop (s : State) (r : Req) (here : State → Req → State) : State :=
  let src := r.hdr.src
  if isStoreOp r.hdr.opcode.toNat then
    let held := s.xb.flagged.filter (fun f => f.2.req.hdr.src == src)
    if r.hdr.cls != 0 && heldHere s r then doneWith s r
    else if r.hdr.cls != 0 && (outOf s src).contains (outKey r) then sendOn s r here
    else
      let earlier := storesOut s src ++ held.map (fun f => outKey f.2.req)
      let hold (flagged : Bool) : State :=
        let (id, s) := s.fresh
        let f : FlagHeld := { req := r, home := r.hdr.dest, flagged := flagged, before := if flagged then earlier else [], day := s.day }
        s.setXb { s.xb with flagged := KMap.put s.xb.flagged id f }
      if r.hdr.isFence && !earlier.isEmpty then hold true
      else if held.any (fun f => f.2.home == r.hdr.dest && f.2.req.hdr.cls == r.hdr.cls) then hold false
      else sendOn (withholdPort (noteOut s r) r.port) r here
  else if leased r then
    if s.xb.leases.any (fun l => sameReq l.2.req r) then doneWith s r
    else
      let (id, s) := s.fresh
      let s := s.setXb { s.xb with leases := KMap.put s.xb.leases id { req := r, pool := r.hdr.dest } }
      sendOn (withholdPort (noteOut s r) r.port) r here
  else sendOn (noteOut s r) r here

/-- The first held store that may go now (R161): a flagged one when every earlier store has completed, another when nothing of
its (home, class) waits before it. -/
def nextStore (s : State) : Option (Nat × FlagHeld) :=
  s.xb.flagged.find? (fun p =>
    let f := p.2
    let before := s.xb.flagged.filter (fun q => decide (q.1 < p.1) && q.2.req.hdr.src == f.req.hdr.src)
    !before.any (fun q => q.2.home == f.home && q.2.req.hdr.cls == f.req.hdr.cls)
      && (!f.flagged || f.before.all (fun k => !(outOf s f.req.hdr.src).contains k && !before.any (fun q => outKey q.2.req == k))))

/-- Release held stores. -/
def releaseStores (fuel : Nat) (s : State) : State :=
  match fuel with
  | 0 => s
  | n + 1 =>
    match nextStore s with
    | none => s
    | some (id, f) =>
      let s := s.setXb { s.xb with flagged := KMap.del s.xb.flagged id }
      releaseStores n (sendOn (noteOut s f.req) f.req (fun s r => serve s none r))

/-- Send on a request that waited, if its path is up and its triple has left the old one (R160, R506). -/
def tryWaiting (s : State) (id : Nat) : State :=
  match KMap.find s.xb.waiting id with
  | none => s
  | some w =>
    let earlier := s.xb.waiting.any (fun x => decide (x.1 < id) && pinKey x.2.req == pinKey w.req && x.2.req.edge == w.req.edge)
    let s' := s.setXb { s.xb with waiting := KMap.del s.xb.waiting id }
    if w.req.hdr.isResp then
      (match nextPort s' w.req.hdr.src w.req.hdr.dest w.req.hdr.cls with | some p => forwardReq s' w.req p | none => s)
    else if earlier then s
    else match choosePort s' w.req with
      | (_, none, _) => s
      | (t, some p, _) =>
        if behindCombine t w.req ((openEntry t w.req p false).map (·.1)) then s
        else match offerCombine t w.req p with | some t => t | none => memberSent (forwardReq t w.req p) w.req

/-- Requests that only wait for their triple's old path to drain (R160). -/
def releaseMoving (s : State) : State :=
  s.xb.waiting.foldl (fun s w => if w.2.moving then tryWaiting s w.1 else s) s

/-! ## After every command -/

/-- What follows every command: frames to the module itself, and all work that may now go on. -/
def settle (s : State) : State :=
  let s := drainLoop 64 s
  let s := settleAssemblies s
  let s := retryHeld s
  let s := retryQueue s
  let s := drainUpdates s
  let s := drainKv s
  let s := retryResults s
  let s := releaseAnswers s
  let s := releaseStores (s.xb.flagged.length + 1) s
  let s := releaseMoving s
  let s := s.alm.cur.ports.foldl (fun s p => withholdPort s p.1) s
  dropFetched s

/-! ## Arrival -/

/-- A completion that has arrived: at the source's first hop it ends what waited for it (R161, R440); its destination takes it. -/
def passCompletion (s : State) (r : Req) : State :=
  if r.hdr.dest = s.self then onceWhole s r (fun s r => ownCompletion (doneWith s r) (reqFrame r))
  else
    let s := endOut s (reqFrame r)
    match nextPort s r.hdr.src r.hdr.dest r.hdr.cls with
    | some p => forwardReq s r p
    | none => waitPath s r false

/-- A frame without completion goes on to its destination, or is taken here; a result is taken by the node it passes (R126). -/
def passPlain (s : State) (r : Req) (here : State → Req → State) : State :=
  let result := r.hdr.opcode == 0x41 && ((flowPorts s r).isEmpty || s.alm.cur.nodes.any (fun n => n.collId == tagColl r.hdr.etag && n.comp == r.hdr.comp))
  if result then onceWhole s r here
  else if r.hdr.dest = s.self ∨ r.hdr.dest = 0 then onceWhole s r (fun s r => here (doneWith s r) r)
  else match flowPorts s r with
    | [] => (match nextPort s r.hdr.src r.hdr.dest r.hdr.cls with | some p => forwardReq s r p | none => waitPath s r false)
    | [p] => memberSent (forwardReq s r p) r
    | l => multicast s (reqFrame r) (reqOrigin r) l r.flow

/-- The module that a request is for: by the Extent Table for one that the first hop routes by address, where the table names a home; else
its `DEST` (R136, R140). -/
def targetOf (s : State) (r : Req) : Option Ep :=
  if r.edge && addressRouted r.hdr.opcode.toNat then
    let e := entryFor s r.hdr.comp r.hdr.epoch (extOf r.hdr.addr)
    if outsideExtents r.hdr.addr || e.state == 0 then none else some e.home
  else some r.hdr.dest

/-- Check 7 at the first hop, for a request routed by address: at the home itself it is made after the home's other checks (R86, R139). -/
def routeReq (s : State) (r : Req) (here : State → Req → State) : State :=
  let h := r.hdr
  let op := h.opcode.toNat
  let write := isStoreOp op
  match targetOf s r with
  | none => violation (freeReq s r) r s.self (if write then 2 else 1)
  | some home =>
    let t := { r with hdr := { h with dest := home } }
    if isFenced s home then completeStatus (freeReq s r) r 0x33
    else if home = s.self then firstHop s t here
    else match extentRights s h h.addr (write && !(op == 0x21 && isPinWord s h h.addr)) (op == 0x15) with
      | .viol k home => violation (freeReq s r) r (home.getD s.self) k
      | .ok _ _ => firstHop s t here

/-- Whether a request of an endpoint carries what only a coordinator may write: merge fields of a search or an attention request, or a
contribution to a transient node (R290, R294, R314). -/
def mergeFields (r : Req) : Bool :=
  let op := r.hdr.opcode.toNat
  let w := wordAt r.payload
  (op == 0x48 && bits 63 62 (w 0) == 0 && bits 63 16 (w 4) != 0)
    || (op == 0x49 && bits 63 61 (w 0) == 0 && (bits 63 16 (w 6) != 0 || bits 63 46 (w 7) != 0))
    || (op == 0x40 && isTransient (tagColl r.hdr.etag))

/-- The marks that a request's arrival at its home advances: that of its source, and of a combined one's members (R152, R166). -/
def markSource (s : State) (r : Req) : State :=
  let s := if targetOf s r = some s.self then advanceMark s r.hdr.src r.hdr.seq else s
  if r.hdr.dest = s.self ∧ isCombined s r.hdr = true ∧ r.more = 0 then advanceMembers s r else s

/-- A request that has been stamped and found well formed: the mark of its source at its home (R166), checks 2 and 3, the route by address
with check 7 at the first hop, and onward (R86, R139). -/
def admitReq (s : State) (r : Req) (here : State → Req → State) : State :=
  let s := markSource s r
  match earlyCheck s r.edge r.hdr with
  | some (st, bs) => complete (freeReq s r) r s.self st bs false 0
  | none =>
    if r.edge && mergeFields r then completeStatus (freeReq s r) r 0x10
    else if r.edge && addressRouted r.hdr.opcode.toNat then routeReq s r here
    else if r.edge then firstHop s r here
    else sendOn s r here

/-- Whether a port can admit frames now. -/
def portLive (s : State) (port : Nat) : Bool := s.running && (s.port port).up && (s.bind port).isSome

/-- A frame as the port takes it: stamped where the port is an edge port (R71), captured or not for mirroring (R132), with its scheduled flow
(R43). -/
def portReq (s : State) (b : PortBind) (port : Nat) (lseq : Option (BitVec 16)) (f : Frame) : Req :=
  let h := if b.fabric then f.hdr else stampEdge s b f.hdr
  { newReq s { f with hdr := h } port lseq (!b.fabric) with
    mir := mirrorReason s port h, flow := if h.cls = 0 then (flowAt s port h).map (·.1) else none }

/-- What a port notes of a frame that it admits: its count for the mirror, and the end of a wait for a resent bulk frame. -/
def frameHeard (s : State) (port : Nat) (h : Header) : State :=
  let s := s.updPort port (fun p => { p with mirCount := p.mirCount + 1 })
  if h.cls = 6 then
    s.updPort port (fun p => { p with tc6Wait := KMap.keep p.tc6Wait (fun _ w => !(w.src == h.src && w.seq == h.seq && w.addr == h.addr)) })
  else s

/-- A frame for this module's own services is taken only where it is not poisoned; engines and the home judge theirs (R120, R122). -/
def intact (here : State → Req → State) (s : State) (r : Req) : State :=
  if r.poisoned && decide (r.hdr.opcode.toNat ≥ 0x70) then completeStatus s r 0x40 else here s r

/-- A frame that a port has taken goes its way by its kind; `here` is what this module does with a request or a frame addressed to it. -/
def sortFrame (s : State) (b : PortBind) (r : Req) (here : State → Req → State) : State :=
  let h := r.hdr
  let op := h.opcode.toNat
  if h.isResp then passCompletion s r
  else if !b.fabric && !formatOk s b h (reqSize r) then completeStatus (freeReq (countMalformed s r.port) r) r 0x10
  else if h.cls = 0 ∧ r.flow.isNone = true then misfit (discardRest s r.rx) r.port h r.mir
  else
    let r := if h.cls = 0 ∧ h.dest = 0 ∧ addressRouted op = false then
        { r with hdr := { h with dest := ((reqFlow s r).map (fun x => x.2.dst)).getD 0 } } else r
    if noCompletionOps.contains op then passPlain s r (intact here) else admitReq s r (intact here)

/-- A frame arrives on a port. -/
def arrive (s : State) (port : Nat) (lseq : Option (BitVec 16)) (f : Frame) (here : State → Req → State) : State :=
  match s.bind port with
  | none => s
  | some b =>
    if portLive s port then
      let r := portReq s b port lseq f
      sortFrame (frameHeard s port r.hdr) b r here
    else s

/-- The header of a request row: its opcode, with `RESP` clear. -/
def asRequest (op : Nat) (f : Frame) : Frame := { f with hdr := { f.hdr with opcode := .ofNat 8 op, flags := f.hdr.flags &&& ~~~flagResp } }

/-- The header of a completion row: `RESP` set. -/
def asCompletion (f : Frame) : Frame := { f with hdr := { f.hdr with flags := f.hdr.flags ||| flagResp } }

/-- A request row: the frame with its opcode arrives, and what follows. -/
def arriveReq (s : State) (a : Arrival) (op : Nat) : State :=
  settle (arrive s a.port.toNat none (asRequest op a.frame) (fun s r => serve s none r))

/-- A completion row. -/
def arriveResp (s : State) (a : Arrival) : State :=
  settle (arrive s a.port.toNat none (asCompletion a.frame) (fun s r => serve s none r))

/-- The bits of a payload's first word that name a request's kind. -/
def withKind (hi lo kind : Nat) (f : Frame) : Frame :=
  { f with payload := overlay f.payload 0 ((beBytes 8 (putBits hi lo kind (wordAt f.payload 0))).take (min 8 f.payload.length)) }

end Sys2Proof.Machine
end

