-- ==== Sys2Proof/Machine/Coded.lean ====
section
/-! DEFINITION. Coded groups at their decoder (R48 to R55). -/

namespace Sys2Proof.Machine

/-- Port and arrival cycle of the members of a group (R49). -/
def Flow.groupMembers (f : Flow) (group : Nat) : List (Nat × Nat) := (f.members.drop (group * (f.ecK + 1))).take (f.ecK + 1)

/-- The decode cycle of a group: its latest expected arrival plus 16 cycles (R51). -/
def Flow.decodeAt (f : Flow) (group : Nat) : Nat := (f.groupMembers group).foldl (fun m p => max m p.2) 0 + 16

/-- A coded flow whose decoder is this module, in the template in force. -/
def decodedFlow (s : State) (flow : Nat) : Option Flow :=
  match KMap.find s.alm.cur.flows flow with
  | none => none
  | some f =>
    let inForce := match s.xb.template.bind (KMap.find s.alm.cur.templates) with
      | some t => t.runs.any (fun p => p.2.any (fun r => r.2.2 == flow))
      | none => false
    if f.ecK ≠ 0 ∧ f.decoder = s.self ∧ inForce = true then some f else none

/-- A member reaches the decoder, which holds it until the decode cycle (R46, R55): lost when it came off its path or cycle or
with a poisoned tail. Its `cycle` is that of its first cell. -/
def memberArrives (s : State) (flow group member port cycle : Nat) (f : Frame) (mir : Option Nat) : State :=
  match (decodedFlow s flow).bind (fun x => (x.groupMembers group)[member]?) with
  | none => misfit s port f.hdr mir
  | some (p, e) =>
    let inTime := decide (p = port ∧ cycle ≤ e + 4 ∧ e ≤ cycle + 4)
    let s := if inTime then s else misfit s port f.hdr mir
    let g := KMap.getD s.xb.ec (groupKey flow group) { members := [], day := s.day }
    let kept : Option Frame := if inTime && !f.poisoned then some f else none
    s.setXb { s.xb with ec := KMap.put s.xb.ec (groupKey flow group) { g with members := KMap.put g.members member kept } }

/-- The missing data member of a group from its other members (R50, R52): the padded length is the parity frame's. -/
def rebuild (parity : Frame) (data : List Frame) (comp tenant : BitVec 12) : Frame :=
  let n := parity.payload.length - 64
  let bs := data.foldl (fun x f => xorBytes x (memberCode n f)) parity.payload
  let h := parseHeader (bs.take 64)
  -- a read carries no payload, whatever its length field asks for (R69)
  let len := if h.opcode = 0x10 ∨ h.opcode = 0x11 then 0 else h.length.toNat
  { hdr := { h with comp := comp, tenant := tenant, status := 0 }, payload := (bs.drop 64).take len, poisoned := false }

/-- A data member as a request at the decode cycle. -/
def memberReq (s : State) (port : Nat) (f : Frame) : Req := newReq s f port none false

/-- The one check of a group (R54): the first three checks and the key's, with the state in force now. -/
def groupCheck (s : State) (h : Header) : Option (BitVec 8 × List Byte) :=
  match earlyCheck s false h with
  | some x => some x
  | none => if keyRevoked s h then some (0x30, []) else none

/-- The violation that a member of a group is, at the home memory that this module is to it (R54). -/
def memberViolation (s : State) (f : Frame) : Option Nat :=
  let h := f.hdr
  let op := h.opcode.toNat
  if h.dest ≠ s.self ∨ addressRouted op = false then none
  else match homeRights s h h.addr (isStoreOp op) (op == 0x15) (op == 0x21 && isPinWord s h h.addr) with
    | .viol k _ => some k
    | .ok _ _ => none

/-- A step's completion carries at least a status (R52, R80): the step of a header, or where none came through the next of the flow's source
and composition that ends. -/
def worsenStep (s : State) (x : Flow) (h : Option Header) (status : BitVec 8) : State :=
  let k := match h with | some h => stepKey h | none => anyStep x.src x.comp
  let worst := max (KMap.getD s.xb.tc0Worst k 0).toNat status.toNat
  s.setXb { s.xb with tc0Worst := KMap.put s.xb.tc0Worst k (.ofNat 8 worst) }

/-- The lines that a lost data member would have written are poisoned where they lie here (R52). -/
def poisonTarget (s : State) (comp : BitVec 12) (t : Nat × Nat) : State :=
  let gfa : W64 := .ofNat 64 t.1
  let e := entryFor s comp (s.comp comp).epoch (extOf gfa)
  if e.home ≠ s.self then s
  else
    let ks := accessLines e.homeExt.toNat gfa t.2
    s.setHome { s.home with poison := s.home.poison ++ ks.filter (fun k => !s.home.poison.contains k) }

/-- Deliver a data member at the decode cycle, to its endpoint or to the memory of this module (R53). -/
def deliverMember (s : State) (port : Nat) (f : Frame) : State := sendOn s (memberReq s port f) (fun s r => serve s none r)

/-- What is done with each data member that a group has, by the port of its path. -/
def eachMember (s : State) (ports : List (Nat × Nat)) (l : List (Option Frame)) (act : State → Nat → Frame → State) : State :=
  l.zipIdx.foldl (fun s d => match d.1 with | some f => act s (ports.getD d.2 (0, 0)).1 f | none => s) s

/-- Deliver the data members of a group under one check of their rights (R54): where one member is a violation, the whole group ends
silently as one, and each violation counts (R83, R87). -/
def deliverGroup (s : State) (ports : List (Nat × Nat)) (l : List (Option Frame)) : State :=
  if l.any (fun d => match d with | some f => (memberViolation s f).isSome | none => false) then
    eachMember s ports l (fun t port f => match memberViolation s f with
      | some k => violation t (memberReq t port f) t.self k
      | none => complete t (memberReq t port f) t.self 0 (violPayload f.hdr) false (violTime (memberReq t port f)))
  else eachMember s ports l deliverMember

/-- The decode cycle of a group (R51 to R54): one check for the group; then the data members, one of them rebuilt if only one is
lost, or the intact ones with the targets of the others poisoned. -/
def decodeGroup (s : State) (flow group : Nat) : State :=
  match decodedFlow s flow with
  | none => s
  | some x =>
    let ports := x.groupMembers group
    if ports.isEmpty || decide (s.time.cycle < x.decodeAt group) then s
    else
      let g := KMap.getD s.xb.ec (groupKey flow group) { members := [], day := s.day }
      let s := s.setXb { s.xb with ec := KMap.del s.xb.ec (groupKey flow group) }
      let member (i : Nat) : Option Frame := match KMap.find g.members i with | some (some f) => some f | _ => none
      let data := (List.range x.ecK).map member
      let intact := data.filterMap id
      let lost := ((List.range (x.ecK + 1)).filter (fun i => (member i).isNone)).length
      let tenant := match s.compEntry x.comp with | some e => e.tenant | none => 0
      let foreign := ((List.range (x.ecK + 1)).filterMap member).any (fun f => f.hdr.tenant != tenant || f.hdr.comp != x.comp)
      let full : List (Option Frame) :=
        match member x.ecK with
        | some p => if lost = 1 ∧ foreign = false ∧ intact.length < x.ecK then
            data.map (fun d => match d with | some f => some f | none => some (rebuild p intact x.comp tenant)) else data
        | none => data
      let port (i : Nat) : Nat := (ports.getD i (0, 0)).1
      match (match intact.head? with | some f => groupCheck s f.hdr | none => none) with
      | some (st, bs) =>
        -- the whole group is discarded; the last-of-step completion carries the status
        eachMember s ports full (fun s p f => complete s (memberReq s p f) s.self st bs false 0)
      | none =>
        if lost ≥ 2 ∨ foreign = true then
          let s := s.setXb { s.xb with ecLost := satAdd 64 s.xb.ecLost 1 }
          let s := (List.range (x.ecK + 1)).foldl (fun s i => if (member i).isNone || foreign then markLink s (port i) 255 else s) s
          let s := worsenStep s x (((List.range (x.ecK + 1)).filterMap member).head?.map (fun f => f.hdr)) 0x40
          let s := data.zipIdx.foldl (fun s d => match d.1 with
            | none => poisonTarget s x.comp ((x.targets.drop (group * x.ecK)).getD d.2 (0, 0))
            | some _ => s) s
          deliverGroup s ports data
        else
          let s := if lost = 1 then s.setXb { s.xb with ecRebuilt := satAdd 64 s.xb.ecRebuilt 1 } else s
          deliverGroup s ports full

/-- `EC_MEMBER_ARRIVAL` (R55). -/
def execEcMemberArrival (flow group : BitVec 16) (member : BitVec 4) (a : Arrival) (s : State) : Out :=
  commit s (if portLive s a.port.toNat then settle (memberArrives s flow.toNat group.toNat member.toNat a.port.toNat s.time.cycle a.frame (mirrorReason s a.port.toNat a.frame.hdr)) else s)

/-- `EC_DECODE_CYCLE` (R52). -/
def execEcDecodeCycle (flow group : BitVec 16) (s : State) : Out :=
  commit s (if s.running then settle (decodeGroup s flow.toNat group.toNat) else s)

end Sys2Proof.Machine
end

