-- ==== Sys2Proof/Machine/Hash.lean ====
section
/-! DEFINITION. SHA-256, HMAC and HKDF, which the manual names for content hashes, image hashes and key schedules
(R198, R380, R391, R394, R443). -/

namespace Sys2Proof.Machine

/-- The first 64 primes. -/
def primes : List Nat := (List.range 312).filter (fun n => decide (2 ≤ n) && ((List.range 16).map (· + 2)).all (fun d => decide (n ≤ d) || n % d != 0))

/-- The largest number of some bits whose `k`-th power is at most `n`. -/
def intRoot (k width n : Nat) : Nat :=
  (List.range width).foldl (fun r i => if (r + 2 ^ (width - 1 - i)) ^ k ≤ n then r + 2 ^ (width - 1 - i) else r) 0

/-- The first 32 bits of the fraction of a prime's `k`-th root. -/
def rootBits (k p : Nat) : BitVec 32 := .ofNat 32 (intRoot k 35 (p * 2 ^ (32 * k)))

/-- SHA-256 names its 64 round constants by cube roots. -/
def roundConstants : List (BitVec 32) := primes.map (rootBits 3)

/-- The exclusive or of a word's rotations to the right. -/
def turned (w : BitVec 32) (by_ : List Nat) : BitVec 32 := by_.foldl (fun x n => x ^^^ w.rotateRight n) 0

/-- A block's 16 words and the 48 that follow from them, the newest in front. -/
def expandWords (n : Nat) (ws : List (BitVec 32)) : List (BitVec 32) :=
  match n with
  | 0 => ws
  | k + 1 =>
    let back (i : Nat) : BitVec 32 := ws.getD (i - 1) 0
    let low := turned (back 15) [7, 18] ^^^ (back 15 >>> 3)
    let high := turned (back 2) [17, 19] ^^^ (back 2 >>> 10)
    expandWords k ((back 16 + low + back 7 + high) :: ws)

/-- The two running sequences of a compression, each with its newest word in front: after a round only the last four words of each are
read. -/
structure ShaRun where
  as : List (BitVec 32)
  es : List (BitVec 32)
  deriving DecidableEq, Repr

/-- One round with its constant and its schedule word. -/
def ShaRun.round (r : ShaRun) (kw : BitVec 32 × BitVec 32) : ShaRun :=
  match r.as, r.es with
  | [a, b, c, d], [e, f, g, h] =>
    let pick := g ^^^ (e &&& (f ^^^ g))
    let most := (a &&& (b ||| c)) ||| (b &&& c)
    let sum := kw.1 + kw.2 + pick + turned e [6, 11, 25] + h
    { as := [most + turned a [2, 13, 22] + sum, a, b, c], es := [d + sum, e, f, g] }
  | _, _ => r

/-- A block of 64 bytes taken into a hash value. -/
def takeBlock (v : ShaRun) (blk : List Byte) : ShaRun :=
  let ws := (expandWords 48 ((chunksOf 4 64 blk).map (fun b => BitVec.ofNat 32 (beNat b))).reverse).reverse
  let r := (roundConstants.zip ws).foldl ShaRun.round v
  { as := v.as.zipWith (· + ·) r.as, es := v.es.zipWith (· + ·) r.es }

/-- The hash value before the first block: square roots of the first eight primes. -/
def hashStart : ShaRun := { as := (primes.take 4).map (rootBits 2), es := ((primes.drop 4).take 4).map (rootBits 2) }

/-- SHA-256 of a message, as 32 bytes. -/
def sha256 (m : List Byte) : List Byte :=
  let whole := m ++ [0x80] ++ zeros ((119 - m.length % 64) % 64) ++ beBytes 8 (8 * m.length)
  let v := (chunksOf 64 whole.length whole).foldl takeBlock hashStart
  (v.as ++ v.es).flatMap (fun w => beBytes 4 w.toNat)

/-- HMAC-SHA-256. -/
def hmac (key msg : List Byte) : List Byte :=
  let short := if key.length ≤ 64 then key else sha256 key
  let keyed (mask : Byte) : List Byte := (padTo 64 short).map (fun b => b ^^^ mask)
  sha256 (keyed 0x5C ++ sha256 (keyed 0x36 ++ msg))

/-- HKDF-Extract. -/
def hkdfExtract (salt ikm : List Byte) : List Byte := hmac salt ikm

/-- HKDF-Expand: `n` blocks from the counter `i`, the last output carried on. -/
def hkdfBlocks (n i : Nat) (prk info last : List Byte) : List Byte :=
  match n with
  | 0 => []
  | k + 1 => let t := hmac prk (last ++ info ++ beBytes 1 i); t ++ hkdfBlocks k (i + 1) prk info t

/-- HKDF-Expand to `len` bytes. -/
def hkdfExpand (prk info : List Byte) (len : Nat) : List Byte := (hkdfBlocks ((len + 31) / 32) 1 prk info []).take len

/-- A string's bytes, as info strings are written. -/
def ascii (t : String) : List Byte := t.toList.map (fun c => BitVec.ofNat 8 c.toNat)

/-! ## Secrets derived from the device secret (R380) -/

/-- A secret derived from the device secret: HKDF-SHA-256 with a zero salt. -/
def derived (device info : List Byte) (len : Nat) : List Byte := hkdfExpand (hkdfExtract (zeros 32) device) info len

/-- SEED and I of the top tree of an identity. -/
def topSeed (device : List Byte) (identity : BitVec 2) : List Byte := derived device (ascii "ixa-hss-top" ++ beBytes 1 identity.toNat) 48

/-- SEED and I of a bottom tree of an identity. -/
def bottomSeed (device : List Byte) (identity : BitVec 2) (tree : Nat) : List Byte :=
  derived device (ascii "ixa-hss-bot" ++ beBytes 1 identity.toNat ++ beBytes 2 tree) 48

/-- The key over the Keeper's records in flash. -/
def storeKey (device : List Byte) : List Byte := derived device (ascii "ixa-store") 32

/-- The authentication key of the replay-protected region. -/
def rpmbKey (device : List Byte) : List Byte := derived device (ascii "ixa-rpmb") 32

/-! ## The length of a signature (R381, R444) -/

/-- Bytes of a hash and chains of an LM-OTS type over SHA-256 or SHA-256/192, with Winternitz widths W1 to W8 (R381). -/
def otsShape (type : Nat) : Option (Nat × Nat) :=
  match type with
  | 1 => some (32, 265) | 2 => some (32, 133) | 3 => some (32, 67) | 4 => some (32, 34)
  | 5 => some (24, 200) | 6 => some (24, 101) | 7 => some (24, 51) | 8 => some (24, 26)
  | _ => none

/-- Bytes of a hash and the height of an LMS type (R381). -/
def lmsShape (type : Nat) : Option (Nat × Nat) :=
  if 5 ≤ type ∧ type ≤ 9 then some (32, 5 * (type - 4)) else if 10 ≤ type ∧ type ≤ 14 then some (24, 5 * (type - 9)) else none

/-- A 32-bit number in a byte string. -/
def u32At (bs : List Byte) (i : Nat) : Nat := beNat ((bs.drop i).take 4)

/-- Length of the LMS signature at the head of a byte string. -/
def lmsLen (bs : List Byte) : Option Nat :=
  (otsShape (u32At bs 4)).bind (fun o =>
    let n := 8 + o.1 * (o.2 + 1)
    (lmsShape (u32At bs n)).map (fun t => n + 4 + t.1 * t.2))

/-- Length of `k` signed public keys and the signature after them. -/
def hssRest (k : Nat) (bs : List Byte) : Option Nat :=
  match k with
  | 0 => lmsLen bs
  | j + 1 =>
    (lmsLen bs).bind (fun n => (lmsShape (u32At bs n)).bind (fun t =>
      let next := n + 24 + t.1
      (hssRest j (bs.drop next)).map (· + next)))

/-- Length of the HSS signature at the head of a byte string, of 1 to 8 levels: it says its own parameter sets (R381). -/
def hssLen (bs : List Byte) : Option Nat := if u32At bs 0 < 8 then (hssRest (u32At bs 0) (bs.drop 4)).map (· + 4) else none

end Sys2Proof.Machine
end

