-- ==== Sys2Proof/Machine/Equinox.lean ====
section
/-! DEFINITION. The Equinox, the timing tree, the measurement of link delays and the joining of a running fabric (R31 to R35,
R42, R104). -/

namespace Sys2Proof.Machine

/-! ## Links of the timing tree -/

/-- The fabric ports that the Almanac binds. -/
def fabricPorts (s : State) : List Nat := (s.alm.cur.ports.filter (fun p => p.2.fabric)).map (·.1)

/-- The fabric ports that are up. -/
def liveFabric (s : State) : List Nat := (fabricPorts s).filter (fun p => (s.port p).up)

/-- Whether a port may lead to a timing parent: up, measured, and not excluded for its asymmetry (R32, R33). -/
def treeLink (s : State) (port : Nat) : Bool := let p := s.port port; p.up && p.delayValid && !p.treeExcl

/-- Whether an offer can make its link's far end the timing parent: at most 7 hops, on a link that is not excluded (R32, R33). -/
def canLead (s : State) (o : Nat × Nat) : Bool := decide (o.2 < 8) && (s.port o.1).up && !(s.port o.1).treeExcl

/-- The best offer among some ports: the fewest hops, then the lower port (R31). -/
def bestOffer (l : List (Nat × Nat)) : Option (Nat × Nat) :=
  l.foldl (fun (b : Option (Nat × Nat)) p => match b with
    | none => some p
    | some q => if p.2 < q.2 then some p else b) none

/-- Take a timing parent, or run free with none (R34). -/
def takeParent (s : State) (p : Option (Nat × Nat)) : State :=
  let s := s.setEqx { s.eqx with parent := p.map (·.1) }
  match p with
  | some q => s.setTime { s.time with treeDepth := q.2 + 1, freeRun := false }
  | none => s.setTime { s.time with freeRun := true, diffs := [], meds := [] }

/-- The best parent among the offers of phase 2 whose links are measured, one port apart. -/
def nextParent (s : State) (port : Nat) : Option (Nat × Nat) :=
  bestOffer (s.eqx.offers.filter (fun o => o.1 != port && canLead s o && treeLink s o.1))

/-- The parent's link has been lost: the next-best parent of phase 2, or the module's own reference (R34). -/
def parentLost (s : State) (port : Nat) : State := if s.eqx.parent = some port then takeParent s (nextParent s port) else s

/-- A link with an offer is back: a module that ran free takes it as its parent's (R34). -/
def parentBack (s : State) (port : Nat) : State :=
  if s.time.freeRun && s.eqx.parent.isNone && treeLink s port then
    match KMap.find s.eqx.offers port with
    | some n => if canLead s (port, n) then takeParent s (some (port, n)) else s
    | none => s
  else s

/-- A frame of the Equinox to the neighbour on a port: its payload is two words (log 30). -/
def sendEqx (s : State) (port op a b : Nat) : State :=
  let ep := match s.bind port with | some b => b.ep | none => 0
  enqueue s port { hdr := ownHeader s op ep 16, payload := wordsBytes [a, b], poisoned := false } 0

/-- The module takes no part in the Equinox, and reports itself. It joins later: it runs the phases on its own links again (R32, R35). -/
def takeNoPart (s : State) : State :=
  let again (s : State) : State :=
    s.setEqx { s.eqx with out := true, rejoin := true, phase := 1, heldDown := [], unmeasured := [], late := [], startCycle := none }
  if s.eqx.out then again s else report ((again s).setTime { s.time with aligned := false }) s.self 0 1 0x08 0xFF

/-! ## The template of a Day (R38, R42) -/

/-- The Day's template by the Week plan in force; none while the module may send nothing scheduled (R35, R38). -/
def selectTemplate (s : State) : State :=
  let entry := (KMap.getD s.alm.cur.weekPlan (s.time.day % 4096) 0).toNat
  let t := if bit 15 entry && s.time.aligned && !s.eqx.out && !s.rst.unaligned then some (bits 9 0 entry) else none
  s.setXb { s.xb with template := t }

/-! ## The phases (R31) -/

/-- The root of the timing tree is this module. -/
def isRoot (s : State) : Bool := equinoxRoot s == some s.self

/-- The module has its place in the timing tree. -/
def placed (s : State) : Bool := isRoot s || s.eqx.parent.isSome

/-- Whether every active link has finished the running phase. In phase 2 a link has finished when its far end has told its place; that the
crossings of phase 4 are done is what `EQUINOX_PHASE_ADVANCE` itself says. -/
def phaseDone (s : State) : Bool :=
  let e := s.eqx
  match e.phase with
  | 0 => !s.time.hasCount
  | 1 => (fabricPorts s).all (fun p => (s.port p).up || e.heldDown.contains p) && !(liveFabric s).isEmpty
  | 2 => placed s && (liveFabric s).all (fun p => (KMap.find e.offers p).isSome || e.late.contains p)
  | 3 => (liveFabric s).all (fun p => (s.port p).delayValid || e.unmeasured.contains p)
  | _ => e.phase == 4 && (s.time.hasCount || !e.rejoin)

/-- What the module tells a neighbour of its place: its hops from the root, or 15 to the parent itself, which so knows its child (log 30). -/
def offerFor (s : State) (port : Nat) : Nat := if s.eqx.parent = some port then 15 else s.time.treeDepth

/-- Tell every neighbour the module's place in the tree. -/
def tellPlace (s : State) : State := (liveFabric s).foldl (fun s p => sendEqx s p 0x72 (offerFor s p) 0) s

/-- The links to the module's children in the tree. -/
def childLinks (s : State) : List Nat := (liveFabric s).filter (fun p => KMap.find s.eqx.offers p == some 15)

/-- Take the best parent that the offers heard give (R31). -/
def chooseParent (s : State) : State := takeParent s (bestOffer (s.eqx.offers.filter (canLead s)))

/-- Enter the next phase, with what this module sends in it. A module that kept its count through a reset takes it again after phase 4
(R25). -/
def enterPhase (s : State) : State :=
  let n := s.eqx.phase + 1
  let s := s.setEqx { s.eqx with phase := n }
  match n with
  | 2 =>
    if isRoot s then tellPlace (s.setTime { s.time with root := true, treeDepth := 0 })
    else
      let s := chooseParent s
      if s.eqx.parent.isSome then tellPlace s else s
  | 3 => (liveFabric s).foldl (fun s p => sendEqx s p 0x71 0 s.now) s
  | 5 =>
    if s.time.hasCount then s.setEqx { s.eqx with phase := 0, rejoin := false, done := true }
    else if isRoot s then
      -- the start cycle that the root names is its own choice (log 30)
      let (x, s) := s.free
      let start := s.now + x
      (childLinks s).foldl (fun s p => sendEqx s p 0x73 start 0) (s.setEqx { s.eqx with startCycle := some start })
    else s
  | _ => s

/-- Every active link has finished a phase. -/
def phaseAdvance (s : State) : State := if phaseDone s && decide (s.eqx.phase < 5) then enterPhase s else s

/-- Half the median of some round trips, all in 1/16 cycle (R31, log 30). -/
def halfMedian (l : List Nat) : Nat :=
  let q := sortBy (fun a b => decide (a ≤ b)) l
  (q.getD ((q.length - 1) / 2) 0 + q.getD (q.length / 2) 0) / 4

/-- A link's delay has been measured: one beyond 400 ns keeps the link out of service (R104). -/
def setDelay (s : State) (port d : Nat) : State :=
  let s := s.updPort port (fun p => { p with delay := .ofNat 16 d, delayValid := true })
  if d > 10880 then (setDown s port).updPort port (fun p => { p with delayValid := false }) else s

/-- An echo on a link: the neighbour's is sent back with its mark, and the 256th of this module's own gives the delay. -/
def echo (s : State) (port mark : Nat) (roundTrip : Option Nat) : State :=
  if !(s.port port).up || !(fabricPorts s).contains port then s
  else match roundTrip with
    | none => sendEqx s port 0x71 1 mark
    | some t =>
      if s.eqx.phase ≠ 3 ∨ s.eqx.unmeasured.contains port = true ∨ (s.port port).delayValid = true then s
      else
        let l := KMap.getD s.eqx.echoes port [] ++ [t]
        let s := s.setEqx { s.eqx with echoes := KMap.put s.eqx.echoes port l }
        if l.length ≥ 256 then setDelay s port (halfMedian l) else sendEqx s port 0x71 0 s.now

/-- Note what a neighbour has told of its place. -/
def noteOffer (s : State) (port hops : Nat) : State := s.setEqx { s.eqx with offers := KMap.put s.eqx.offers port hops }

/-- A timing-tree offer: the neighbour is `hops` from the root, or is this module's child. In phase 2 the module takes the best parent and
tells its place when that has changed; none is taken that would put it beyond 8 hops (R31, R32). -/
def treeOffer (s : State) (port hops : Nat) : State :=
  if !(s.port port).up || !(fabricPorts s).contains port then s
  else
    let t := noteOffer s port hops
    if isRoot s then t
    else if s.eqx.phase ≠ 2 then parentBack t port
    else
      let t := chooseParent t
      if t.eqx.parent = s.eqx.parent ∧ t.time.treeDepth = s.time.treeDepth then t else tellPlace t

/-- A start token from the parent: it goes on to the children. -/
def startToken (s : State) (port start : Nat) : State :=
  if s.eqx.phase ≠ 5 ∨ s.eqx.out = true ∨ s.eqx.parent ≠ some port ∨ s.eqx.startCycle.isSome = true then s
  else (childLinks s).foldl (fun s p => sendEqx s p 0x73 start 0) (s.setEqx { s.eqx with startCycle := some start })

/-- The delay of the link to the parent, in 1/16 cycle; the root has none. -/
def parentDelay (s : State) : Nat := match s.eqx.parent with | some p => (s.port p).delay.toNat | none => 0

/-- A count that begins, or is taken from a neighbour: aligned, with the module's place in the tree and its alarm as they are. -/
def TimeSt.startAt (t : TimeSt) (day cycle : Nat) : TimeSt :=
  { TimeSt.init with day := day, cycle := cycle, aligned := true, hasCount := true, root := t.root, treeDepth := t.treeDepth, freeRun := t.freeRun,
                     skewAlarm := t.skewAlarm }

/-- The first Day of a count, after a power-on reset that cleared metering (`MT_RESET_DAY`). -/
def counted (s : State) : State := match s.meterReset with | (c, none) => s.setMeterReset (c, some s.day) | _ => s

/-- Day 0 begins when the local count reaches the named cycle less the delay from the parent. -/
def dayZero (s : State) (localCount : Nat) : State :=
  match s.eqx.startCycle with
  | none => s
  | some c =>
    if s.eqx.phase ≠ 5 ∨ s.time.hasCount = true ∨ 16 * localCount + parentDelay s < 16 * c then s
    else selectTemplate ((counted (s.setTime (s.time.startAt 0 0))).setEqx { s.eqx with phase := 0, startCycle := none, done := true })

/-- A port of the Equinox goes down for the rest of it, and with it what it leads to. -/
def portFails (s : State) (port : Nat) : State := parentLost (setDown s port) port

/-- The limit of phase 3 has passed for a port (R32): it is no link of the tree, and carries no scheduled traffic. -/
def unmeasured (s : State) (port : Nat) : State :=
  if (s.port port).delayValid || !(fabricPorts s).contains port then s
  else
    let s := s.setEqx { s.eqx with unmeasured := addOnce s.eqx.unmeasured port }
    if s.eqx.parent = some port then
      match nextParent s port with
      | some q => takeParent s (some q)
      | none => takeNoPart s
    else s

/-- A phase's limit has passed for a port (R32). -/
def portTimeout (s : State) (port : Nat) : State :=
  let e := s.eqx
  match e.phase with
  | 1 =>
    let s := if (s.port port).up then s else s.setEqx { e with heldDown := addOnce e.heldDown port }
    if (liveFabric s).isEmpty then takeNoPart s else s
  | 2 => if placed s then s.setEqx { e with late := addOnce e.late port } else takeNoPart s
  | 3 => unmeasured s port
  | 4 => portFails (s.setEqx { e with stuck := addOnce e.stuck port }) port
  | 5 => if e.startCycle.isSome then s else takeNoPart s
  | _ => s

/-- A phase's limit has passed for a port, or in phase 4 for the crossings of the bridge or of a stack controller, which stay down until the
next package reset: a hard fault. No class of R422 names the bridge: the module fences itself (log 146). -/
def phaseTimeout (s : State) (x : EqxSubject) : State :=
  match x with
  | .port p => portTimeout s p.toNat
  | .bridge => if s.eqx.phase = 4 then selfFence (s.setEqx { s.eqx with bridgeDown := true }) else s
  | .stack k =>
    if s.eqx.phase = 4 ∧ (stacksOf s.variant).contains k.toNat = true ∧ stackOut s k.toNat = false then
      report (s.setEqx { s.eqx with stacksDown := addOnce s.eqx.stacksDown k.toNat }) s.self k.toNat 4 7 0xFF
    else s

/-- What phase 4 holds down outlives every reset but a package reset (R32). -/
def EqxSt.again (e : EqxSt) : EqxSt := { EqxSt.init with stuck := e.stuck, stacksDown := e.stacksDown, bridgeDown := e.bridgeDown }

/-- The phases that a module runs on its own links to join a running fabric (R35). -/
def EqxSt.joining (e : EqxSt) : EqxSt := { e.again with phase := 1, out := true, rejoin := true }

/-! ## Joining (R35) -/

/-- A module without a count that has run phases 1 to 4 takes a neighbour's, less the measured delay, and holds back scheduled traffic until
a Solstice admits it. -/
def takeCount (s : State) (port day cycle : Nat) : State :=
  if s.time.hasCount || decide (s.eqx.phase < 4) || !(fabricPorts s).contains port || !treeLink s port then s
  else
    let n := day * 4096 + cycle - (s.port port).delay.toNat / 16
    selectTemplate ((counted (s.setTime (s.time.startAt (n / 4096) (n % 4096)))).setEqx
      { s.eqx with phase := 0, out := true, rejoin := false, startCycle := none, done := true })

/-! ## The commands -/

/-- `EQX_ECHO` (R31). -/
def execEqxEcho (port : PortNo) (roundTrip : Option (BitVec 20)) (s : State) : Out :=
  commit s (settle (echo s port.toNat 0 (roundTrip.map (·.toNat))))

/-- `EQX_TREE` (R31, R32). -/
def execEqxTree (port : PortNo) (hops : BitVec 4) (s : State) : Out := commit s (settle (treeOffer s port.toNat hops.toNat))

/-- `EQX_START` (R31). -/
def execEqxStart (port : PortNo) (startCycle : BitVec 60) (s : State) : Out := commit s (settle (startToken s port.toNat startCycle.toNat))

/-- `EQUINOX_DAY_ZERO` (R31). -/
def execEquinoxDayZero (localCount : BitVec 60) (s : State) : Out := commit s (settle (dayZero s localCount.toNat))

/-- `EQUINOX_PHASE_ADVANCE` (R31). -/
def execEquinoxPhaseAdvance (s : State) : Out := commit s (settle (phaseAdvance s))

/-- `EQUINOX_PHASE_TIMEOUT` (R32). -/
def execEquinoxPhaseTimeout (subject : EqxSubject) (s : State) : Out := commit s (settle (phaseTimeout s subject))

end Sys2Proof.Machine
end

