-- ==== Sys2Proof/Machine/Chronicle.lean ====
section
/-! DEFINITION. The Chronicle: entries and their bytes, the leader's placement and judgement of commands, agreement, elections,
delivery to the involved modules, and what an arriving entry does (R349 to R359, R398, R400, R450, R504, R72, R205, R428). -/

namespace Sys2Proof.Machine

/-! ## Entries as bytes (R358, R359, R360, R400, R425) -/

/-- The kind code of an entry body. -/
def EntryBody.kind (b : EntryBody) : Nat :=
  match b with
  | .nop => 0
  | .void .. => 2
  | .grant _ => 0x10
  | .take _ => 0x11
  | .mode _ => 0x12
  | .done _ => 0x13
  | .keyRevoke .. => 0x20
  | .pubRegion .. | .freeze .. | .publication .. | .promote .. | .retire .. | .pinClear .. => 0x30
  | .lend .. => 0x40
  | .warren _ | .warrenEnd _ => 0x41
  | .almCommit .. | .almRollback .. => 0x50
  | .fence _ => 0x60

/-- The extent body (R360). -/
def extBytes (b : ExtBody) : List Byte :=
  wordsBytes [ b.extIdx.toNat * 2 ^ 44 + b.home.toNat * 2 ^ 28 + b.homeExt.toNat * 2 ^ 8 + b.mode.toNat * 2 ^ 6 + b2n b.published * 2 ^ 5
                 + b2n b.svc * 2 ^ 4,
               b.writer.toNat * 2 ^ 48 + b.codec.toNat * 2 ^ 45 + b.elem.toNat * 2 ^ 42 + b.keySlot.toNat * 2 ^ 32 + b.keyGen.toNat * 2 ^ 26,
               b.newHome.toNat * 2 ^ 48 + b.newHomeExt.toNat * 2 ^ 28 ]

/-- Reading an extent body. -/
def parseExt (bs : List Byte) : ExtBody :=
  let a := wordAt bs 0
  let b := wordAt bs 1
  let c := wordAt bs 2
  { extIdx := .ofNat 20 (bits 63 44 a), home := .ofNat 16 (bits 43 28 a), homeExt := .ofNat 20 (bits 27 8 a), mode := .ofNat 2 (bits 7 6 a),
    published := bit 5 a, svc := bit 4 a, writer := .ofNat 16 (bits 63 48 b), codec := .ofNat 3 (bits 47 45 b), elem := .ofNat 3 (bits 44 42 b),
    keySlot := .ofNat 10 (bits 41 32 b), keyGen := .ofNat 6 (bits 31 26 b), newHome := .ofNat 16 (bits 63 48 c),
    newHomeExt := .ofNat 20 (bits 47 28 c) }

/-- The fence body (R425). -/
def fenceBytes (b : FenceBody) : List Byte :=
  wordsBytes [ b.subject.toNat * 2 ^ 48 + b.port.toNat * 2 ^ 32 + b.kind.toNat * 2 ^ 29 + b.action.toNat * 2 ^ 26 + b.cls.toNat * 2 ^ 21
                 + b.by_.toNat * 2 ^ 19,
               b.spare.toNat * 2 ^ 48 + b.comp.toNat * 2 ^ 36 + b.witnesses.toNat * 2 ^ 20,
               b.element.toNat * 2 ^ 48 + b.elemPort.toNat * 2 ^ 32 + b.elemKind.toNat * 2 ^ 29,
               b.faultDay.toNat * 2 ^ 16 ]

/-- Reading a fence body. -/
def parseFence (bs : List Byte) : FenceBody :=
  let a := wordAt bs 0
  let b := wordAt bs 1
  let c := wordAt bs 2
  { subject := .ofNat 16 (bits 63 48 a), port := .ofNat 16 (bits 47 32 a), kind := .ofNat 3 (bits 31 29 a), action := .ofNat 3 (bits 28 26 a),
    cls := .ofNat 5 (bits 25 21 a), by_ := .ofNat 2 (bits 20 19 a), spare := .ofNat 16 (bits 63 48 b), comp := .ofNat 12 (bits 47 36 b),
    witnesses := .ofNat 16 (bits 35 20 b), element := .ofNat 16 (bits 63 48 c), elemPort := .ofNat 16 (bits 47 32 c),
    elemKind := .ofNat 3 (bits 31 29 c), faultDay := .ofNat 48 (bits 63 16 (wordAt bs 3)) }

/-- The bytes of a body; those the manual does not lay out stay open (log 15). -/
def EntryBody.bytes (b : EntryBody) : List Byte :=
  match b with
  | .nop => []
  | .void k c => wordsBytes [k.toNat * 2 ^ 56 + c.toNat * 2 ^ 44]
  | .grant e => extBytes e
  | .take e => extBytes e
  | .mode e => extBytes e
  | .done i => wordsBytes [i.toNat * 2 ^ 44]
  | .keyRevoke slot gen d => wordsBytes [slot.toNat * 2 ^ 54 + gen.toNat * 2 ^ 48 + b2n d * 2 ^ 47, 0]
  | .fence f => fenceBytes f
  | b => Config.encodeBody b

/-- Reading a body of a kind. -/
def parseBody (kind : Nat) (bs : List Byte) : Option EntryBody :=
  let a := wordAt bs 0
  match kind with
  | 0 => some .nop
  | 2 => some (.void (.ofNat 8 (bits 63 56 a)) (.ofNat 12 (bits 55 44 a)))
  | 0x10 => some (.grant (parseExt bs))
  | 0x11 => some (.take (parseExt bs))
  | 0x12 => some (.mode (parseExt bs))
  | 0x13 => some (.done (.ofNat 20 (bits 63 44 a)))
  | 0x20 => some (.keyRevoke (.ofNat 10 (bits 63 54 a)) (.ofNat 6 (bits 53 48 a)) (bit 47 a))
  | 0x60 => some (.fence (parseFence bs))
  | k => Config.decodeBody (.ofNat 8 k) bs

/-- A `CH_ENTRY` payload (R358). -/
def entryBytes (e : Entry) (commit : Nat) : List Byte :=
  let b := e.body.bytes
  wordsBytes [ e.index, e.term * 2 ^ 32 + e.body.kind * 2 ^ 24 + e.comp.toNat * 2 ^ 12 + (b.length + 7) / 8,
               e.day * 2 ^ 16 + e.epoch.toNat, commit ] ++ padTo ((b.length + 7) / 8 * 8) b

/-- Reading a `CH_ENTRY` payload: the entry and `COMMIT`. -/
def parseEntry (bs : List Byte) : Option (Entry × Nat) :=
  let a := wordAt bs 1
  (parseBody (bits 31 24 a) ((bs.drop 32).take (8 * bits 11 0 a))).map (fun b =>
    ({ index := wordAt bs 0, term := bits 63 32 a, comp := .ofNat 12 (bits 23 12 a), day := bits 63 16 (wordAt bs 2),
       epoch := .ofNat 16 (bits 15 0 (wordAt bs 2)), body := b }, wordAt bs 3))

/-! ## The log as the leader reads it -/

/-- Whether a body raises its composition's epoch (R359). -/
def EntryBody.raises (b : EntryBody) : Bool :=
  match b with | .grant _ => true | .take _ => true | .mode _ => true | .freeze .. => true | .publication .. => true | _ => false

/-- Kinds that go to every module (R355, R359). -/
def EntryBody.fabricWide (b : EntryBody) : Bool :=
  match b with | .nop => true | .lend .. => true | .almCommit .. => true | .almRollback .. => true | .fence _ => true | .void .. => true | _ => false

/-- Entries of a composition, in log order. -/
def compLog (s : State) (c : BitVec 12) : List Entry := ((s.ch.log.map (·.2)).filter (fun e => e.comp == c && !e.body.fabricWide))

/-- Whether an entry comes into force before another or is it: by Day and then index. -/
def comesBy (a b : Entry) : Bool := decide (a.day < b.day ∨ (a.day = b.day ∧ a.index ≤ b.index))

/-- Entries in the order in which they come into force. -/
def inOrder (l : List Entry) : List Entry := sortBy comesBy l

/-- Entries of a composition up to a Day, in that order. -/
def compLogTo (s : State) (c : BitVec 12) (day : Nat) : List Entry := inOrder ((compLog s c).filter (fun e => decide (e.day ≤ day)))

/-- What the log says of an extent index (R504). -/
inductive ExtView where
  | free
  | held (b : ExtBody)
  | ending
  deriving DecidableEq, Repr

/-- The state that some entries, in order, give an extent index. -/
def viewOf (l : List Entry) (idx : BitVec 20) : ExtView :=
  l.foldl (fun v e =>
    match e.body with
    | .grant b => if b.extIdx = idx then .held b else v
    | .take b =>
      if b.extIdx ≠ idx then v
      else if b.newHome = 0 then .ending
      else match v with
        | .held o => .held { o with home := b.newHome, homeExt := b.newHomeExt }
        | v => v
    | .mode b =>
      if b.extIdx ≠ idx then v
      else match v with
        | .held o => .held { o with mode := b.mode, writer := b.writer, published := b.published }
        | v => v
    | .done i => if i ≠ idx then v else match v with
      | .ending => .free
      | v => v
    | _ => v) .free

/-- The state that the log gives an extent index at a Day. -/
def extView (s : State) (c : BitVec 12) (idx : BitVec 20) (day : Nat) : ExtView := viewOf (compLogTo s c day) idx

/-- Whether a take names the home and extent number that the index already has: it changes nothing (R438, R504). -/
def alreadyThere (v : ExtView) (b : ExtBody) : Bool :=
  match v with
  | .held o => b.newHome != 0 && o.home == b.newHome && o.homeExt == b.newHomeExt
  | _ => false

/-- Whether an entry of a composition raises its epoch: a take that changes nothing does not. -/
def entryRaises (s : State) (c : BitVec 12) (e : Entry) : Bool :=
  match e.body with
  | .take b => !alreadyThere (viewOf ((compLogTo s c e.day).takeWhile (fun x => x.index != e.index)) b.extIdx) b
  | b => b.raises

/-- Whether the log rolls a transaction back. -/
def logRollsBack (s : State) (txn : W64) : Bool := s.ch.log.any (fun e => match e.2.body with | .almRollback t _ => t == txn | _ => false)

/-- Days of a composition's raises in the log, each once: its own entries, and the commits of images that change its edge ports. -/
def raiseDays (s : State) (c : BitVec 12) : List Nat :=
  (((compLog s c).filter (entryRaises s c)).map (·.day)
    ++ (s.ch.log.filter (fun e => match e.2.body with | .almCommit t _ l => l.contains c && !logRollsBack s t | _ => false)).map (·.2.day)).eraseDups

/-- The epoch that the log gives a composition from a Day on (R361). -/
def epochAt (s : State) (c : BitVec 12) (day : Nat) : BitVec 16 := .ofNat 16 ((raiseDays s c).filter (fun d => decide (d ≤ day))).length

/-- Whether an index that an entry granted has been free again since, by now. -/
def endedSince (s : State) (c : BitVec 12) (g : Entry) (idx : BitVec 20) : Bool :=
  (compLog s c).any (fun d => d.body == .done idx && decide (g.index < d.index ∧ d.day ≤ s.day) && extView s c idx d.day == .free)

/-- Whether the slot of a grant is free again by now: destroyed since, and every extent granted before that has ended (R407). -/
def slotFreed (s : State) (c : BitVec 12) (slot : BitVec 10) (grant : Nat) : Bool :=
  (compLog s c).any (fun e =>
    (match e.body with | .keyRevoke x _ d => x == slot && d && decide (grant < e.index ∧ e.day ≤ s.day) | _ => false)
      && (compLog s c).all (fun g => match g.body with | .grant b => decide (e.index < g.index) || endedSince s c g b.extIdx | _ => true))

/-- The entries of a composition since its grants began to stand: those before its key slot was last freed are of an earlier life (R72,
R407). -/
def lifeLog (s : State) (c : BitVec 12) : List Entry :=
  let l := compLog s c
  match l.find? (fun e => match e.body with | .grant b => !slotFreed s c b.keySlot e.index | _ => false) with
  | some g => l.filter (fun e => decide (g.index ≤ e.index))
  | none => []

/-- Homes that the log names for a composition. -/
def logHomes (s : State) (c : BitVec 12) : List Ep :=
  ((lifeLog s c).flatMap (fun e => match e.body with
    | .grant b => [b.home]
    | .take b => [b.newHome]
    | _ => [])).filter (· != 0)

/-- Modules that bind an edge port of a composition. -/
def edgeModules (s : State) (c : BitVec 12) : List Ep :=
  match s.compEntry c with | some e => e.edges.filterMap (moduleOf s) | none => []

/-- The modules involved in an entry: those of its composition and those it names, or every module (R347, R355). -/
def involved (s : State) (c : BitVec 12) (b : EntryBody) : List Ep :=
  let all := s.alm.cur.topo.modules.map (fun m => BitVec.ofNat 16 m.1)
  if b.fabricWide then (all ++ [s.self]).eraseDups
  else
    let own := match b with
      | .grant x => [x.home] | .take x => [x.home, x.newHome] | .warren w => w.runs.map (·.module) | _ => []
    ((edgeModules s c ++ logHomes s c ++ own).filter (· != 0)).eraseDups

/-- Members that make a majority (R349). -/
def majority (s : State) : Nat := s.alm.cur.members.length / 2 + 1

/-- The last stored entry's index; 0 with none. -/
def lastIndex (s : State) : Nat := match s.ch.log.getLast? with | some p => p.1 | none => 0

/-- The last stored entry's term. -/
def lastTerm (s : State) : Nat := match s.ch.log.getLast? with | some p => p.2.term | none => 0

/-! ## Key slots as the leader grants them (R72, R398, R400, R407) -/

/-- The slot that the log gives a composition, with its generation at a Day. -/
def compSlot (s : State) (c : BitVec 12) (day : Nat) : Option (BitVec 10 × BitVec 6) :=
  let grants := (compLog s c).filterMap (fun e => match e.body with | .grant b => some (e.index, b.keySlot, b.keyGen) | _ => none)
  let live := grants.filter (fun g => !slotFreed s c g.2.1 g.1)
  live.head?.map (fun g =>
    let turns := (compLogTo s c day).filter (fun e => match e.body with | .keyRevoke x _ d => x == g.2.1 && !d && decide (g.1 < e.index) | _ => false)
    (g.2.1, g.2.2 + .ofNat 6 turns.length))

/-- Modules at which a slot is taken by a composition other than `c`. -/
def slotModules (s : State) (c : BitVec 12) (slot : BitVec 10) : List Ep :=
  (s.alm.cur.comps.flatMap (fun p =>
    let o : BitVec 12 := .ofNat 12 p.1
    if o = c then []
    else match compSlot s o s.day with
      | some g => if g.1 = slot then edgeModules s o ++ logHomes s o else []
      | none => [])).eraseDups

/-- The generation from which a slot's next composition goes on (R407). -/
def slotNextGen (s : State) (slot : BitVec 10) : BitVec 6 :=
  (s.ch.log.foldl (fun g e => match e.2.body with
    | .keyRevoke x n d => if x = slot ∧ d = true then n + 1 else g
    | _ => g) 0)

/-- The slot number for a composition's first grant: free at every module involved, free at the most modules, lowest (R72). -/
def chooseSlot (s : State) (c : BitVec 12) (mods : List Ep) : Option (BitVec 10) :=
  let free := ((List.range 1024).map (fun n => (n, slotModules s c (.ofNat 10 n)))).filter (fun p => mods.all (fun m => !p.2.contains m))
  (free.foldl (fun (b : Option (Nat × Nat)) p => match b with
    | none => some (p.1, p.2.length)
    | some q => if p.2.length < q.2 then some (p.1, p.2.length) else b) none).map (fun p => .ofNat 10 p.1)

/-! ## Placing and judging (R352, R398, R400, R428, R504) -/

/-- The lowest Day at or after another that a composition's raise may name. -/
def raiseDay (s : State) (c : BitVec 12) (least : Nat) : Nat :=
  match (raiseDays s c).foldl (fun (m : Option Nat) d => some (max d (m.getD 0))) none with
  | none => least
  | some p => if least ≤ p then p else max least (p + 4096)

/-- The next Solstice at or after a Day (R428). -/
def solstice (s : State) (day : Nat) : Nat :=
  let n := 4096 * max 1 s.alm.cur.policy.solWeeks
  (day + n - 1) / n * n

/-- Days between revocations of one slot (R400). -/
def revokeDay (s : State) (slot : BitVec 10) (least : Nat) : Nat :=
  s.ch.log.foldl (fun d e => match e.2.body with
    | .keyRevoke x _ _ => if x = slot then max d (e.2.day + 4096) else d
    | _ => d) least

/-- Compositions whose edge ports an image changes, here or by their list of edge endpoints: their epoch rises with its commit (R346,
R359). One that the image adds exists from the commit with epoch 0, and one that it removes is gone (R348). -/
def movedComps (s : State) (img : Almanac) : List (BitVec 12) :=
  let here (a : Almanac) (c : BitVec 12) : List (Nat × Ep) := (a.ports.filter (fun p => !p.2.fabric && p.2.comp == some c)).map (fun p => (p.1, p.2.ep))
  let listed (a : Almanac) (c : BitVec 12) : Option (List Ep) := (KMap.find a.comps c.toNat).map (·.edges)
  (s.alm.cur.comps.map (fun p => BitVec.ofNat 12 p.1)).filter (fun c =>
    (KMap.find img.comps c.toNat).isSome && (here s.alm.cur c != here img c || listed s.alm.cur c != listed img c))

/-- The compositions that the commit of the staged image raises. -/
def stagedRaises (s : State) : List (BitVec 12) := match s.alm.stagedImage with | some img => movedComps s img | none => []

/-- The Day that the leader names for an entry. -/
def placeDay (s : State) (c : BitVec 12) (b : EntryBody) (ask : Nat) : Nat :=
  let least := max (s.day + 2048) ask
  match b with
  | .almRollback _ flip => if flip = 0 then 0 else flip.toNat
  | .fence f => if f.action = 5 ∨ f.action = 6 then solstice s least else least
  | .keyRevoke slot _ _ => revokeDay s slot least
  | .almCommit .. => (stagedRaises s).foldl (fun d c => max d (raiseDay s c d)) least
  | .take x => if alreadyThere (extView s c x.extIdx least) x then least else raiseDay s c least
  | b => if b.raises then raiseDay s c least else least

/-- The widest lend that a lender's port can drain (R205). -/
def lendLimit (s : State) (lender : Ep) : Nat :=
  let lanes := match localPort s lender with
    | some p => (match s.bind p with | some b => b.lanes | none => 8)
    | none => (match KMap.find s.alm.cur.topo.endpoints lender.toNat with | some e => e.lanes | none => 8)
  if lanes ≥ 8 then 225280 else if lanes ≥ 4 then 112640 else if lanes ≥ 2 then 55296 else 26624

/-- Versions of a region that some entries commit, with their hashes (R199). -/
def committedIn (l : List Entry) (region : BitVec 32) : List (BitVec 32 × BitVec 256) :=
  l.filterMap (fun e => match e.body with
    | .publication r v h _ false => if r = region then some (v, h) else none
    | _ => none)

/-- The version that some entries, in order, leave current in a region (R200). -/
def currentOf (l : List Entry) (region : BitVec 32) : Option (BitVec 32) :=
  (l.filterMap (fun e => match e.body with
    | .promote r v => if r = region then some v else none
    | _ => none)).getLast?

/-- Whether some entries retire a version (R203). -/
def retiredIn (l : List Entry) (region version : BitVec 32) : Bool := l.any (fun e => e.body == .retire region version)

/-- Whether the runs of a creating command cover the partitions in order, on modules that can home them (R264, R265). -/
def runsOk (s : State) (w : WarrenSpec) : Bool :=
  let covered := w.runs.foldl (fun (n : Option Nat) r => match n with
    | some k => if r.firstPart.toNat = k ∧ r.parts.toNat ≠ 0 then some (k + r.parts.toNat) else none
    | none => none) (some 0)
  covered == some w.pTotal.toNat && decide (w.runs.length ≤ 256) && (w.runs.map (·.module)).eraseDups.length == w.runs.length
    && w.runs.all (fun r => isModule s r.module && !s.alm.cur.topo.noScore.contains r.module.toNat && (r.module != s.self || !(enginesOf s.variant .score).isEmpty))

/-- Whether an extent body keeps its format: no reserved mode, codec or element code, and under codec F a source format and rate that R211 lists
(R137, R175, R211, R360). -/
def extFormOk (x : ExtBody) : Bool :=
  x.mode != 3 && decide (x.codec.toNat ≤ 4 ∧ (x.codec = 0 ∨ x.elem.toNat ≤ 4)) && (!isF x.codec.toNat || codecFListed x.codec.toNat x.elem.toNat)

/-- The places that an extent takes in its home's page-table carve: three under codec L, for its tags (R174, R222). -/
def extPlaces (codec : BitVec 3) : Nat := if codec = 4 then 3 else 1

/-- The extents of the log that have a home, those ahead included: composition and index, home and places. A taken extent keeps its old home until
its `EXT_DONE`. -/
def homedExtents (s : State) : List (BitVec 12 × BitVec 20 × Ep × Nat) :=
  (inOrder (s.ch.log.map (·.2))).foldl (fun l e =>
    let here (x : BitVec 12 × BitVec 20 × Ep × Nat) (i : BitVec 20) : Bool := x.1 == e.comp && x.2.1 == i
    match e.body with
    | .grant b => l ++ [(e.comp, b.extIdx, b.home, extPlaces b.codec)]
    | .take b =>
      match l.reverse.find? (fun x => here x b.extIdx) with
      | some x => if b.newHome = 0 ∨ x.2.2.1 = b.newHome then l else l ++ [(e.comp, b.extIdx, b.newHome, x.2.2.2)]
      | none => l
    | .done i =>
      let mine := l.filter (fun x => here x i)
      l.filter (fun x => !here x i) ++ (if mine.length ≤ 1 then [] else mine.drop 1)
    | _ => l) []

/-- Whether the page-table carve of a home has room for one more extent (R174): a slice holds 64 places. The topology names the carves that
differ from the default (log 125). -/
def carveHasRoom (s : State) (home : Ep) (codec : BitVec 3) : Bool :=
  let slices := if home = s.self then s.alm.cur.settings.pageTableSlices else KMap.getD s.alm.cur.topo.ptSlices home.toNat 16
  decide ((((homedExtents s).filter (fun x => x.2.2.1 == home)).map (·.2.2.2)).sum + extPlaces codec ≤ 64 * slices)

/-- Whether an extent may be homed at a module: it is one, and its carve has room. -/
def mayHome (s : State) (home : Ep) (codec : BitVec 3) : Bool := (home == s.self || isModule s home) && carveHasRoom s home codec

/-- What the leader makes of a command: the body to append, none where it refuses it. -/
def judge (s : State) (c : BitVec 12) (b : EntryBody) (ask : Nat) : Option EntryBody :=
  let day := placeDay s c b ask
  match b with
  | .grant x =>
    if extView s c x.extIdx day ≠ .free ∨ extFormOk x = false ∨ mayHome s x.home x.codec = false then none
    else
      let mods := involved s c b
      match compSlot s c day with
      | some (slot, gen) =>
        if mods.any (fun m => (slotModules s c slot).contains m) then none else some (.grant { x with keySlot := slot, keyGen := gen })
      | none => (chooseSlot s c mods).map (fun slot => .grant { x with keySlot := slot, keyGen := slotNextGen s slot })
  | .take x =>
    match extView s c x.extIdx day with
    | .held o =>
      if x.newHome = 0 ∨ alreadyThere (.held o) x = true then some b
      else if mayHome s x.newHome o.codec = false then none
      else match compSlot s c day with
        | some (slot, gen) => if (slotModules s c slot).contains x.newHome then none
            else some (.take { o with newHome := x.newHome, newHomeExt := x.newHomeExt, keySlot := slot, keyGen := gen })
        | none => none
    | _ => none
  | .mode x =>
    match extView s c x.extIdx day with
    | .held _ => if extFormOk { x with codec := 0 } then some b else none
    | _ => none
  | .lend lender _ pages home => if pages.toNat > lendLimit s lender ∨ isModule s home = false then none else some b
  | .retire r v => if currentOf (compLogTo s c day) r = some v then none else some b
  | .promote r v =>
    let l := compLogTo s c day
    if (committedIn l r).any (fun x => x.1 == v) && (!retiredIn l r v || currentOf l r == some v) then some b else none
  | .publication r v h base rej =>
    match (committedIn (compLog s c) r).find? (fun x => x.1 == v) with
    | none => some b
    | some x => some (.publication r v h base (rej || x.2 != h))
  | .warren w => if warrenSpecOk w && runsOk s w then some b else none
  | b => some b

/-- A rotation waits until the previous sweep of the slot has ended here (R400). -/
def mustWait (s : State) (b : EntryBody) : Bool :=
  match b with | .keyRevoke slot _ false => (KMap.find s.sweeps slot.toNat).isSome | _ => false

/-! ## Keys made ready (R378, R398) -/

/-- Draw a memory key: its number in the DRBG's sequence (R378). -/
def drawKey (s : State) : Nat × State := (s.kp.drbg, s.setKp { s.kp with drbg := s.kp.drbg + 1 })

/-- The place of the key that a composition's slot needs. -/
def grantKey (c : BitVec 12) (slot : BitVec 10) : Nat := c.toNat * 1024 + slot.toNat

/-- The place of the key that a rotation of a generation needs. -/
def turnKey (slot : BitVec 10) (gen : BitVec 6) : Nat := 2 ^ 22 + slot.toNat * 64 + (gen + 1).toNat

/-- The key that an entry needs here and that no slot holds yet. -/
def keyNeeded (s : State) (e : Entry) : Option Nat :=
  let forSlot (slot : BitVec 10) : Option Nat :=
    let k := KMap.getD s.kp.slots slot.toNat KeySlot.init
    if k.comp = e.comp ∧ (k.state = 1 ∨ k.state = 2) then none else some (grantKey e.comp slot)
  match e.body with
  | .grant b => forSlot b.keySlot
  | .take b => if b.newHome = s.self ∧ b.newHome ≠ 0 then forSlot b.keySlot else none
  | .keyRevoke slot gen false => if (KMap.find s.kp.slots slot.toNat).isSome then some (turnKey slot gen) else none
  | _ => none

/-- Generate the key that an entry needs ahead of its Day, unless the entropy source has failed. -/
def makeReady (s : State) (e : Entry) : State :=
  match keyNeeded s e with
  | some k =>
    if s.kp.entropyFail || (KMap.find s.kp.ready k).isSome then s
    else let (n, s) := drawKey s; s.setKp { s.kp with ready := KMap.put s.kp.ready k n }
  | none => s

/-- The key that was made ready, or one drawn now; none while the entropy source has failed. -/
def takeReady (s : State) (k : Nat) : Option (Nat × State) :=
  match KMap.find s.kp.ready k with
  | some n => some (n, s.setKp { s.kp with ready := KMap.del s.kp.ready k })
  | none => if s.kp.entropyFail then none else some (drawKey s)

/-- The keys of every entry that waits for its Day. -/
def makeAllReady (s : State) : State :=
  (s.ch.entries.map (·.2)).foldl (fun s e => if s.ch.appliedSet.contains e.index then s else makeReady s e) s

/-! ## Holding an entry at a module -/

/-- Participant state of a transaction on its commit entry (R448, R451): the pending record is written. -/
def commitEntry (s : State) (txn : W64) (flip : Nat) : State :=
  let a := s.alm
  if a.txnState = .prepared ∧ a.txnId = txn then
    note (s.setAlm { a with txnState := .pending, pending := some { txn := txn, bank := !a.curBank, flipDay := flip } }) 6 [txn, 4]
  else s

/-- A transaction ends with the current bank kept (R448, R452). -/
def rollBack (s : State) (txn : W64) : State :=
  let a := s.alm
  let s := if a.txnState ≠ .idle ∧ a.txnId = txn then
      note (s.setAlm { a with txnState := .idle, txnId := 0, participants := [], staged := [], stagedImage := none, pending := none,
                              banks := KMap.del a.banks (b2n (!a.curBank)), rollbacks := addOnce a.rollbacks txn }) 6 [txn, 0]
    else s.setAlm { a with rollbacks := addOnce a.rollbacks txn }
  match s.alm.waiting with
  | some m => answer (s.setAlm { s.alm with waiting := none }) m 0x10 0x000E []
  | none => s

/-- The identity behind a Finug session. -/
def sessionIdent (s : State) (m : CmdRef) : BitVec 256 :=
  match KMap.find s.kp.sessions m.session.toNat with | some x => x.ident | none => KMap.getD s.fn.storedIdent m.session.toNat 0

/-- Whether a fence entry names the subject of a report (R420). -/
def namesSubject (f : FenceBody) (r : Report) : Bool :=
  let device (k : BitVec 3) : Bool := k == 0 || k == 5 || k == 6
  f.subject == r.subject && f.port == r.port && (f.kind == r.kind || (device f.kind && device r.kind))

/-- A committed entry is held for its Day (R355). A command that this module passed to the leader now waits for that entry. -/
def holdEntry (s : State) (e : Entry) : State :=
  if s.ch.appliedSet.contains e.index || (KMap.find s.ch.entries e.index).isSome then s
  else
    let s := makeReady (s.setCh { s.ch with entries := KMap.put s.ch.entries e.index e }) e
    let mine := s.ch.toLeader.find? (fun p => p.m.isSome && (match e.body, p.body with
      | .grant x, .grant y => p.comp == e.comp && { y with keySlot := x.keySlot, keyGen := x.keyGen } == x
      | .take x, .take y => p.comp == e.comp && y.extIdx == x.extIdx && y.newHome == x.newHome && y.newHomeExt == x.newHomeExt
      | .almCommit t .., .almCommit u .. => t == u
      | .void k c, y => y.kind == k.toNat && p.comp == c
      | x, y => p.comp == e.comp && x == y))
    let s := match mine with
      | some p => match p.m with
        | some m =>
          let w : CmdWait := { m := m, ident := sessionIdent s m }
          s.setCh { s.ch with waiting := KMap.put s.ch.waiting e.index w, toLeader := removeOne s.ch.toLeader p }
        | none => s
      | none => s
    match e.body with
    | .fence f => s.setHealth { s.health with resend := KMap.keep s.health.resend (fun _ r => !namesSubject f r.1) }
    | .almCommit t flip _ => commitEntry s t flip.toNat
    | .almRollback t flip => if flip = 0 ∨ e.day ≤ s.day then rollBack s t else s.setAlm { s.alm with rollbacks := addOnce s.alm.rollbacks t }
    | _ => s

/-! ## Sending -/

/-- Send an entry to a module: `ADDR` 1 asks whether it holds it (R354, log 15). -/
def sendEntry (s : State) (target : Ep) (e : Entry) (query : Bool) : State :=
  if target = s.self then s
  else
    let bs := entryBytes e s.ch.commit
    sendOwn s { ownHeader s 0x80 target bs.length with comp := e.comp, epoch := (s.comp e.comp).epoch, addr := if query then 1 else 0 } bs
      (.vote e.index query)

/-- Entries become committed in order (R353): each goes to its involved modules, and is held here if this is one. -/
def commitOne (s : State) (e : Entry) : State :=
  let s := s.setCh { s.ch with commit := e.index }
  let mods := involved s e.comp e.body
  let others := mods.filter (· != s.self)
  let s := s.setCh { s.ch with unacked := KMap.put s.ch.unacked e.index (others.map (fun m => (m, s.day))) }
  let s := others.foldl (fun s m => sendEntry s m e false) s
  let s := if mods.contains s.self then holdEntry s e else s
  match e.body with
  | .almCommit t flip _ =>
    match s.alm.leader with
    | some l => if l.txn = t then s.setAlm { s.alm with leader := some { l with flipDay := some flip.toNat } } else s
    | none => s
  | _ => s

/-- Commit what may be committed, in index order; an entry being settled stops the rest (R353, R354). -/
def tryCommit (fuel : Nat) (s : State) : State :=
  match fuel with
  | 0 => s
  | n + 1 =>
    let i := s.ch.commit + 1
    match KMap.find s.ch.log i with
    | none => s
    | some e =>
      if (KMap.find s.ch.settle i).isSome || decide ((KMap.getD s.ch.acks i []).length < majority s) then s
      else tryCommit n (commitOne s e)

/-- The leader appends an entry, stores it and sends it to the members (R352, R353). -/
def append (s : State) (c : BitVec 12) (b : EntryBody) (ask : Nat) (m : Option CmdRef) : State :=
  let day := placeDay s c b ask
  let i := lastIndex s + 1
  let b := match b with | .almCommit t _ _ => .almCommit t (.ofNat 48 day) (stagedRaises s) | b => b
  let e : Entry := { index := i, term := s.ch.term, comp := c, day := day, epoch := 0, body := b }
  let s := s.setCh { s.ch with log := KMap.put s.ch.log i e, acks := KMap.put s.ch.acks i [s.self], lastSent := s.day }
  let e := { e with epoch := if b.fabricWide then 0 else epochAt s c day }
  let s := s.setCh { s.ch with log := KMap.put s.ch.log i e }
  let s := match m with
    | some m =>
      let w : CmdWait := { m := m, ident := sessionIdent s m }
      s.setCh { s.ch with waiting := KMap.put s.ch.waiting i w }
    | none => s
  tryCommit (s.ch.log.length + 1) (s.alm.cur.members.foldl (fun s m => sendEntry s m e false) s)

/-- Whether this module leads. -/
def leads (s : State) : Bool := s.ch.role == 3

/-- A proposal at this module (R352): the leader judges and appends it, refuses it, or lets it wait; another module passes it to
the leader. -/
def submit (s : State) (p : Proposal) : State :=
  let pass (s : State) : State := s.setCh { s.ch with toLeader := addOnce s.ch.toLeader p }
  if !leads s || mustWait s p.body then pass s
  else match judge s p.comp p.body p.day with
    | some b => append s p.comp b p.day p.m
    | none => match p.m with | some m => answer s m 0x10 0 [] | none => s

/-- What the leader kept back is tried again. -/
def resubmit (s : State) : State :=
  if leads s then s.ch.toLeader.foldl (fun s p => submit (s.setCh { s.ch with toLeader := removeOne s.ch.toLeader p }) p) s else s

/-- A proposal of the Den's own. -/
def propose (s : State) (c : BitVec 12) (b : EntryBody) (ask : Nat) : State := submit s { comp := c, body := b, day := ask, m := none }

/-! ## Terms, roles and votes (R350, R351, R353, R354) -/

/-- The rank and role that the Almanac's list gives this module (R349). -/
def membership (s : State) : State :=
  match s.alm.cur.members.findIdx? (· == s.self) with
  | some r => s.setCh { s.ch with rank := r, role := if s.ch.role = 0 then 1 else s.ch.role }
  | none => s.setCh { s.ch with rank := 0, role := 0 }

/-- Adopt a higher term as a follower (R351). -/
def adoptTerm (s : State) (t : Nat) : State :=
  if t > s.ch.term then s.setCh { s.ch with term := t, role := if s.ch.role = 0 then 0 else 1, votes := [] } else s

/-- The vote on a frame (R351). -/
def voteBytes (s : State) (granted : Bool) : List Byte := wordsBytes [s.ch.term * 2 ^ 32 + b2n granted * 2 ^ 31, lastIndex s]

/-- Start the settling of an inherited entry (R354). -/
def startSettle (s : State) (e : Entry) : State :=
  let mods := involved s e.comp e.body
  let holds := if (KMap.find s.ch.entries e.index).isSome || s.ch.appliedSet.contains e.index then [s.self] else []
  let x : Settle := { asked := mods, holds := holds, answered := [s.self], day := s.day }
  mods.foldl (fun s m => sendEntry s m e true) (s.setCh { s.ch with settle := KMap.put s.ch.settle e.index x })

/-- Become leader (R350, R353): entries known committed and still ahead go out again; inherited ones are committed or settled. -/
def becomeLeader (s : State) : State :=
  let s := s.setCh { s.ch with role := 3, leader := s.self, lastSent := s.day }
  let s := s.ch.log.foldl (fun s p =>
    let e := p.2
    if e.index ≤ s.ch.commit then
      (if e.day > s.day then
        let others := (involved s e.comp e.body).filter (· != s.self)
        let s := s.setCh { s.ch with unacked := KMap.put s.ch.unacked e.index (others.map (fun m => (m, s.day))) }
        others.foldl (fun s m => sendEntry s m e false) s
      else s)
    else if e.day ≥ s.day + 64 then s.setCh { s.ch with acks := KMap.put s.ch.acks e.index s.alm.cur.members }
    else startSettle s e) s
  append (tryCommit (s.ch.log.length + 1) s) 0 .nop 0 none

/-- Become a candidate (R350): a higher term, a vote for itself, and a request to every member. -/
def becomeCandidate (s : State) : State :=
  let t := s.ch.term + 1
  let s := s.setCh { s.ch with role := 2, term := t, votedTerm := t, votes := [s.self], candSince := s.day }
  let head := wordsBytes [0, t * 2 ^ 32 + 1 * 2 ^ 24 + 2, s.day * 2 ^ 16, s.ch.commit, lastTerm s, lastIndex s]
  let s := s.alm.cur.members.foldl (fun s m =>
    if m = s.self then s else sendOwn s (ownHeader s 0x80 m head.length) head (.vote 0 false)) s
  if majority s ≤ 1 then becomeLeader s else s

/-- An inherited entry is settled (R354): committed as it stands where any module holds it, else void. -/
def settleEntry (s : State) (i : Nat) (x : Settle) : State :=
  match KMap.find s.ch.log i with
  | none => s.setCh { s.ch with settle := KMap.del s.ch.settle i }
  | some e =>
    let s := s.setCh { s.ch with settle := KMap.del s.ch.settle i, acks := KMap.put s.ch.acks i s.alm.cur.members }
    if !x.holds.isEmpty then tryCommit (s.ch.log.length + 1) s
    else
      let v : Entry := { e with body := .void (.ofNat 8 e.body.kind) e.comp, comp := 0 }
      let s := s.setCh { s.ch with log := KMap.put s.ch.log i v }
      let s := s.alm.cur.members.foldl (fun s m => sendEntry s m v false) s
      let s := match KMap.find s.ch.waiting i with
        | some w => answer (s.setCh { s.ch with waiting := KMap.del s.ch.waiting i }) w.m 0x50 0 []
        | none => s
      tryCommit (s.ch.log.length + 1) s

/-- A fence entry for a module that held an entry committed void (R354). -/
def fenceOf (subject : Ep) (kind action cls by_ day : Nat) : FenceBody :=
  { subject := subject, port := 0, kind := .ofNat 3 kind, action := .ofNat 3 action, cls := .ofNat 5 cls, by_ := .ofNat 2 by_, spare := 0, comp := 0,
    witnesses := 0, element := 0, elemPort := 0, elemKind := 0, faultDay := .ofNat 48 day }

/-- One vote that has come back. -/
def takeVote (s : State) (v : VoteIn) : State :=
  let s := adoptTerm s v.term
  if v.query then
    match KMap.find s.ch.settle v.about with
    | some x =>
      let x := { x with answered := addOnce x.answered v.src, holds := if v.granted then addOnce x.holds v.src else x.holds }
      let s := s.setCh { s.ch with settle := KMap.put s.ch.settle v.about x }
      if x.asked.all (fun m => x.answered.contains m) then settleEntry s v.about x else s
    | none =>
      match KMap.find s.ch.log v.about with
      | some { body := .void .., .. } => if leads s ∧ v.granted = true then propose s 0 (.fence (fenceOf v.src 1 0 0x08 0 s.day)) 0 else s
      | _ => s
  else if v.about = 0 then
    if s.ch.role = 2 ∧ v.granted = true ∧ v.term = s.ch.term then
      let s := s.setCh { s.ch with votes := addOnce s.ch.votes v.src }
      if s.ch.votes.length ≥ majority s then becomeLeader s else s
    else s
  else if !leads s then s
  else
    let member := s.alm.cur.members.contains v.src
    let s := if v.granted then
        s.setCh { s.ch with acks := if member then KMap.upd s.ch.acks v.about [] (fun l => addOnce l v.src) else s.ch.acks }
      else s
    let left := (KMap.getD s.ch.unacked v.about []).filter (fun p => p.1 != v.src)
    let s := if v.about ≤ s.ch.commit then
        s.setCh { s.ch with unacked := if left.isEmpty then KMap.del s.ch.unacked v.about else KMap.put s.ch.unacked v.about left }
      else s
    let s := tryCommit (s.ch.log.length + 1) s
    -- a member that lags is sent the log again
    if member && decide (v.last < lastIndex s) then
      match KMap.find s.ch.log (v.last + 1) with
      | some e => if v.last + 1 = v.about then s else sendEntry s v.src e false
      | none => s
    else s

/-- Every vote that has come back. -/
def takeVotes (s : State) : State :=
  let l := s.ch.inbox
  l.foldl takeVote (s.setCh { s.ch with inbox := [] })

/-! ## An arriving `CH_ENTRY` (R351, R354 to R356) -/

/-- A question of a new leader: does this module hold the entry as committed. -/
def holdsEntry (s : State) (i : Nat) : Bool := s.ch.appliedSet.contains i || (KMap.find s.ch.entries i).isSome

/-- A vote request (R351). -/
def voteRequest (s : State) (r : Req) : State :=
  let t := bits 63 32 (wordAt r.payload 1)
  let s := adoptTerm s t
  let upToDate := decide (wordAt r.payload 4 > lastTerm s ∨ (wordAt r.payload 4 = lastTerm s ∧ wordAt r.payload 5 ≥ lastIndex s))
  let ok := s.ch.role != 0 && s.alm.cur.members.contains r.hdr.src && decide (t = s.ch.term ∧ s.ch.votedTerm < t) && upToDate
  let s := if ok then s.setCh { s.ch with votedTerm := t, lastHeard := s.day } else s
  complete s r s.self 0 (voteBytes s ok) false 0

/-- An entry arrives: a member stores it; a committed one is held for its Day, or fences the module when that Day has come. -/
def entryArrives (s : State) (r : Req) : State :=
  if bits 31 24 (wordAt r.payload 1) = 1 then voteRequest s r
  else match parseEntry r.payload with
    | none => completeStatus s r 0x10
    | some (e, commit) =>
      if r.hdr.addr = 1 then complete s r s.self 0 (voteBytes s (holdsEntry s e.index)) false 0
      else if e.term < s.ch.term ∧ r.hdr.src ≠ s.ch.leader then complete s r s.self 0 (voteBytes s false) false 0
      else
        let s := adoptTerm s e.term
        let s := s.setCh { s.ch with leader := r.hdr.src, lastHeard := s.day, role := if s.ch.role = 2 then 1 else s.ch.role }
        let s := if s.ch.role = 0 then s
          else s.setCh { s.ch with log := KMap.put s.ch.log e.index e, commit := max s.ch.commit commit }
        let here := (involved s e.comp e.body).contains s.self
        let free := match e.body with | .nop => true | .void .. => true | .almRollback .. => true | _ => false
        let s :=
          if e.index > commit ∨ holdsEntry s e.index = true ∨ here = false then s
          else if e.day ≤ s.day ∧ free = false then selfFence s
          else holdEntry s e
        complete s r s.self 0 (voteBytes s true) false 0

/-! ## The commands -/

/-- What follows a command of the Chronicle. -/
def finish (s : State) : State := settle (takeVotes (settle s))

/-- A module that has fenced itself answers every entry `FENCED`, but holds the entry that admits it (R426, R428, log 33). -/
def noteAdmission (s : State) (a : Arrival) : State :=
  if s.rst.selfFenced && portLive s a.port.toNat && !a.frame.poisoned then
    match parseEntry a.frame.payload with
    | some (e, commit) =>
      match e.body with
      | .fence f => if f.subject = s.self ∧ (f.action = 5 ∨ f.action = 6) ∧ e.index ≤ commit ∧ e.day > s.day then holdEntry s e else s
      | _ => s
    | none => s
  else s

/-- `CH_ENTRY` (R355). -/
def execChEntry (a : Arrival) (s : State) : Out :=
  commit s (finish (arrive (noteAdmission s a) a.port.toNat none (asRequest 0x80 a.frame) (fun s r => entryArrives s r)))

/-- `VOTE_REQ` (R350, R351). -/
def execVoteReq (a : Arrival) (s : State) : Out :=
  commit s (finish (arrive s a.port.toNat none (asRequest 0x80 a.frame) (fun s r => voteRequest s r)))

/-- `CH_VOTE` (R350, R351, R353). -/
def execChVote (a : Arrival) (s : State) : Out :=
  commit s (finish (arrive s a.port.toNat none (asCompletion a.frame) (fun s _ => s)))

/-- `LEADER_NOP` (R350): the leader has sent nothing for 64 Days. -/
def execLeaderNop (s : State) : Out :=
  commit s (if s.running && leads s && decide (s.day ≥ s.ch.lastSent + 64) then finish (append s 0 .nop 0 none) else s)

/-- `ELECTION_TIMEOUT` (R350): 256 + 64 × rank Days without an entry of the term. -/
def execElectionTimeout (s : State) : Out :=
  commit s (if s.running && s.ch.role == 1 && decide (s.day ≥ s.ch.lastHeard + 256 + 64 * s.ch.rank) then finish (becomeCandidate s) else s)

/-- `CANDIDATE_TIMEOUT` (R350): not won within 128 Days. -/
def execCandidateTimeout (s : State) : Out :=
  commit s (if s.running && s.ch.role == 2 && decide (s.day ≥ s.ch.candSince + 128) then
    finish (s.setCh { s.ch with role := 1, lastHeard := s.day, votes := [] }) else s)

/-- An entry goes again to a module that has not answered it for 16 Days (R355). -/
def resendEntry (s : State) (target : Ep) (i : Nat) : State :=
  match KMap.find s.ch.log i with
  | none => s
  | some e =>
    let l := KMap.getD s.ch.unacked i []
    if l.any (fun p => p.1 == target && decide (s.day ≥ p.2 + 16)) then
      sendEntry (s.setCh { s.ch with unacked := KMap.put s.ch.unacked i (l.map (fun p => if p.1 = target then (target, s.day) else p)) }) target e false
    else if i > s.ch.commit ∧ s.alm.cur.members.contains target = true ∧ (KMap.getD s.ch.acks i []).contains target = false then sendEntry s target e false
    else s

/-- `ENTRY_RESEND` (R355). -/
def execEntryResend (module : Ep) (index : W64) (s : State) : Out :=
  commit s (if s.running && leads s then finish (resendEntry s module index.toNat) else s)

/-- The 64 Days of R354 have passed for an inherited entry. -/
def settleTimeout (s : State) (i : Nat) : State :=
  match KMap.find s.ch.settle i with
  | some x => if s.day ≥ x.day + 64 then settleEntry s i x else s
  | none => s

/-- `SETTLE_QUERY_TIMEOUT` (R354). -/
def execSettleQueryTimeout (index : W64) (s : State) : Out :=
  commit s (if s.running && leads s then finish (settleTimeout s index.toNat) else s)

end Sys2Proof.Machine
end

