-- ==== Sys2Proof/Machine/Work.lean ====
section
/-! DEFINITION. Work that a module stops before its end: requests of a destroyed slot, of a fenced device, of an extent whose
revocation completes, of a function whose drain has ended (R370, R405, R427, R456). -/

namespace Sys2Proof.Machine

/-- Take back a copy without an answer: its counter's page is held by one less (R155). -/
def dropCopy (s : State) (id : Nat) : State :=
  match KMap.find s.home.copies id with
  | none => s
  | some c =>
    addHold (s.setHome { s.home with copies := KMap.del s.home.copies id }) (c.counter / 2 ^ 30) (c.counter / 65536 % 2 ^ 14) false

/-- End a copy with a status: with `count`, what is still unread is counted as pieces that failed (R405), else it stops at once. -/
def endCopy (s : State) (id : Nat) (status : BitVec 8) (count : Bool) : State :=
  match KMap.find s.home.copies id with
  | none => s
  | some c =>
    if count then
      let left := (c.runs.map (fun r => r.2.2)).sum
      let s := s.setHome { s.home with copies := KMap.put s.home.copies id { c with runs := [], worst := worse c.worst status } }
      finishCopy (addCounter s c.counter left) id
    else completeStatus (dropCopy s id) c.req status

/-- End the KV scans and assemblies of some requests. -/
def endScans (s : State) (sel : Req → Bool) (status : BitVec 8) : State :=
  s.eng.kvScans.foldl (fun s p =>
    if sel p.2.req && p.2.coordinator.isNone && (KMap.find s.eng.kvScans p.1).isSome then
      let mine := s.home.copies.filter (fun c => c.2.scanOf == some p.1)
      failScan (mine.foldl (fun s c => dropCopy s c.1) s) p.1 p.2 status
    else s) s

/-- End the held updates, appends and KV commands of some requests (R278, R306). -/
def endHeld (s : State) (sel : Req → Bool) (status : BitVec 8) : State :=
  let s := s.eng.updates.foldl (fun s p =>
    if sel p.2.req then completeStatus (s.setEng { s.eng with updates := KMap.del s.eng.updates p.1 }) p.2.req status else s) s
  s.eng.kvHeld.foldl (fun s p =>
    if sel p.2.req then completeStatus (s.setEng { s.eng with kvHeld := KMap.del s.eng.kvHeld p.1 }) p.2.req status else s) s

/-- End the armed waits of some requests, without a `CTR_WAKE` (R405, R441). -/
def endWaits (s : State) (sel : Req → Bool) (status : BitVec 8) : State :=
  s.home.waits.foldl (fun s p =>
    let w := p.2
    if sel w.req then
      let s := s.setHome { s.home with waits := KMap.del s.home.waits p.1 }
      completeStatus (addHold s (w.counter / 2 ^ 30) (w.counter / 65536 % 2 ^ 14) false) w.req status
    else s) s

/-- End what waits at a home or an engine. -/
def endWaiting (s : State) (sel : Req → Bool) (status : BitVec 8) : State :=
  let s := s.home.held.foldl (fun s p => if sel p.2.req then failWork s p.2.req status else s) s
  let s := s.home.operandWaits.foldl (fun s p => if sel p.2.req then failWork s p.2.req status else s) s
  s.eng.queue.foldl (fun s p => if sel p.2.req then failWork s p.2.req status else s) s

/-- End what a first hop or a switch holds: held stores, requests that wait for a path, members of a combining entry that has not
gone out. The members of a fetch-add that is out are answered by its reply (R152). -/
def endHop (s : State) (sel : Req → Bool) (status : BitVec 8) : State :=
  let s := s.xb.flagged.foldl (fun s p =>
    if sel p.2.req then completeStatus (freeReq (s.setXb { s.xb with flagged := KMap.del s.xb.flagged p.1 }) p.2.req) p.2.req status else s) s
  let s := s.xb.waiting.foldl (fun s p =>
    if sel p.2.req then
      let s := s.setXb { s.xb with waiting := KMap.del s.xb.waiting p.1 }
      if p.2.req.port < 512 then completeStatus (freeReq s p.2.req) p.2.req status else s
    else s) s
  s.xb.combine.foldl (fun s p =>
    let e := p.2
    let gone := e.members.filter sel
    let left := e.members.filter (fun r => !sel r)
    if gone.isEmpty || (e.sentSeq.isSome && !e.isRead && !left.isEmpty) then s
    else
      let s := s.setXb { s.xb with combine := if left.isEmpty then KMap.del s.xb.combine p.1 else KMap.put s.xb.combine p.1 { e with members := left } }
      gone.foldl (fun s r => completeStatus (if e.isRead || e.sentSeq.isSome then s else freeReq s r) r status) s) s

/-- End the reads that wait for a tray or lender. -/
def endReads (s : State) (sel : Req → Bool) (status : BitVec 8) : State :=
  s.home.fetches.foldl (fun s p =>
    match p.2.why with
    | .read r =>
      if sel r then completeStatus (accessEnds (s.setHome { s.home with fetches := KMap.del s.home.fetches p.1 }) p.2) r status else s
    | _ => s) s

/-- Stop all work for some requests that this module has admitted and not completed: each completes with a status, and nothing
further of it is applied. `count` is for the copies of a destroyed slot, `reads` ends reads that wait for a tray at once. -/
def stopWork (s : State) (sel : Req → Bool) (status : BitVec 8) (count reads : Bool) : State :=
  let s := endScans s sel status
  let s := s.eng.attns.foldl (fun s p => if sel p.2.req then failAttn s p.1 status else s) s
  let s := s.eng.searches.foldl (fun s p => if sel p.2.req then failSearch s p.1 status else s) s
  let s := endHeld s sel status
  let s := s.home.copies.foldl (fun s p => if sel p.2.req && p.2.scanOf.isNone then endCopy s p.1 status count else s) s
  let s := endWaits s sel status
  let s := endWaiting s sel status
  let s := endHop s sel status
  if reads then endReads s sel status else s

/-- Close every open chunk of a composition (R245, R405, R436). -/
def stopChunks (s : State) (c : BitVec 12) (status : BitVec 8) : State :=
  s.eng.chunks.foldl (fun s p => if p.2.node.comp = c then failChunk s p.1 status else s) s

/-! ## The in-flight counter of an extent (R368) -/

/-- Whether a request reads or writes an extent of its composition. -/
def touches (s : State) (c : BitVec 12) (idx : Nat) (r : Req) : Bool :=
  let op := r.hdr.opcode.toNat
  r.hdr.comp == c &&
    (if addressRouted op || decide (op = 0x31) then extOf r.hdr.addr == idx
     else if op = 0x48 then s.eng.parts.any (fun p => p.1 / 2 ^ 40 == c.toNat && p.2.ext == idx)
     else if op = 0x15 ∨ op = 0x49 ∨ op = 0x53 then (kvPool s c).contains idx
     else (List.range 8).any (fun i => wordAt r.payload i / 2 ^ 30 == idx))

/-- Whether a copy still reads an extent. -/
def copyTouches (c : BitVec 12) (idx : Nat) (x : CopyWork) : Bool :=
  x.req.hdr.comp == c && (x.extIdx == idx || x.runs.any (fun r => r.1 / 2 ^ 30 == idx))

/-- The requests, commands and copies that this module has admitted and not completed, copies apart. -/
def heldReqs (s : State) : List Req :=
  s.home.held.map (fun p => p.2.req) ++ s.home.operandWaits.map (fun p => p.2.req) ++ s.eng.queue.map (fun p => p.2.req)
    ++ s.home.waits.map (fun p => p.2.req) ++ s.eng.kvScans.map (fun p => p.2.req) ++ s.eng.attns.map (fun p => p.2.req)
    ++ s.eng.searches.map (fun p => p.2.req) ++ s.eng.updates.map (fun p => p.2.req) ++ s.eng.kvHeld.map (fun p => p.2.req)
    ++ s.home.fetches.filterMap (fun p => match p.2.why with | .read r => some r | _ => none)

/-- The in-flight counter of an extent at its home. -/
def inFlight (s : State) (c : BitVec 12) (idx : Nat) : Nat :=
  ((heldReqs s).eraseDups.filter (touches s c idx)).length + (s.home.copies.filter (fun p => copyTouches c idx p.2)).length

/-- Stop every request that the in-flight counter of an extent holds (R370). -/
def stopExtent (s : State) (c : BitVec 12) (idx : Nat) : State :=
  let s := s.home.copies.foldl (fun s p =>
    if copyTouches c idx p.2 then
      match p.2.scanOf with
      | none => endCopy s p.1 0x50 false
      | some _ => endScans s (fun r => r == p.2.req) 0x50
    else s) s
  stopWork s (touches s c idx) 0x50 false true

end Sys2Proof.Machine
end

