-- ==== Sys2Proof/Machine/Reroute.lean ====
section
/-! DEFINITION. Frames as cells and back, and what a module does when a path leaves service: frames go by another, flows take a new
port (R95, R99, R160, R427). -/

namespace Sys2Proof.Machine

/-! ## Cells (R95, R99) -/

/-- The bytes that a cell carries of its frame. -/
def Cell.used (c : Cell) : Nat := if c.bytes = 0 then 256 else min 256 c.bytes.toNat

/-- Bits 95:32 of the envelope, which `CCRC` covers after the content. -/
def Cell.head (c : Cell) : List Byte :=
  beBytes 4 (b2n c.sof * 2 ^ 31 + b2n c.eof * 2 ^ 30 + c.cls.toNat * 2 ^ 27 + c.bytes.toNat * 2 ^ 18 + c.lseq.toNat * 4 + b2n c.poison * 2)
    ++ beBytes 4 c.pcrc.toNat

/-- The bytes of a frame that its cells carry so far. -/
def cellBytes (l : List Cell) : List Byte := l.flatMap (fun c => c.content.take (Cell.used c))

/-- A frame from its bytes: `LENGTH` counts the payload it carries, a read's aside (R69). -/
def frameOf (bs : List Byte) (poisoned : Bool) : Frame := { hdr := parseHeader bs, payload := bs.drop 64, poisoned := poisoned }

/-! ## Another path (R160) -/

/-- Send a frame that another link held by another path; where none is up it waits, as from its arrival (R506). -/
def resendFrame (s : State) (f : Frame) (o : Origin) : State :=
  match nextPort s f.hdr.src f.hdr.dest f.hdr.cls with
  | some p => store s p f o 0 none 0
  | none =>
    let r := newReq s f o.port o.lseq (localPort s f.hdr.src).isSome
    waitPath s { r with day := o.admitted / 4096, cycle := o.admitted % 4096, mir := o.mir } false

/-- The frames other than TC0 that a link's retransmission buffer holds, in the order they were sent: not yet acknowledged, and TC6 frames
not yet released. Copies of a multicast frame go no other way; a frame that is still being sent moves with its queue. -/
def heldFrames (p : PortSt) (sending : Option Nat) : List Frame :=
  (p.tc6Sent.filter (fun x => some x.1 != sending)).map (fun x => x.2.1)
    ++ (p.sent.filter (fun x => x.frame.hdr.cls != 6 && x.copy.isNone)).map (fun x => x.frame)

/-- Release a port's share of a stored copy; with the last share its cells are free, and the credits for them go back (R127). -/
def releaseShare (s : State) (copy : Option Nat) (port : Nat) : State :=
  match copy.bind (KMap.find s.xb.copies) with
  | none => s
  | some c =>
    let l := c.targets.filter (· != port)
    let id := copy.getD 0
    if l.isEmpty then freeCredit (s.setXb { s.xb with copies := KMap.del s.xb.copies id }) c.inPort c.frame.hdr.cls (frameSize c.frame)
    else s.setXb { s.xb with copies := KMap.put s.xb.copies id { c with targets := l } }

/-- The requests that wait here and are made of a frame in arrival. -/
def arrivingReqs (s : State) (name : Nat) : List Req :=
  ((s.xb.flagged.map (fun f => f.2.req)) ++ (s.xb.waiting.map (fun w => w.2.req)) ++ s.xb.combine.flatMap (fun e => e.2.members)).filter (fun r =>
    r.rx == some name)

/-- Forget what has been made of a frame in arrival, as far as none of its cells has gone on. -/
def dropArrival (s : State) (name : Nat) : State :=
  let gone := arrivingReqs s name
  let copies := s.xb.queue.filter (fun q => q.2.frame.rx == some name && q.2.begun.isNone && q.2.copy.isSome)
  let s := s.setXb { s.xb with
    flagged := KMap.keep s.xb.flagged (fun _ f => f.req.rx != some name), waiting := KMap.keep s.xb.waiting (fun _ w => w.req.rx != some name),
    combine := KMap.keep s.xb.combine (fun _ e => !(e.members.any (fun r => r.rx == some name))),
    leases := KMap.keep s.xb.leases (fun _ l => l.req.rx != some name && !(gone.any (sameReq l.req))),
    queue := KMap.keep s.xb.queue (fun _ q => !(q.frame.rx == some name && q.begun.isNone)) }
  copies.foldl (fun s q => releaseShare s q.2.copy q.2.port) s

/-- Move the output queue and the flows of some ports to other paths. -/
def moveQueues (s : State) (bad : Nat → Bool) : State :=
  let mine := s.xb.queue.filter (fun q => bad q.2.port)
  let s := s.setXb { s.xb with queue := KMap.keep s.xb.queue (fun _ q => !bad q.port),
                               pins := KMap.mapVals s.xb.pins (fun x => if bad x.port then { x with port := 512 } else x) }
  mine.foldl (fun s q => if q.2.copy.isSome then releaseShare s q.2.copy q.2.port
    else if q.2.frame.hdr.cls = 0 then s else resendFrame s q.2.frame (queueOrigin q.2)) s

/-- The first cell of the frame that a port is sending, TC0 apart. -/
def sendingFirst (s : State) (port : Nat) : Option Nat :=
  ((s.port port).txOther.bind (KMap.find s.xb.queue)).bind (fun q => q.begun.map (fun t => t.first.toNat))

/-- A link has left service: what it held goes by other paths, the frames sent before those that wait to be (R159). A frame in arrival on
it will be sent again by its sender, who has no acknowledgement of it. -/
def rerouteLink (s : State) (port : Nat) : State :=
  let old := s.port port
  let sending := sendingFirst s port
  let s := s.updPort port (fun p => { p with unacked := [], sent := [], resendQ := [], tc6Sent := [], tc6Wait := [], openTc0 := none, openOther := none,
                                             txTc0 := none, txOther := none, control := [], nakSent := false })
  let s := old.sent.foldl (fun s x => releaseShare s x.copy port) s
  let s := match old.openOther with | some o => dropArrival s o.name | none => s
  moveQueues ((heldFrames old sending).foldl (fun s f => resendFrame s f { ownOrigin s f.hdr with mir := none }) s) (· == port)

/-- Ports whose neighbour is a fenced module, and what still goes through them. -/
def fencedPort (s : State) (port : Nat) : Bool :=
  match s.bind port with | some b => b.fabric && isFenced s b.ep | none => false

/-- Frames routed through a fenced module go another way (R427). -/
def rerouteFenced (s : State) : State :=
  ((fabricPorts s).filter (fencedPort s)).foldl (fun s p => rerouteLink s p) s

end Sys2Proof.Machine
end

