-- ==== Sys2Proof/Machine/Apply.lean ====
section
/-! DEFINITION. What a Chronicle entry does at its Day: epochs, extents, keys, regions, lends, warrens and fences (R137, R196 to
R204, R264, R355, R361, R366 to R370, R398, R400, R405, R427, R428, R436, R440). -/

namespace Sys2Proof.Machine

/-! ## Epochs and the Extent Table (R361, R362) -/

/-- Raise a composition's epoch, once a Day: the old one keeps its grace for one Week. -/
def raise (s : State) (c : BitVec 12) : State :=
  if (s.comp c).epochDay = s.day then s
  else s.updComp c (fun x => { x with epoch := x.epoch + 1, epochDay := s.day, graceEnd := some (s.day + 4096), old := [] })

/-- The raise of an entry at its Day: a module that holds no Extent Table of the composition yet takes `E_EPOCH` (R358). -/
def raiseFor (s : State) (c : BitVec 12) (epoch : BitVec 16) : State :=
  let fresh := (s.comp c).ext.isEmpty
  if (s.comp c).epochDay = s.day then s
  else (raise s c).updComp c (fun x => if fresh then { x with epoch := epoch } else x)

/-- Change an Extent Table entry, its value under the old epoch kept for the grace. -/
def changeExt (s : State) (c : BitVec 12) (idx : Nat) (f : ExtEntry → ExtEntry) : State :=
  s.updComp c (fun x =>
    let was := KMap.getD x.ext idx ExtEntry.none_
    { x with ext := KMap.put x.ext idx (f was),
             old := if was.state = 0 ∨ (KMap.find x.old idx).isSome then x.old else KMap.put x.old idx was })

/-- The state of an extent in the map of the old epoch. -/
def markOld (s : State) (c : BitVec 12) (idx : Nat) (st : BitVec 2) : State :=
  s.updComp c (fun x => { x with old := match KMap.find x.old idx with
    | some o => if o.state = 0 then x.old else KMap.put x.old idx { o with state := st }
    | none => x.old })

/-- The edge endpoints of a composition that this module binds. -/
def boundEdges (s : State) (c : BitVec 12) : List Ep :=
  ((s.alm.cur.ports.filter (fun p => !p.2.fabric && p.2.comp == some c)).map (fun p => p.2.ep)).eraseDups

/-- An extent that this module homes from now on. -/
def newHomeExt (s : State) (c : BitVec 12) (b : ExtBody) (idx he : Nat) : State :=
  let x : HomeExt := { comp := c, tenant := (match s.compEntry c with | some e => e.tenant | none => 0), idx := idx, codec := b.codec,
                       elem := b.elem, pages := [], lost := false, proAll := false, blocks := [], overflow := [], ovfArea := [] }
  s.setHome { s.home with exts := KMap.put s.home.exts he x }

/-! ## Keys (R398, R400, R401, R405, R407) -/

/-- Install a composition's key in a slot. Without a key by the Day, the module fences itself (R378). -/
def installKey (s : State) (c : BitVec 12) (slot : BitVec 10) (gen : BitVec 6) : State :=
  let k := KMap.getD s.kp.slots slot.toNat KeySlot.init
  let s := s.updComp c (fun x => { x with keySlot := slot })
  if k.comp = c ∧ (k.state = 1 ∨ k.state = 2) then s
  else match takeReady s (grantKey c slot) with
  | none => selfFence s
  | some (n, s) =>
    let x : KeySlot := { state := 1, gen := gen, comp := c, sweepExt := 0, sweepPage := 0, keys := [(gen.toNat, n)] }
    s.setKp { s.kp with slots := KMap.put s.kp.slots slot.toNat x }

/-- Pages that a rotation re-encrypts, by home extent and page (R401). -/
def sweepPages (s : State) (c : BitVec 12) : List (Nat × Nat) :=
  (s.home.exts.filter (fun e => e.2.comp == c)).flatMap (fun e =>
    (e.2.pages.filter (fun p => (p.2.state == .resident || p.2.state == .moving) && p.2.loc.tier != .t0)).map (fun p => (e.1, p.1)))

/-- The key of the older generation is destroyed, and the slot is active again (R401). -/
def sweepEnds (s : State) (slot : Nat) : State :=
  match KMap.find s.kp.slots slot with
  | none => s
  | some k =>
    let k := { k with state := 1, keys := KMap.keep k.keys (fun g _ => g == k.gen.toNat), sweepExt := 0, sweepPage := 0 }
    (s.setKp { s.kp with slots := KMap.put s.kp.slots slot k }).setSweeps (KMap.del s.sweeps slot)

/-- A rotation: the next generation's key, and a sweep of the composition's pages. -/
def rotate (s : State) (slot : Nat) (k : KeySlot) : State :=
  match takeReady s (turnKey (.ofNat 10 slot) k.gen) with
  | none => selfFence s
  | some (n, s) =>
    let g := k.gen + 1
    let k := { k with state := 2, gen := g, keys := KMap.put k.keys g.toNat n, sweepExt := 0, sweepPage := 0 }
    let s := s.setKp { s.kp with slots := KMap.put s.kp.slots slot k }
    match sweepPages s k.comp with
    | [] => sweepEnds s slot
    | l => s.setSweeps (KMap.put s.sweeps slot { pagesLeft := l, rewriting := none, dest := none })

/-- A destruction: the keys are gone, and all work of the slot ends `REVOKED` (R405). -/
def destroySlot (s : State) (slot : Nat) (k : KeySlot) : State :=
  let s := (s.setKp { s.kp with slots := KMap.put s.kp.slots slot { k with state := 3, keys := [], sweepExt := 0, sweepPage := 0 } }).setSweeps
    (KMap.del s.sweeps slot)
  let s := s.home.moves.foldl (fun s m =>
    match s.homeExt m.2.homeExt with
    | some x => if x.comp = k.comp then abandonMove s m.1 false else s
    | none => s) s
  let s := s.setHome { s.home with orders := KMap.keep s.home.orders (fun _ o => !pageRevoked s o.homeExt) }
  let s := stopWork s (fun r => r.hdr.keySlot.toNat == slot && r.hdr.comp == k.comp) 0x30 true false
  stopChunks s k.comp 0x30

/-- A key revocation at its Day, on a module that holds the slot. -/
def applyRevoke (s : State) (slot : Nat) (gen : BitVec 6) (destroy : Bool) : State :=
  match KMap.find s.kp.slots slot with
  | none => s
  | some k => if k.gen ≠ gen ∨ k.state = 0 ∨ k.state = 3 then s else if destroy then destroySlot s slot k else rotate s slot k

/-- A destroyed slot is free once no extent of its composition is left; its next composition goes on from the next generation
(R407). -/
def freeSlot (s : State) (c : BitVec 12) : State :=
  let slot := (s.comp c).keySlot.toNat
  match KMap.find s.kp.slots slot with
  | some k =>
    if k.state = 3 ∧ k.comp = c ∧ (s.comp c).ext.all (fun e => e.2.state == 0) = true then
      s.setKp { s.kp with slots := KMap.put s.kp.slots slot { KeySlot.init with gen := k.gen } }
    else s
  | none => s

/-! ## Extents (R360, R366 to R370, R504) -/

/-- A grant at its Day. -/
def applyGrant (s : State) (c : BitVec 12) (epoch : BitVec 16) (b : ExtBody) : State :=
  let s := installKey (raiseFor s c epoch) c b.keySlot b.keyGen
  let idx := b.extIdx.toNat
  let e : ExtEntry := { home := b.home, mode := b.mode, state := 1, writer := b.writer, homeExt := b.homeExt, published := b.published, svc := b.svc }
  let s := changeExt s c idx (fun _ => e)
  if b.home = s.self then newHomeExt s c b idx b.homeExt.toNat else s

/-- The `REVOKE_NOTICE` payload (R367). -/
def noticeBytes (s : State) (c : BitVec 12) (b : ExtBody) (v : Nat) : List Byte :=
  wordsBytes [b.extIdx.toNat * 2 ^ 44 + b.newHome.toNat * 2 ^ 28 + (s.comp c).epoch.toNat * 2 ^ 12, v * 65536]

/-- A take at its notice Day: the extent is draining in both maps, a re-homed index is granted at its new home, and the edge
endpoints are told. One that names the home it has changes nothing (R438, R504). A module that it newly involves learns the index from
its body. -/
def applyTake (s : State) (c : BitVec 12) (epoch : BitVec 16) (b : ExtBody) : State :=
  let idx := b.extIdx.toNat
  let known := KMap.getD (s.comp c).ext idx ExtEntry.none_
  if b.newHome ≠ 0 ∧ known.home = b.newHome ∧ known.homeExt = b.newHomeExt then s
  else
    let s := raiseFor s c epoch
    let cur : ExtEntry := if known.state = 0 then
        { home := b.home, homeExt := b.homeExt, mode := b.mode, state := 1, published := b.published, svc := b.svc, writer := b.writer }
      else known
    let s := if known.state = 0 then s.updComp c (fun x => { x with ext := KMap.put x.ext idx cur }) else s
    let v := s.day + (match s.compEntry c with | some e => e.drainDays | none => 1024)
    let moved := b.newHome ≠ 0
    let s := changeExt s c idx (fun e => if moved then { e with home := b.newHome, homeExt := b.newHomeExt, state := 1 } else { e with state := 2 })
    let s := markOld s c idx 2
    let r : RevSt := { notice := s.day, revDay := v, home := cur.home, homeExt := cur.homeExt.toNat, newHome := b.newHome, scrubbing := false, stopped := false }
    let s := s.updComp c (fun x => { x with rev := KMap.put x.rev idx r })
    let s := if moved ∧ b.newHome = s.self then newHomeExt (installKey s c b.keySlot b.keyGen) c b idx b.newHomeExt.toNat else s
    (boundEdges s c).foldl (fun s e =>
      let bs := noticeBytes s c b v
      sendRequest s { hdr := { ownHeader s 0x83 e bs.length with comp := c, epoch := (s.comp c).epoch }, payload := bs, poisoned := false }) s

/-- At V every map that names the extent as draining names it as revoked (R369). -/
def revokeDue (s : State) : State :=
  s.comps.foldl (fun s p =>
    let c : BitVec 12 := .ofNat 12 p.1
    p.2.rev.foldl (fun s r =>
      if r.2.revDay ≤ s.day then
        let s := markOld s c r.1 3
        if r.2.newHome = 0 then s.updComp c (fun x => { x with ext := KMap.upd x.ext r.1 ExtEntry.none_ (fun e => if e.state = 2 then { e with state := 3 } else e) })
        else s
      else s) s) s

/-- A mode change at its Day. -/
def applyMode (s : State) (c : BitVec 12) (epoch : BitVec 16) (b : ExtBody) : State :=
  changeExt (raiseFor s c epoch) c b.extIdx.toNat (fun e => if e.state = 0 then e else { e with mode := b.mode, writer := b.writer, published := b.published })

/-- An `EXT_DONE` at its Day: the taken extent is not granted any more, and a destroyed slot may be free (R370, R407). -/
def applyDone (s : State) (c : BitVec 12) (idx : Nat) : State :=
  match KMap.find (s.comp c).rev idx with
  | none => s
  | some r =>
    let s := s.updComp c (fun x => { x with rev := KMap.del x.rev idx, old := KMap.del x.old idx,
                                            ext := if r.newHome = 0 then KMap.del x.ext idx else x.ext })
    let s := if r.home = s.self then s.setHome { s.home with exts := KMap.del s.home.exts r.homeExt } else s
    freeSlot s c

/-! ## Regions and publications (R196 to R203) -/

/-- The key of a composition's region. -/
def regionKey (c : BitVec 12) (r : BitVec 32) : Nat := c.toNat * 2 ^ 32 + r.toNat

/-- The home extent and page of an anchor page, where it is homed here. -/
def anchorPlace (s : State) (x : Region) : Option (Nat × Nat) :=
  x.anchor.bind (fun a => (ownExtent s x.comp (extOf (.ofNat 64 a))).map (fun he => (he, pageOf (.ofNat 64 a))))

/-- The pin word of a slot, where the anchor page is homed here. -/
def pinWord (s : State) (x : Region) (slot : Nat) : Nat :=
  match anchorPlace s x with
  | some (he, page) => counterAt s he page (slot * 128 + 8)
  | none => 0

/-- The pin count of a slot. -/
def pinsOf (s : State) (x : Region) (slot : Nat) : Nat := pinWord s x slot % 2 ^ 56

/-- The state that a slot holds. -/
def slotState (s : State) (x : Region) (slot : Nat) : Nat := pinWord s x slot / 2 ^ 56

/-- Change a region's record. -/
def putRegion (s : State) (x : Region) : State := s.setHome { s.home with regions := KMap.put s.home.regions (regionKey x.comp x.region) x }

/-- A hash as four words. -/
def hashWords (h : BitVec 256) : List Nat := [h.toNat / 2 ^ 192, h.toNat / 2 ^ 128 % 2 ^ 64, h.toNat / 2 ^ 64 % 2 ^ 64, h.toNat % 2 ^ 64]

/-- The lines that a write of the anchor page covers. -/
def AnchorJob.lines (j : AnchorJob) : List Nat :=
  match j with | .layout => List.range 512 | .current .. => [0] | .slot n _ _ => [n] | .unpin n _ => [n]

/-- Where in the page a write starts, and its words, with the pins as they are now (R196, R200, R203). -/
def AnchorJob.write (s : State) (x : Region) (j : AnchorJob) : Nat × List Nat :=
  match j with
  | .layout => (0, [x.region.toNat * 2 ^ 32] ++ List.replicate 8191 0)
  | .current n version hash => (0, [x.region.toNat * 2 ^ 32 + version.toNat, n] ++ hashWords hash)
  | .slot n st v => (n * 128, [v.version.toNat * 2 ^ 32, st * 2 ^ 56 + pinsOf s x n] ++ hashWords v.hash ++ [v.base, v.commitDay * 65536 + v.extents])
  | .unpin n count => (n * 128 + 8, [slotState s x n * 2 ^ 56 + (pinsOf s x n - count)])

/-- Whether a home's write to lines of its anchor page can be made now: holders of the lines are told and must have answered, and the page must
take a store (R142, R188, R196). -/
def anchorReady (s : State) (x : Region) (he page : Nat) (lines : List Nat) : State × Bool :=
  let h := { ownHeader s 0x14 s.self 0 with comp := x.comp, epoch := (s.comp x.comp).epoch }
  match linesAccess s h .store (lines.map (fun l => he * 2 ^ 23 + page * 512 + l)) with
  | (s, false) => (s, false)
  | (s, true) =>
    match prepareStore s he page with
    | (s, .ready) => (s, true)
    | (s, _) => (s, false)

/-- What an anchor page's first layout makes of its page: closed to writes and pinned in T1 (R196). -/
def anchorPage (s : State) (he page : Nat) : State :=
  let s := s.updPte he page (fun p => { p with anchor := true, pro := true, pin := true })
  if (s.pte he page).loc.tier = .t1 then s else orderPromotion s he page

/-- Write what waits for an anchor page, in order, until a line has to wait for a later Day boundary. -/
def flushJobs (s : State) (he page : Nat) (x : Region) (l : List AnchorJob) : State × List AnchorJob :=
  match l with
  | [] => (s, [])
  | j :: rest =>
    match anchorReady s x he page j.lines with
    | (s, false) => (s, j :: rest)
    | (s, true) =>
      let w := j.write s x
      let s := svcWrite s x.comp he (page * 65536 + w.1) (w.2.flatMap (leBytes 8))
      flushJobs (if j = .layout then anchorPage s he page else s) he page x rest

/-- Write what waits for a region's anchor page, where it is homed here. -/
def flushAnchor (s : State) (x : Region) : State :=
  match anchorPlace s x with
  | none => putRegion s { x with todo := [] }
  | some (he, page) => let (s, left) := flushJobs s he page x x.todo; putRegion s { x with todo := left }

/-- Every Day boundary writes what anchor pages still wait for. -/
def flushAnchors (s : State) : State := s.home.regions.foldl (fun s p => if p.2.todo.isEmpty then s else flushAnchor s p.2) s

/-- A region's record with one more write of its anchor page, made now where that is possible. -/
def anchorJob (s : State) (x : Region) (j : AnchorJob) : State := flushAnchor s { x with todo := x.todo ++ [j] }

/-- What this module holds of a region; a module that an entry newly involves does not know its anchor page. -/
def regionOf (s : State) (c : BitVec 12) (region : BitVec 32) : Region :=
  KMap.getD s.home.regions (regionKey c region) { comp := c, region := region, anchor := none, versions := [], retiring := [], current := 0 }

/-- A region is created: its anchor page is laid out, pinned in T1, and closed to writes (R196). -/
def applyRegion (s : State) (c : BitVec 12) (region : BitVec 32) (anchor : Nat) : State :=
  anchorJob s { regionOf s c region with anchor := some (anchor / 65536 * 65536) } .layout

/-- Set or clear `PRO` on every page of a version's extents homed here, and their mode in the table. -/
def setVersionMode (s : State) (v : Publication) (mode : BitVec 2) (pro published : Bool) : State :=
  (List.range v.extents).foldl (fun s i =>
    let idx := v.base / 2 ^ 30 + i
    let s := changeExt s v.comp idx (fun e => if e.state = 0 then e else { e with mode := mode, published := published })
    match ownExtent s v.comp idx with
    | some he => s.updExt he (fun x => { x with proAll := pro, pages := KMap.mapVals x.pages (fun p => if p.anchor then p else { p with pro := pro }) })
    | none => s) s

/-- A freeze at its Day: the extents are read-shared with `PRO` set, and the lowest free slot holds the version (R197). -/
def applyFreeze (s : State) (c : BitVec 12) (region version : BitVec 32) (base extents : Nat) : State :=
  let s := raise s c
  let x := regionOf s c region
  let slot := firstFree 256 1 (x.versions.map (·.1))
  let v : Publication := { comp := c, region := region, version := version, base := base, extents := extents, slot := slot, hashed := false, hash := 0 }
  let (id, s) := s.fresh
  let s := s.setHome { s.home with pubs := KMap.put s.home.pubs id v }
  let s := setVersionMode s v 1 true false
  if slot < 256 then anchorJob s { x with versions := KMap.put x.versions slot v } (.slot slot 1 v) else s

/-- The publication that an entry settles: that of its version and first extent (log 113). -/
def pubFor (s : State) (c : BitVec 12) (region version : BitVec 32) (base : Nat) : Option (Nat × Publication) :=
  KMap.first? s.home.pubs (fun _ v => v.comp == c && v.region == region && v.version == version && v.base == base)

/-- A publication entry at its Day: the version is committed, or its extents return to private (R199). -/
def applyPublication (s : State) (c : BitVec 12) (region version : BitVec 32) (hash : BitVec 256) (base : Nat) (reject : Bool) : State :=
  let s := raise s c
  match pubFor s c region version base with
  | none => s
  | some (id, v) =>
    let x := regionOf s c region
    let s := s.setHome { s.home with pubs := KMap.del s.home.pubs id }
    let v := { v with hash := hash, hashed := true, commitDay := s.day, blocks := [] }
    let earlier := x.versions.any (fun y => y.1 != v.slot && y.2.version == version && y.2.hashed)
    if reject ∨ earlier = true then
      anchorJob (setVersionMode s v 0 false false) { x with versions := KMap.del x.versions v.slot }
        (.slot v.slot 0 { v with version := 0, hash := 0, base := 0, extents := 0, commitDay := 0 })
    else anchorJob (setVersionMode s v 1 true true) { x with versions := KMap.put x.versions v.slot v } (.slot v.slot 2 v)

/-- The slot of a version that has been committed. -/
def versionSlot (x : Region) (version : BitVec 32) : Option (Nat × Publication) :=
  x.versions.find? (fun y => y.2.version == version && y.2.hashed)

/-- A promotion at its Day: line 0 names the version, which is committed and not retiring (R200). -/
def applyPromote (s : State) (c : BitVec 12) (region version : BitVec 32) : State :=
  let x := regionOf s c region
  match versionSlot x version with
  | none => s
  | some (slot, v) => if x.retiring.contains slot then s else anchorJob s { x with current := slot } (.current slot version v.hash)

/-- A retirement at its Day: the slot is retiring, unless its version is current (R203). -/
def applyRetire (s : State) (c : BitVec 12) (region version : BitVec 32) : State :=
  let x := regionOf s c region
  match versionSlot x version with
  | none => s
  | some (slot, v) =>
    if x.current = slot ∨ x.retiring.contains slot = true then s
    else anchorJob s { x with retiring := x.retiring ++ [slot] } (.slot slot 4 v)

/-- Take a version's extents back (R203). -/
def takeVersion (s : State) (v : Publication) : State :=
  (List.range v.extents).foldl (fun s i =>
    let idx := v.base / 2 ^ 30 + i
    let e := KMap.getD (s.comp v.comp).ext idx ExtEntry.none_
    let b : ExtBody := { extIdx := .ofNat 20 idx, home := e.home, homeExt := e.homeExt, mode := e.mode, published := e.published, svc := e.svc,
                         writer := e.writer, codec := 0, elem := 0, keySlot := 0, keyGen := 0, newHome := 0, newHomeExt := 0 }
    propose s v.comp (.take b) 0) s

/-- Retiring slots without pins are retired, and their extents are taken (R203). -/
def retireDue (s : State) : State :=
  s.home.regions.foldl (fun s p =>
    p.2.retiring.foldl (fun s slot =>
      match KMap.find s.home.regions p.1 with
      | none => s
      | some x =>
        if slotState s x slot ≠ 4 ∨ pinsOf s x slot ≠ 0 ∨ x.todo.any (fun j => j.lines.contains slot) = true then s
        else match KMap.find x.versions slot with
          | none => s
          | some v => takeVersion (anchorJob s x (.slot slot 5 v)) v) s) s

/-- The control node clears pins that a fenced reader held (R203). -/
def applyPinClear (s : State) (c : BitVec 12) (region version : BitVec 32) (count : Nat) : State :=
  let x := regionOf s c region
  match versionSlot x version with
  | some (slot, _) => anchorJob s x (.unpin slot count)
  | none => s

/-! ## Lends and warrens (R204, R264, R267) -/

/-- A lend at its home, under the lowest id that no lend holds (R204). -/
def applyLend (s : State) (lender : Ep) (base pages : Nat) (home : Ep) : State :=
  let id := firstFree 257 0 ((s.home.lends.filter (fun l => !l.2.ended)).map (·.1))
  if home ≠ s.self ∨ id ≥ 256 then s
  else s.setHome { s.home with lends := KMap.put s.home.lends id { lender := lender, base := base, pages := pages, notice := none, used := [], ended := false } }

/-- A warren at a module that homes partitions of it. -/
def applyWarren (s : State) (w : WarrenSpec) : State :=
  match w.runs.findIdx? (fun r => r.module == s.self), w.runs.find? (fun r => r.module == s.self) with
  | some i, some r =>
    let x : Warren := { spec := w, pFirst := r.firstPart.toNat, pLocal := r.parts.toNat, inIdx := i, spareA := r.spareA.toNat, spareB := r.spareB.toNat,
                        extFirst := r.extFirst.toNat }
    let wk := warrenKey w.comp w.warren
    let parts := (List.range r.parts.toNat).foldl (fun m k =>
      KMap.put m (partKey w.comp w.warren (r.firstPart.toNat + k)) (Part.empty (r.extFirst.toNat + k))) s.eng.parts
    let spares := KMap.put (KMap.put s.eng.spares (spareKey wk 0) r.spareA.toNat) (spareKey wk 1) r.spareB.toNat
    s.setEng { s.eng with warrens := KMap.put s.eng.warrens wk x, parts := parts, spares := spares }
  | _, _ => s

/-- A warren is dissolved. -/
def applyWarrenEnd (s : State) (c : BitVec 12) (w : BitVec 24) : State :=
  let wk := warrenKey c w
  s.setEng { s.eng with warrens := KMap.del s.eng.warrens wk, parts := KMap.keep s.eng.parts (fun k _ => decide (k / 2 ^ 16 ≠ wk)),
                        spares := KMap.keep s.eng.spares (fun k _ => decide (k / 2 ≠ wk)),
                        harvests := KMap.keep s.eng.harvests (fun _ h => decide (h.part / 2 ^ 16 ≠ wk)),
                        ordered := KMap.keep s.eng.ordered (fun k _ => decide (k / 2 ^ 16 ≠ wk)) }

/-! ## Fences and admissions (R427, R428, R434, R436, R440, R441) -/

/-- Remove an endpoint from the directory; a line that it owned is lost (R144). -/
def dropHolder (s : State) (ep : Ep) : State :=
  let s := s.home.dir.foldl (fun s d =>
    if d.2.holders.contains ep then
      let s := if d.2.state = .o then s.setHome { s.home with poison := addOnce s.home.poison d.1 } else s
      let left := d.2.holders.filter (· != ep)
      if left.isEmpty then delDir s d.1 else s.setHome { s.home with dir := KMap.put s.home.dir d.1 { d.2 with holders := left } }
    else s) s
  s.home.binv.foldl (fun s b => if b.2.await.contains ep then binvDone s b.1 ep else s) s

/-- Pages that a fenced tray or lender held are poisoned, and what waited on it completes `POISON` (R178, R208). -/
def lostStore (s : State) (ep : Ep) : State :=
  let waiting := s.home.fetches.filter (fun f => f.2.ep == ep)
  let s := waiting.foldl (fun s f =>
    match KMap.find s.home.fetches f.1, f.2.why with
    | none, _ => s
    | some _, .scrubWrite _ => s.setHome { s.home with fetches := KMap.del s.home.fetches f.1 }
    | some _, .sweepFrame _ => s.setHome { s.home with fetches := KMap.del s.home.fetches f.1 }
    | some _, _ => trayAnswer s f.1 f.2 0x40 []) s
  let at' (l : Loc) : Bool := match l with | .t2 e _ => e == ep | .t2n e _ _ => e == ep | _ => false
  let s := (pagesAt s at').foldl (fun s q => poisonPage s q.1 q.2) s
  s.setHome { s.home with lends := KMap.mapVals s.home.lends (fun l => if l.lender = ep then { l with ended := true } else l) }

/-- Leases on a fenced pool end (R440). -/
def poolLost (s : State) (pool : Ep) : State :=
  s.xb.leases.foldl (fun s l =>
    if l.2.pool = pool then completeStatus (s.setXb { s.xb with leases := KMap.del s.xb.leases l.1 }) l.2.req 0x32 else s) s

/-- The logical ports that a link chiplet carries: 64 working lanes of 68 (R9, R434). -/
def chipletPorts (s : State) (chiplet : Nat) : List Nat :=
  (s.alm.cur.ports.filter (fun p => p.1 / 64 == chiplet)).map (·.1)

/-- Take a port of this module out of service. -/
def portOut (s : State) (port : Nat) : State := rerouteLink (parentLost (setDown s port) port) port

/-- A fenced link or link chiplet leaves service everywhere (R434). -/
def linkOut (s : State) (subject : Ep) (port kind : Nat) : State :=
  let ports := if kind = 2 then [port] else if subject = s.self then chipletPorts s port else []
  let known := ports.map (fun p => subject.toNat * 65536 + p)
  let far := (s.alm.cur.topo.links.filter (fun l =>
    (l.a == subject && (if kind = 2 then l.portA == port else l.portA / 64 == port))
      || (l.b == subject && (if kind = 2 then l.portB == port else l.portB / 64 == port)))).flatMap (fun l =>
    ([(l.a, l.portA), (l.b, l.portB)] : List (Ep × Nat)))
  let s := s.setHealth { s.health with portsDown := (s.health.portsDown ++ known ++ far.map (fun (p : Ep × Nat) => p.1.toNat * 65536 + p.2)).eraseDups }
  let mine := (far.filter (fun (p : Ep × Nat) => p.1 == s.self)).map (·.2) ++ (if subject = s.self then ports else [])
  mine.eraseDups.foldl portOut s

/-- Clear a job's state for its replay, and make its spare active (R436). -/
def clearJob (s : State) (c : BitVec 12) (spare : Ep) : State :=
  let s := if c = 0 then s
    else
      let s := stopChunks s c 0x12
      s.setEng { s.eng with records := KMap.keep s.eng.records (fun _ r => r.comp != c) }
  if spare = 0 then s
  else s.setHealth { s.health with active := addOnce s.health.active spare.toNat,
                                   spares := KMap.mapVals s.health.spares (fun l => l.filter (· != spare)) }

/-- What this module still awaits from a fenced device for requests that others wait on, sub-requests, pieces and combined requests,
is answered `FENCED` (R293, R295, R322, R427). -/
def fenceOwn (s : State) (e : Ep) : State :=
  s.xb.own.foldl (fun s p =>
    let awaited := match p.2.why with | .combine _ => true | .piece .. => true | .search .. => true | .attn .. => true | _ => false
    if p.2.dest = e ∧ e ≠ s.self ∧ awaited = true then
      let h := { ownHeader s p.2.opcode.toNat e 0 with seq := .ofNat 32 p.1, addr := p.2.addr, etag := p.2.etag }
      loopBack s { hdr := completionHeader s h e 0x33 0 false, payload := [], poisoned := false }
    else s) s

/-- A fence in force: nothing of the subject is applied or sent from now on. -/
def fenceSubject (s : State) (e : Ep) : State :=
  let s := fenceOwn s e
  let s := s.setHealth { s.health with fenced := KMap.put s.health.fenced e.toNat s.day, probation := KMap.del s.health.probation e.toNat,
                                       active := s.health.active.filter (· != e.toNat) }
  let s := stopWork s (fun r => r.hdr.src == e || (r.hdr.dest == e && e != s.self)) 0x33 false true
  let s := dropHolder (lostStore (poolLost s e) e) e
  let s := rerouteFenced s
  if e = s.self then s.setRst { s.rst with selfFenced := true } else s

/-- An admission at its Solstice (R35, R428). -/
def admitDevice (s : State) (e : Ep) (comp : BitVec 12) (asSpare : Bool) : State :=
  let h := s.health
  let s := s.setHealth { h with fenced := KMap.del h.fenced e.toNat, expelled := h.expelled.filter (· != e.toNat), collateral := h.collateral.filter (· != e.toNat),
                                probation := KMap.del h.probation e.toNat,
                                active := if asSpare then h.active.filter (· != e.toNat) else addOnce h.active e.toNat,
                                spares := if asSpare then KMap.upd h.spares comp.toNat [] (fun l => addOnce l e) else h.spares,
                                portsDown := h.portsDown.filter (fun k => decide (k / 65536 ≠ e.toNat)) }
  if e = s.self then
    (s.setRst { s.rst with selfFenced := false, unaligned := false }).setEqx { s.eqx with out := false }
  else s

/-- A fence entry at its Day. -/
def applyFence (s : State) (f : FenceBody) : State :=
  let e := f.subject
  let n := f.action.toNat
  let device := decide (f.kind = 0 ∨ f.kind = 1 ∨ f.kind = 5 ∨ f.kind = 6)
  if n ≤ 2 then
    let s := if device then (if isFenced s e then s else fenceSubject s e)
      else if f.kind = 2 ∨ f.kind = 3 then linkOut s e f.port.toNat f.kind.toNat
      else s
    let s := s.setHealth { s.health with expelled := if n = 1 ∧ device = true then addOnce s.health.expelled e.toNat else s.health.expelled,
                                         collateral := if n = 2 then addOnce s.health.collateral e.toNat else s.health.collateral }
    clearJob s f.comp f.spare
  else if n = 3 then s.setHealth { s.health with probation := KMap.put s.health.probation e.toNat 0 }
  else if n = 4 then s.setHealth { s.health with probation := KMap.del s.health.probation e.toNat }
  else if n = 5 ∨ n = 6 then admitDevice s e f.comp (n == 6)
  else s

/-! ## Entries at their Day (R28, R355) -/

/-- The effect of an entry at its Day, key revocations apart, which come after all others (R28). -/
def applyEntry (s : State) (e : Entry) : State :=
  match e.body with
  | .nop => s
  | .void .. => s
  | .grant b => applyGrant s e.comp e.epoch b
  | .take b => applyTake s e.comp e.epoch b
  | .mode b => applyMode s e.comp e.epoch b
  | .done i => applyDone s e.comp i.toNat
  | .keyRevoke .. => s
  | .pubRegion r a => applyRegion s e.comp r a.toNat
  | .freeze r v base n => applyFreeze s e.comp r v base.toNat n.toNat
  | .publication r v h base rej => applyPublication s e.comp r v h base.toNat rej
  | .promote r v => applyPromote s e.comp r v
  | .retire r v => applyRetire s e.comp r v
  | .pinClear r v n => applyPinClear s e.comp r v n.toNat
  | .lend l b n h => applyLend s l b.toNat n.toNat h
  | .warren w => applyWarren s w
  | .warrenEnd w => applyWarrenEnd s e.comp w
  | .almCommit .. => s
  | .almRollback .. => s
  | .fence f => note (applyFence s f) 1 ((List.range (fenceBytes f).length).filterMap (fun i => if i % 8 = 0 then some (.ofNat 64 (wordAt (fenceBytes f) (i / 8))) else none))

/-- The entries whose Day has come and that have not been applied, in log order. -/
def dueEntries (s : State) : List Entry :=
  (s.ch.entries.map (·.2)).filter (fun e => decide (e.day ≤ s.day) && !s.ch.appliedSet.contains e.index)

/-- Apply what is due: map entries first, then key revocations (R28 steps 2 and 3). -/
def applyDue (s : State) : State :=
  let l := dueEntries s
  let s := revokeDue (l.foldl applyEntry s)
  let s := l.foldl (fun s e => match e.body with | .keyRevoke slot gen d => applyRevoke s slot.toNat gen d | _ => s) s
  s.setCh { s.ch with appliedSet := s.ch.appliedSet ++ l.map (·.index), applied := l.foldl (fun m e => max m e.index) s.ch.applied }

/-! ## Answers to map commands (R463, R464) -/

/-- An entry by its index, as this module holds it. -/
def entryAt (s : State) (i : Nat) : Option Entry :=
  match KMap.find s.ch.log i with | some e => some e | none => KMap.find s.ch.entries i

/-- Every entry that this module knows. -/
def knownEntries (s : State) : List Entry := ((s.ch.log ++ s.ch.entries).map (·.2)).eraseDups

/-- The first entry after another, its Day come, that a test accepts. -/
def laterEntry (s : State) (e : Entry) (f : EntryBody → Bool) : Option Entry :=
  (knownEntries s).find? (fun x => decide (x.index > e.index ∧ x.day ≤ s.day) && x.comp == e.comp && f x.body)

/-- The partition map that answers a creating command: module, first partition, partitions and first extent of each run (log 31). -/
def partitionMap (w : WarrenSpec) : List Byte :=
  wordsBytes (w.runs.map (fun r => r.module.toNat * 2 ^ 48 + r.firstPart.toNat * 2 ^ 32 + r.parts.toNat * 2 ^ 16) ++ w.runs.map (fun r => r.extFirst.toNat * 2 ^ 44))

/-- The answer to a command whose entry is known: status and body, none while it must wait. -/
def commandAnswer (s : State) (e : Entry) : Option (Nat × List Byte) :=
  let rolled := match e.body with | .almRollback .. => true | _ => false
  if e.day > s.day ∧ rolled = false then none
  else match e.body with
    | .take b =>
      match laterEntry s e (fun x => x == .done b.extIdx) with
      | some _ => some (0, [])
      | none =>
        let cur := KMap.getD (s.comp e.comp).ext b.extIdx.toNat ExtEntry.none_
        if b.newHome ≠ 0 ∧ cur.home = b.newHome ∧ (KMap.find (s.comp e.comp).rev b.extIdx.toNat).isNone then some (0, []) else none
    | .freeze r v base _ =>
      let slot := match versionSlot (regionOf s e.comp r) v with | some y => y.1 | none => 0
      match laterEntry s e (fun x => match x with | .publication r' v' _ b _ => r' == r && v' == v && b == base | _ => false) with
      | some { body := .publication _ _ _ _ true, .. } => some (0x22, [])
      | some _ => some (0, wordsBytes [slot])
      | none => none
    | .retire r v => some (if currentOf (inOrder ((knownEntries s).filter (fun x => x.comp == e.comp && comesBy x e))) r = some v then 0x10 else 0, [])
    | .warren w => some (0, partitionMap w)
    | .lend l _ _ h =>
      let id := (s.home.lends.filter (fun x => x.2.lender == l && !x.2.ended)).getLast?
      some (0, if h = s.self then (match id with | some x => wordsBytes [x.1 * 2 ^ 56] | none => []) else [])
    | .almCommit .. => none
    | .void .. => some (0x50, [])
    | _ => some (0, [])

/-- Answer the map commands whose Day has come. -/
def answerDue (s : State) : State :=
  s.ch.waiting.foldl (fun s w =>
    match entryAt s w.1 with
    | none => s
    | some e =>
      match commandAnswer s e with
      | some (st, bs) => answer (s.setCh { s.ch with waiting := KMap.del s.ch.waiting w.1 }) w.2.m st 0 bs
      | none => s) s

/-- The grace of an old epoch ends (R361). -/
def graceEnds (s : State) (c : BitVec 12) : State :=
  match (s.comp c).graceEnd with
  | some d => if s.day ≥ d then s.updComp c (fun x => { x with graceEnd := none, old := [] }) else s
  | none => s

/-- `GRACE_END` (R361). -/
def execGraceEnd (comp : BitVec 12) (s : State) : Out := commit s (graceEnds s comp)

end Sys2Proof.Machine
end

