-- ==== Sys2Proof/Machine/Session.lean ====
section
/-! DEFINITION. Control-node sessions and the acceptance of commands (R392, R463, R465). -/

namespace Sys2Proof.Machine

/-- Whether the Den can handle commands: no reset of the core dies runs, and the input is on (R483, R493). -/
def denUp (s : State) : Bool := s.power.inputOn && s.rst.running.isNone && !s.kp.noImage && (s.power.pstate == .p0 || s.power.pstate == .s1)

/-- `KP_STATUS`. -/
def kpStatusBits (s : State) : Nat :=
  let k := s.kp
  b2n k.idOk * 2 ^ 63 + b2n k.idFail * 2 ^ 62 + k.identity.toNat * 2 ^ 60 + b2n k.ownerRoot.isSome * 2 ^ 59 + b2n k.activeSlot * 2 ^ 58 + b2n k.fwPending * 2 ^ 57
    + b2n k.fallback * 2 ^ 56 + b2n k.entropyFail * 2 ^ 55 + min 7 k.sessions.length * 2 ^ 52 + min 255 k.badMac * 2 ^ 44 + k.svnFw.toNat * 2 ^ 28

/-- Note a change of the Keeper's registers on stream 4 (R465). -/
def keeperNote (s : State) : State := note s 4 [.ofNat 64 (kpStatusBits s), .ofNat 64 (lmsBits s.kp)]

/-- Keep an answer for the next session of its control node; 256 are kept, the newest (R463). -/
def storeAnswers (s : State) (l : List Answer) : State :=
  let all := s.fn.stored ++ l
  s.setFn { s.fn with stored := all.drop (all.length - 256) }

/-- End a session: its subscriptions end, its identity is kept for the answers it is still owed, and those not sent yet wait
(R463, R466). -/
def endSession (s : State) (id : Nat) : State :=
  match KMap.find s.kp.sessions id with
  | none => s
  | some x =>
    let s := keeperNote (s.setKp { s.kp with sessions := KMap.del s.kp.sessions id })
    let mine (a : Answer) : Bool := decide (a.m.session.toNat = id)
    let s := storeAnswers (s.setFn { s.fn with out := s.fn.out.filter (fun a => !mine a) }) (s.fn.out.filter mine)
    s.setFn { s.fn with storedIdent := KMap.put s.fn.storedIdent id x.ident, notes := KMap.del s.fn.notes id, dropped := KMap.del s.fn.dropped id,
                        noteSeq := KMap.keep s.fn.noteSeq (fun k _ => decide (k / 8 ≠ id)) }

/-- A command that is not accepted: counted, and the sixteenth ends its session (R392). -/
def discardCommand (s : State) (id : Nat) : State :=
  let s := s.setKp { s.kp with badMac := satAdd 8 s.kp.badMac 1 }
  let s := keeperNote s
  match KMap.find s.kp.sessions id with
  | none => s
  | some x =>
    if x.discards + 1 ≥ 16 then endSession s id
    else s.setKp { s.kp with sessions := KMap.put s.kp.sessions id { x with discards := x.discards + 1 } }

/-- Accept a command on its session: the number is above every one accepted, and the session has room for one more without an
answer (R392, R463). One whose frames have brought it in already is accepted. -/
def acceptCommand (s : State) (m : CmdRef) : State × Bool :=
  let id := m.session.toNat
  if s.fn.inbox.any (fun c => c.1 == m) then (s.setFn { s.fn with inbox := s.fn.inbox.filter (fun c => c.1 != m) }, true)
  else match KMap.find s.kp.sessions id with
  | none => (s, false)
  | some x =>
    if m.seq.toNat ≤ x.lastSeq then (discardCommand s id, false)
    else if x.unanswered.length ≥ 64 then (s, false)
    else
      let x := { x with lastSeq := m.seq.toNat, commands := x.commands + 1, unanswered := x.unanswered ++ [m.seq] }
      (s.setKp { s.kp with sessions := KMap.put s.kp.sessions id x }, true)

/-- Run a command of a code if its session accepts it; the answer will carry the code. -/
def onCommand (s : State) (m : CmdRef) (code : Nat) (f : State → State) : State :=
  match acceptCommand s m with
  | (s, true) => f (s.setFn { s.fn with codes := s.fn.codes.filter (fun c => c.1 != m) ++ [(m, .ofNat 16 code)] })
  | (s, false) => s

/-- What follows a command of the control node. -/
def finishAll (s : State) : State := answerDue (finish s)

/-- A command row. -/
def commandRow (s : State) (m : CmdRef) (code : Nat) (f : State → State) : Out :=
  commit s (if denUp s then finishAll (onCommand s m code f) else s)

end Sys2Proof.Machine
end

