-- ==== Sys2Proof/Machine/Almanac.lean ====
section
/-! DEFINITION. Almanac transactions: staging, the checks of a seal, the commit and its flip, drains of disabled functions (R5, R40,
R44, R51, R90, R114, R183, R236, R250, R326, R348, R349, R443 to R457). -/

namespace Sys2Proof.Machine

/-! ## Staging checks (R447) -/

/-- Whether every field of some widths is at most another word's. -/
def fieldsWithin (fields : List (Nat × Nat)) (a b : Nat) : Bool := fields.all (fun f => decide (bits f.1 f.2 a ≤ bits f.1 f.2 b))

/-- Check 0x0004: the requirements against the capability block (R3, R5). -/
def capsOk (s : State) (units mem : Nat) : Bool :=
  let u := (capUnits s.variant).toNat
  (bits 55 48 units == 0 || bits 55 48 units == bits 55 48 u)
    && fieldsWithin [(47, 41), (40, 34), (33, 27), (26, 22), (21, 19), (18, 12), (11, 6)] units u
    && fieldsWithin [(47, 43), (42, 35), (34, 32), (31, 22), (21, 11)] mem (capMem s.variant).toNat

/-- T0 slices that an image's carves take. -/
def carveSlices (st : Settings) : Nat :=
  st.bufSlices + st.pageTableSlices + st.dirSlices + st.l3Slices + st.mirrorSlices + st.calendarSlices + st.warrenSlices + st.objectSlices

/-- Check 0x0005 (R183). -/
def carvesOk (s : State) (a : Almanac) : Bool :=
  decide (carveSlices a.settings + (a.comps.map (fun c => c.2.t0Grant)).sum ≤ slicesOf s.variant)

/-- Check 0x0006: the units that masks name are present, operators and formats are listed (R4, R236). -/
def unitsOk (s : State) (a : Almanac) : Bool :=
  let present (k : EngineKind) (m : W64) : Bool := (List.range 64).all (fun i => !m.getLsbD i || (enginesOf s.variant k).contains i)
  a.comps.all (fun c => present .reduce c.2.reMask && present .score c.2.seMask && present .gather c.2.geMask)
    && a.nodes.all (fun n =>
      inFmtOk n.op.toNat n.inFmt.toNat && outFmtOk n.op.toNat n.inFmt.toNat n.outFmt.toNat (n.outKind != 0)
        && decide (n.op.toNat ≤ 8 ∨ n.op.toNat ≥ 12)
        && (List.range 32).all (fun i => !n.engMask.getLsbD i || (enginesOf s.variant .reduce).contains (i + if n.die then 32 else 0)))

/-- Usable slots of a logical port in a Day (R39, R40). -/
def usableSlots (lanes : Nat) : Nat := if lanes ≥ 8 then 1876 else if lanes ≥ 4 then 938 else if lanes ≥ 2 then 468 else 234

/-- Ports whose split an image changes (R90). -/
def resplit (old new : Almanac) : List Nat :=
  ((old.split ++ new.split).map (·.1)).eraseDups.filter (fun p => KMap.getD old.split p 1 != KMap.getD new.split p 1)

/-- The first cycle of a port's Day guard: a cell time is 17.408 cycles over the lanes (R39, R118). -/
def guardStart (lanes : Nat) : Nat := (usableSlots lanes * 17408 + lanes * 1000 - 1) / (lanes * 1000)

/-- Lanes of a logical port of an image. -/
def Almanac.lanesOf (a : Almanac) (port : Nat) : Nat := match KMap.find a.ports port with | some b => b.lanes | none => 8

/-- The function of `FUNC_EN` that scheduled engine work of a kind is for: reduction, search or gather. -/
def workBit (k : EngineKind) : Nat := match k with | .reduce => 0 | .score => 2 | .gather => 5 | .tier => 6 | .scrub => 6

/-- Whether scheduled engine work may be reserved (R44, R507): it ends before the guard, which begins at cycle 4,083 (log 178), its composition
has that engine in its partition, and its function is enabled. -/
def workOk (a : Almanac) (w : EngWork) : Bool :=
  decide (w.start + w.cycles ≤ 4083) && a.settings.funcEn.getLsbD (workBit w.kind)
    && (match KMap.find a.comps w.comp.toNat with
      | some c => (match w.kind with | .reduce => c.reMask | .score => c.seMask | .gather => c.geMask | _ => 0).getLsbD w.engine
      | none => false)

/-- Whether a flow of a calendar may be staged: its coded groups lie within one Day at each end, every member's arrival before the decoder's
guard (R51), and none of its ports is split anew (R90). -/
def flowOk (s : State) (a : Almanac) (f : Flow) : Bool :=
  let bad := resplit s.alm.cur a
  let groups := List.range (f.members.length / (f.ecK + 1))
  f.expected.all (fun e => decide (e < 4096))
    && (f.ecK == 0 || (groups.all (fun g => decide (f.decodeAt g < 4096)) && f.members.all (fun m => decide (m.2 < guardStart (a.lanesOf m.1)))))
    && (f.inPort :: (f.outPorts ++ f.sends ++ f.members.map (·.1))).all (fun p => !bad.contains (p / 8))

/-- Check 0x0007: the calendar (R40, R44, R51, R90, R507). -/
def calendarOk (s : State) (a : Almanac) : Bool :=
  a.templates.all (fun t => decide (t.1 < 1024)
      && t.2.runs.all (fun p => p.2.all (fun r => decide (r.1 + r.2.1 ≤ usableSlots (a.lanesOf p.1)))) && t.2.work.all (workOk a))
    && a.flows.all (fun f => flowOk s a f.2)
    && (a.settings.funcEn.getLsbD 1 || !(a.nodes.any (fun n => a.flows.any (fun f => f.2.comp == n.comp))))

/-- Check 0x0008: the buffer's regions (R114): the credits of TC1 to TC4 and of TC5 to TC7 of all ports, over the smaller shared region. -/
def bufferOk (a : Almanac) : Bool :=
  let half := a.settings.bufSlices * 65536 / 2
  let lossless := (a.ports.map (fun p => (p.2.credits.take 4).sum)).sum
  let shared (die : Nat) : Nat := half - a.settings.tc0Reserve.getD die 0 - lossless
  let small := min (shared 0) (shared 1)
  decide (small ≥ 16384 ∧ (a.ports.map (fun p => (p.2.credits.drop 4).sum)).sum ≤ a.settings.overcommit * small)

/-- Whether an interval of contributors is a subtree of the canonical tree over `n` of them from `lo` on (R239). -/
def isSubtree (fuel lo n a k : Nat) : Bool :=
  match fuel with
  | 0 => false
  | f + 1 =>
    if lo = a ∧ n = k then true
    else if n ≤ 1 then false
    else
      let p := 2 ^ Nat.log2 (n - 1)
      if a + k ≤ lo + p then isSubtree f lo p a k else isSubtree f (lo + p) (n - p) a k

/-- Whether a node fits Strict mode (R250): exact sums and extremes over FP at a root of leaves only, and under `PROD` and `LSE` inputs that each
cover one subtree. -/
def strictNodeOk (n : NodeEntry) : Bool :=
  if n.op.toNat ≤ 4 ∧ isFpCode n.inFmt.toNat = true then n.outKind != 1 && n.inputs.length == n.hi + 1 - n.lo
  else if treeOp n.op.toNat then
    (n.inputs.zip (n.inputs.drop 1 ++ [n.hi + 1])).all (fun i => isSubtree 18 0 n.nContrib i.1 (i.2 - i.1))
  else true

/-- Check 0x0009 for Strict compositions (R250). -/
def treesOk (a : Almanac) : Bool :=
  a.nodes.all (fun n => match KMap.find a.comps n.comp.toNat with | some c => !c.strict || strictNodeOk n | none => true)

/-- Stored bytes of one input's chunk at a node. -/
def chunkBytes (n : NodeEntry) : Nat :=
  if n.op = 0xC then 16 * n.chunkElems else if n.op = 0xD then lseBytesLen n.row * n.chunkElems else formatBytes n.inFmt.toNat n.chunkElems

/-- Check 0x0009 for the stores (R245): an engine holds an open chunk of every scheduled node that may use it, with all inputs but one staged. How many
chunks a schedule keeps open at a time the image's sections do not say (log 190). -/
def storesOk (a : Almanac) : Bool :=
  let scheduled := a.nodes.filter (fun n => a.flows.any (fun f => f.2.comp == n.comp && f.2.dst == a.self))
  (List.range 64).all (fun e =>
    let mine := scheduled.filter (fun n => e / 32 == b2n n.die && n.engMask.getLsbD (e % 32))
    let strict (n : NodeEntry) : Bool := match KMap.find a.comps n.comp.toNat with | some c => c.strict | none => false
    decide ((mine.map (fun n => accBytes n (strict n))).sum ≤ 1048576 ∧ (mine.map (fun n => (n.inputs.length - 1) * chunkBytes n)).sum ≤ 1048576))

/-- Check 0x000A: gather objects within extents homed here, each id once in a composition, tables in a row format (R326). How long an edge array
is only its offsets say: it is judged where it begins. -/
def objectsOk (s : State) (a : Almanac) : Bool :=
  let here (c n len : Nat) : Bool :=
    len == 0 || ((List.range ((n + len - 1) / 2 ^ 30 + 1 - n / 2 ^ 30)).all (fun i =>
      let e := KMap.getD (s.comp (.ofNat 12 c)).ext (n / 2 ^ 30 + i) ExtEntry.none_
      e.state == 1 && e.home == a.self))
  decide ((a.comps.map (fun c => c.2.objects.length)).sum ≤ 4096)
    && a.comps.all (fun c => (c.2.objects.map (·.obj)).eraseDups.length == c.2.objects.length && c.2.objects.all (fun o =>
      if o.graph then here c.1 o.base (8 * (o.count + 1)) && here c.1 o.edges 1 && here c.1 o.delmap ((o.count + 7) / 8) && decide (o.count ≤ 2 ^ 32 - 2)
      else here c.1 o.base (o.count * o.stride) && decide (o.stride ≤ 4096) && [0, 1, 2, 3, 4, 0xA, 0xB, 0xC].contains o.fmt.toNat))

/-- Check 0x000B: no composition removed while an extent is held (R348). -/
def removalsOk (s : State) (a : Almanac) : Bool :=
  s.alm.cur.comps.all (fun c => (KMap.find a.comps c.1).isSome || (s.comp (.ofNat 12 c.1)).ext.all (fun e => e.2.state == 0))

/-- Whether a value lies in a range. -/
def within (lo hi n : Nat) : Bool := decide (lo ≤ n ∧ n ≤ hi)

/-- Whether a prefetch calendar's fields lie in their ranges (R192). -/
def prefetchOk (p : Prefetch) : Bool :=
  within 1 16 p.lead && within 0 16 p.keep && within 0 4096 p.entries.length && p.entries.all (fun e => within 1 65535 (pfEntry e).2.1)

/-- Whether the settings lie in their ranges (R113, R114, R174, R181, R456). -/
def settingsOk (t : Settings) : Bool :=
  within 4 64 t.bufSlices && within 1 64 t.pageTableSlices && within 0 16 t.heatLog2 && within 0 64 t.upPagesDay && within 0 64 t.downPagesDay
    && within 0 256 t.t0PagesDay && within 1 64 t.movesMax && within 0 262144 t.t1FreeFloor && within 1 255 t.promoteHeat && within 1 255 t.t0Heat
    && within 0 254 t.demoteHeat && within 1 4 t.overcommit && within 1 4096 t.drainFn

/-- Whether a composition's entry lies in its ranges (R170, R181, R366, R507). -/
def compEntryOk (c : CompEntry) : Bool :=
  within 256 1024 c.retryDays && within 16 4095 c.drainDays && within 1 255 c.reWeight && within 1 255 c.seWeight && within 1 255 c.geWeight
    && within 0 512 c.t0Grant && (match c.prefetch with | some p => prefetchOk p | none => true)

/-- Whether the health policy lies in its ranges (R419). -/
def policyOk (p : Policy) : Bool :=
  within 4 256 p.hbDead && within 1 255 p.scoreOk && within 0 254 p.scoreSoft && p.spares.all (fun l => within 0 64 l.2.length)
    && within 0 64 p.spareModules.length && within 0 64 p.spareFloor && within 0 64 p.expelMax && within 2 255 p.corrMin && within 1 8 p.corrShare
    && within 256 65535 p.probationDays && within 1 255 p.reportMax && within 1 4096 p.solWeeks

/-- Whether the bindings of the logical ports follow the splits, each of as many lanes as its split gives at a place that is a port's first
lane (R88), with spares of their own chiplet (R9, R107). -/
def bindingsOk (a : Almanac) : Bool :=
  a.split.all (fun x => decide (x.1 < 64) && [1, 2, 4, 8].contains x.2)
    && a.ports.all (fun p =>
      let lanes := 8 / KMap.getD a.split (p.1 / 8) 1
      decide (p.1 < 512) && p.2.lanes == lanes && p.1 % 8 % lanes == 0 && p.2.credits.length == 7
        && p.2.spares.all (fun x => x.1 / 68 == p.1 / 64 && decide (x.1 % 68 ≥ 64)))

/-- Whether every value of an image that has a range lies in it, the collective ids below the transient range (R292) among them. An image that breaks a range or a binding is refused as one of a bad format:
the manual gives the ranges, and no refusal of its own for them (DESIGN CHOICE, log 179). -/
def rangesOk (a : Almanac) : Bool :=
  settingsOk a.settings && a.comps.all (fun c => compEntryOk c.2) && policyOk a.policy && bindingsOk a && a.mcast.all (fun m => decide (m.1 < 16384))
    && a.nodes.all (fun n => decide (n.collId.toNat < 0xFF0000))

/-- Whether a transaction's participants are enough for an image: all modules of the fabric where a fabric-wide section changes (R446). -/
def participantsOk (s : State) (a : Almanac) : Bool :=
  a.fabricHash == s.alm.cur.fabricHash || (s.self.toNat :: a.topo.modules.map (·.1)).all (fun m => s.alm.participants.any (fun p => p.toNat == m))

/-- The section directory of an image: kind, fabric-wide flag, offset and length of each section (R443). -/
def directory (bs : List Byte) : List (Nat × Bool × Nat × Nat) :=
  (List.range (bits 15 0 (wordAt bs 0))).map (fun i =>
    let w := wordAt bs (16 + 2 * i)
    (bits 63 48 w, w.testBit 47, bits 31 0 w, bits 63 32 (wordAt bs (17 + 2 * i))))

/-- `FABRIC_HASH` as the sections give it: over the fabric-wide ones, in directory order (R443). -/
def fabricHashOf (bs : List Byte) : List Byte :=
  sha256 (((directory bs).filter (fun d => d.2.1)).flatMap (fun d => (bs.drop d.2.2.1).take d.2.2.2))

/-- What an image holds: its sections, and the header's words (R443). -/
def readAlmanac (bs : List Byte) : Option Almanac :=
  (Config.parseAlmanac bs).map (fun a =>
    { a with self := .ofNat 16 (bits 63 48 (wordAt bs 2)), imgSeq := wordAt bs 1, txnId := .ofNat 64 (wordAt bs 3), fabricHash := .ofNat 256 (beNat ((bs.drop 32).take 32)),
             reqUnits := .ofNat 64 (wordAt bs 8), reqMem := .ofNat 64 (wordAt bs 9), sections := (directory bs).map (·.1) })

/-- Check 0x000C: the header, the directory with each kind at most once and its fabric-wide flag, sections within the image and the hash of the
fabric-wide ones, and a Chronicle section of 5 or 7 distinct modules (R349, R443, R445). -/
def formatChecks (bs : List Byte) (a : Almanac) : Bool :=
  let w0 := wordAt bs 0
  let dir := directory bs
  bits 63 32 w0 == 0x49414C31 && bits 31 16 w0 == 1 && decide (1 ≤ bits 15 0 w0 ∧ bits 15 0 w0 ≤ 64)
    && a.sections.eraseDups.length == a.sections.length && a.sections.contains 8
    && dir.all (fun d => decide (1 ≤ d.1 ∧ d.1 ≤ 10) && d.2.1 == decide (7 ≤ d.1)
        && decide (128 + 16 * dir.length ≤ d.2.2.1 ∧ d.2.2.1 + d.2.2.2 ≤ bits 31 0 (wordAt bs 2)))
    && fabricHashOf bs == (bs.drop 32).take 32
    && (a.members.length == 5 || a.members.length == 7) && a.members.eraseDups.length == a.members.length
    && a.members.all (fun m => (KMap.find a.topo.modules m.toNat).isSome)

/-- Modules within some hops of a set. -/
def reach (t : Topo) (fuel : Nat) (seen : List Nat) : List Nat :=
  match fuel with
  | 0 => seen
  | n + 1 => reach t n ((seen ++ t.links.flatMap (fun l =>
      (if seen.contains l.a.toNat then [l.b.toNat] else []) ++ (if seen.contains l.b.toNat then [l.a.toNat] else []))).eraseDups)

/-- Check 0x000F: every module within 8 hops of the Equinox root (R31, R32). -/
def hopsOk (a : Almanac) : Bool :=
  match (sortBy (fun x y => decide (x.toNat ≤ y.toNat)) a.members).head? with
  | none => false
  | some r => let near := reach a.topo 8 [r.toNat]; a.topo.modules.all (fun m => near.contains m.1)

/-- The identity that a certificate chain proves under a root for a use: none where the denied list names a certificate of it (R387). -/
def provenBy (s : State) (root : BitVec 256) (use : CertUse) (chain : List Byte) : Option (BitVec 256) :=
  if (Config.certSerials chain).any (fun n => s.alm.cur.denied.contains n) then none else Config.certIdentity root use chain

/-- The signature of an image, its block beginning at `IMG_LEN`: a signature over the bytes before it, by the signer whose chain follows and has
the Almanac-signing usage under the owner root (R387, R444). -/
def imageSigned (s : State) (bs : List Byte) : Bool :=
  let n := bits 31 0 (wordAt bs 2)
  let block := bs.drop n
  match s.kp.ownerRoot, hssLen block with
  | some r, some k =>
    (match provenBy s r .almanac (block.drop k) with
      | some signer => Config.hssVerify signer (sha256 (bs.take n)) (block.take k)
      | none => false) && decide (bs.length ≤ n + 65536)
  | _, _ => false

/-- The first check of R447 that fails, with its reason; 0 when all pass. A module without an Almanac takes an image for any
target (log 2). R446 comes last, with the reason of an image that does not fit its transaction (log 177). -/
def sealReason (s : State) (bs : List Byte) : Nat :=
  let w := wordAt bs
  if !imageSigned s bs then 0x0001
  else if w 1 ≤ s.alm.seq then 0x0002
  else if (s.self ≠ 0 ∧ bits 63 48 (w 2) ≠ s.self.toNat) ∨ w 3 ≠ s.alm.txnId.toNat then 0x0003
  else if !capsOk s (w 8) (w 9) then 0x0004
  else match readAlmanac bs with
    | none => 0x000C
    | some a =>
      if !carvesOk s a then 0x0005
      else if !unitsOk s a then 0x0006
      else if !calendarOk s a then 0x0007
      else if !bufferOk a then 0x0008
      else if !(storesOk a && treesOk a) then 0x0009
      else if !objectsOk s a then 0x000A
      else if !removalsOk s a then 0x000B
      else if !(formatChecks bs a && rangesOk a) then 0x000C
      else if !hopsOk a then 0x000F
      else if !participantsOk s a then 0x0003
      else 0

/-! ## Transactions (R448 to R452) -/

/-- The number of the bank that is not current. -/
def otherBank (s : State) : Nat := b2n (!s.alm.curBank)

/-- `AL_BEGIN`. -/
def beginTxn (s : State) (m : CmdRef) (txn : W64) (participants : List Ep) : State :=
  if s.alm.txnState ≠ .idle then answer s m 0x10 0x000D []
  else
    let a := { s.alm with txnState := .open_, txnId := txn, participants := participants, openDay := s.day, staged := [], stagedImage := none,
                          banks := KMap.del s.alm.banks (otherBank s) }
    answer (note (s.setAlm a) 6 [txn, 1]) m 0 0 []

/-- `AL_STAGE`: pieces of at most 64 KB, an image of at most 48 MB (R444, R448). -/
def stagePiece (s : State) (m : CmdRef) (offset : Nat) (piece : List Byte) : State :=
  if s.alm.txnState ≠ .open_ ∨ piece.length > 65536 ∨ offset + piece.length > 48 * 2 ^ 20 then answer s m 0x10 0x0003 []
  else
    let st := overlay (padTo (max s.alm.staged.length (offset + piece.length)) s.alm.staged) offset piece
    answer (s.setAlm { s.alm with staged := st }) m 0 0 []

/-- `AL_SEAL` (R447, R448): a refusal rolls the transaction back everywhere. -/
def sealTxn (s : State) (m : CmdRef) : State :=
  if s.alm.txnState ≠ .open_ then answer s m 0x10 0x0003 []
  else
    let txn := s.alm.txnId
    match sealReason s s.alm.staged with
    | 0 =>
      let a := { s.alm with txnState := .sealed, sealDay := s.day, stagedImage := readAlmanac s.alm.staged,
                            banks := KMap.put s.alm.banks (otherBank s) s.alm.staged }
      answer (note (s.setAlm a) 6 [txn, 2]) m 0 0 []
    | r => answer (propose (rollBack s txn) 0 (.almRollback txn 0) 0) m 0x10 r []

/-- The leader has every vote: the hashes agree, or not (R450). -/
def countVotes (s : State) : State :=
  match s.alm.leader with
  | none => s
  | some l =>
    if l.flipDay.isSome ∨ l.participants.any (fun p => (KMap.find l.votes p.toNat).isNone) = true then s
    else
      let hashes := l.votes.map (·.2)
      if hashes.all (fun h => some h == hashes.head?) then append s 0 (.almCommit l.txn 0 []) l.askDay none
      else append (s.setAlm { s.alm with leader := none }) 0 (.almRollback l.txn 0) 0 none

/-- `AL_COMMIT` (R450): the answer comes at the flip. -/
def commitTxn (s : State) (m : CmdRef) (txn : W64) (day : Nat) : State :=
  let a := s.alm
  if a.txnId ≠ txn ∨ (a.txnState ≠ .sealed ∧ a.txnState ≠ .prepared) then answer s m 0x10 0x0003 []
  else
    let s := s.setAlm { a with waiting := some m }
    if leads s then
      let l : LeaderTxn := { txn := txn, participants := a.participants, votes := [], startDay := s.day, askDay := day, flipDay := none }
      countVotes (s.setAlm { s.alm with leader := some l })
    else s

/-- A prepare (R448): the staged bank is read again, and the module votes with its `FABRIC_HASH`. -/
def prepareTxn (s : State) (txn : W64) : State :=
  let a := s.alm
  if a.txnId ≠ txn ∨ a.txnState ≠ .sealed then s
  else match ((KMap.find a.banks (otherBank s)).filter (imageSigned s)).bind readAlmanac with
    | none =>
      let s := rollBack s txn
      match s.alm.leader with
      | some l => if l.txn = txn ∧ l.flipDay.isNone = true then append (s.setAlm { s.alm with leader := none }) 0 (.almRollback txn 0) 0 none else s
      | none => s
    | some img =>
      let s := note (s.setAlm { a with txnState := .prepared }) 6 [txn, 3]
      match s.alm.leader with
      | some l => if l.txn = txn then countVotes (s.setAlm { s.alm with leader := some { l with votes := KMap.put l.votes s.self.toNat img.fabricHash } }) else s
      | none => s

/-- The commit entry reaches this module (R451). At the leader, whose other participants' votes this model does not see, it is
the entry that the leader appends (log 32). -/
def commitArrives (s : State) (txn : W64) (flip : Nat) : State :=
  match s.alm.leader with
  | some l => if leads s ∧ l.txn = txn ∧ l.flipDay.isNone = true then append s 0 (.almCommit txn 0 []) flip none else commitEntry s txn flip
  | none => commitEntry s txn flip

/-- A rollback entry reaches this module: at once with no Day, else the flip at that Day does not happen (R450, R452). -/
def rollbackArrives (s : State) (txn : W64) (flip : Nat) : State :=
  if flip ≤ s.day then rollBack s txn else s.setAlm { s.alm with rollbacks := addOnce s.alm.rollbacks txn }

/-- `AL_ROLLBACK`: after the cut-off the transaction stands (R448, R452). -/
def rollTxn (s : State) (m : CmdRef) (txn : W64) : State :=
  let a := s.alm
  if a.txnState = .idle ∨ a.txnId ≠ txn then answer s m 0x10 0x0003 []
  else match a.pending with
    | some p =>
      if s.day > p.flipDay - 256 then answer s m 0x10 0x0003 []
      else submit (rollBack s txn) { comp := 0, body := .almRollback txn (.ofNat 48 p.flipDay), day := 0, m := some m }
    | none => submit (rollBack s txn) { comp := 0, body := .almRollback txn 0, day := 0, m := some m }

/-- The time limits of R449. -/
def txnTimeout (s : State) : State :=
  let a := s.alm
  let late := match a.txnState with
    | .open_ => decide (s.day ≥ a.openDay + 2 ^ 26)
    | .sealed => decide (s.day ≥ a.sealDay + 2 ^ 26)
    | .prepared => decide (s.day ≥ a.sealDay + 2 ^ 26)
    | _ => false
  if late then rollBack s a.txnId else s

/-- A participant has not voted within 65,536 Days (R450). -/
def voteTimeout (s : State) (module : Ep) : State :=
  match s.alm.leader with
  | some l =>
    if leads s ∧ l.flipDay.isNone = true ∧ l.participants.contains module = true ∧ (KMap.find l.votes module.toNat).isNone = true ∧ s.day ≥ l.startDay + 65536 then
      append (s.setAlm { s.alm with leader := none }) 0 (.almRollback l.txn 0) 0 none
    else s
  | none => s

/-- The leader learns at or before the cut-off that a participant will be fenced by C: a rollback entry names C (R452). -/
def leaderWatch (s : State) : State :=
  match s.alm.leader with
  | some { txn := txn, participants := ps, flipDay := some c, .. } =>
    let failed := s.ch.log.any (fun e => match e.2.body with
      | .fence f => decide (f.action.toNat ≤ 2) && f.kind == 1 && ps.contains f.subject && decide (e.2.day ≤ c)
      | _ => false)
    let done := s.ch.log.any (fun e => match e.2.body with | .almRollback t _ => t == txn | _ => false)
    if leads s ∧ failed = true ∧ done = false ∧ s.day + 256 ≤ c then append s 0 (.almRollback txn (.ofNat 48 c)) 0 none else s
  | _ => s

/-! ## The flip (R28 step 1, R451, R455, R457) -/

/-- Bits of `FUNC_EN` that an image clears, with their composition; and those it sets. -/
def funcChanges (old new : Almanac) (on : Bool) : List (Option (BitVec 12) × Nat) :=
  let diff (a b : BitVec 8) : List Nat := (List.range 8).filter (fun i => a.getLsbD i == !on && b.getLsbD i == on)
  (diff old.settings.funcEn new.settings.funcEn).map (fun i => (none, i))
    ++ new.comps.flatMap (fun c => match KMap.find old.comps c.1 with
      | some o => (diff o.funcEn c.2.funcEn).map (fun i => (some (.ofNat 12 c.1), i))
      | none => [])

/-- Start the drains of disabled functions, and end those of functions enabled again. -/
def changeDrains (s : State) (img : Almanac) : State :=
  let again := funcChanges s.alm.cur img true
  let s := s.setAlm { s.alm with drains := KMap.keep s.alm.drains (fun _ d => !again.contains (d.comp, d.bit)) }
  (funcChanges s.alm.cur img false).foldl (fun s x =>
    let (id, s) := s.fresh
    let d : Drain := { comp := x.1, bit := x.2, day := s.day + img.settings.drainFn }
    s.setAlm { s.alm with drains := KMap.put s.alm.drains id d }) s

/-- Ports that an image binds anew, splits anew or no longer binds come down and are trained again (R90). -/
def changePorts (s : State) (img : Almanac) : State :=
  let old := s.alm.cur
  let split := resplit old img
  let ps := ((old.ports ++ img.ports).map (·.1)).eraseDups
  ps.foldl (fun s p =>
    let same := (KMap.find old.ports p).map (fun b => (b.fabric, b.ep, b.lanes)) == (KMap.find img.ports p).map (fun b => (b.fabric, b.ep, b.lanes))
    if same && !split.contains (p / 8) then s
    else
      let s := if (s.port p).up then rerouteLink (setDown s p) p else s
      if (KMap.find img.ports p).isSome then s.updPort p (fun x => { x with retraining := true, delayValid := false, w := img.settings.combineWindow })
      else s.setPorts (KMap.del s.ports p)) s

/-- Map an unmapped page in T0, its lines zero; it stays unmapped where T0 has no free slot (log 188). -/
def mapInT0 (s : State) (he page : Nat) : State :=
  match pickT0 s with
  | some (.t0 slice slot) =>
    let s := takeLoc s (.t0 slice slot) 1
    (zeroStorage s ((slice * 256 + slot) * 65536) 65536).updPte he page (fun p => mapped p 0 (.t0 slice slot))
  | _ => s

/-- The resident T0 pages of a composition, those that stay longest last: pinned ones, and then the hottest. -/
def t0ToGo (s : State) (c : BitVec 12) : List (Nat × Nat) :=
  let l := (s.home.exts.filter (fun e => e.2.comp == c)).flatMap (fun e =>
    (e.2.pages.filter (fun p => p.2.state == .resident && p.2.loc.tier == .t0)).map (fun p => (b2n p.2.pin * 256 + p.2.heat, e.1, p.1)))
  (sortBy (fun a b => decide (a.1 ≤ b.1)) l).map (·.2)

/-- T0 pages beyond a composition's grant, as a lower grant leaves them, are ordered to T1 as moves that the Den chooses (R183, log 187). -/
def trimT0 (s : State) : State :=
  s.alm.cur.comps.foldl (fun s c =>
    let l := t0ToGo s (.ofNat 12 c.1)
    (l.take (l.length - 256 * c.2.t0Grant)).foldl (fun s q =>
      orderMove s { homeExt := q.1, page := q.2, dest := .t1, ep := 0, trayPage := 0, kind := .den }) s) s

/-- The pages that hold prefetch cursors are pinned in T0 (R193). -/
def pinCursors (s : State) : State :=
  s.alm.cur.comps.foldl (fun s c =>
    match c.2.prefetch with
    | none => s
    | some p =>
      let a : W64 := .ofNat 64 p.cursorGfa
      match ownExtent s (.ofNat 12 c.1) (extOf a) with
      | none => s
      | some he =>
        let s := s.updPte he (pageOf a) (fun e => { e with pin := true })
        if (s.pte he (pageOf a)).state = .unmapped ∧ isF (s.extCodec he).1 = false then mapInT0 s he (pageOf a)
        else if (s.pte he (pageOf a)).state = .resident ∧ (s.pte he (pageOf a)).loc.tier ≠ .t0 then
          orderMove s { homeExt := he, page := pageOf a, dest := .t0, ep := 0, trayPage := 0, kind := .prefetch }
        else s) s

/-- The pending bank becomes current: compositions whose edge ports change are raised, functions drain, ports are bound anew. -/
def flipTo (s : State) (img : Almanac) : State :=
  let named := s.ch.entries.flatMap (fun e => match e.2.body with | .almCommit t _ l => if t = s.alm.txnId then l else [] | _ => [])
  let moved := (movedComps s img ++ named.filter (fun c => (KMap.find s.alm.cur.comps c.toNat).isSome)).eraseDups
  let a := s.alm
  let txn := a.txnId
  let s := changePorts (changeDrains s img) img
  let window := img.settings.combineWindow != s.alm.cur.settings.combineWindow || img.settings.combineFixed
  let s := s.setAlm { s.alm with cur := img, curBank := !a.curBank, seq := img.imgSeq, txnState := .idle, txnId := 0, participants := [],
                                 staged := [], stagedImage := none, pending := none, leader := none, waiting := none,
                                 rollbacks := a.rollbacks.filter (· != txn) }
  let s := if window then s.setPorts (KMap.mapVals s.ports (fun p => { p with w := img.settings.combineWindow })) else s
  let s := s.setComps (KMap.keep s.comps (fun c _ => (KMap.find img.comps c).isSome))
  let s := moved.foldl (fun s c => if (KMap.find img.comps c.toNat).isSome then raise s c else s) s
  let s := s.setHealth { s.health with spares := KMap.mapVals img.policy.spares (fun l => l.filter (fun e => !s.health.active.contains e.toNat)) }
  let s := note (trimT0 (pinCursors (membership s))) 6 [txn, 0]
  match a.waiting with
  | some m => answer s m 0 0 []
  | none => s

/-- Apply the pending record when its Day has come (R451, R452): a rollback in the log keeps the old bank; without its image the
module fences itself. -/
def bankFlip (s : State) : State :=
  match s.alm.pending with
  | none => s
  | some p =>
    if s.day < p.flipDay then s
    else if s.alm.rollbacks.contains p.txn then rollBack s p.txn
    else match s.alm.stagedImage with
      | some img => flipTo s img
      | none => selfFence (s.setAlm { s.alm with pending := none, txnState := .idle })

/-- The leader is told of a lost pending record: at or before the cut-off a rollback entry names C (R452, R453). -/
def reportLoss (s : State) (txn : W64) (flip : Nat) : State :=
  if s.day + 256 ≤ flip then propose s 0 (.almRollback txn (.ofNat 48 flip)) 0 else s

/-- After a reset: at or after C the commit is in force, before C the record is cleared and the loss reported (R453). -/
def afterReset (s : State) : State :=
  match s.alm.pending with
  | none => s
  | some p => if s.day ≥ p.flipDay then bankFlip s else reportLoss (rollBack s p.txn) p.txn p.flipDay

/-! ## Drains (R455 to R457) -/

/-- The requests of a function, by the bits of `FUNC_EN`. -/
def ofFunction (bit : Nat) (r : Req) : Bool :=
  let op := r.hdr.opcode.toNat
  let kind := bits 63 61 (wordAt r.payload 0)
  match bit with
  | 0 => op == 0x42
  | 1 => op == 0x40
  | 2 => op == 0x48
  | 3 => op == 0x49 && kind == 0
  | 4 => op == 0x15 || op == 0x53 || (op == 0x49 && kind != 0)
  | 5 => op == 0x50 || op == 0x51 || op == 0x52 || op == 0x54
  | 6 => op == 0x30
  | _ => false

/-- A drain's deadline: what is unfinished of the function ends `ABORTED` (R456). -/
def drainEnds (s : State) (id : Nat) : State :=
  match KMap.find s.alm.drains id with
  | none => s
  | some d =>
    if s.day < d.day then s
    else
      let s := s.setAlm { s.alm with drains := KMap.del s.alm.drains id }
      let mine (c : BitVec 12) : Bool := match d.comp with | some x => x == c | none => true
      let s := stopWork s (fun r => mine r.hdr.comp && ofFunction d.bit r) 0x12 false false
      if d.bit = 1 then s.eng.chunks.foldl (fun s c => if mine c.2.node.comp && c.2.search.isNone then failChunk s c.1 0x12 else s) s else s

/-! ## The commands -/

/-- `AL_BEGIN` (R448). -/
def execAlBegin (m : CmdRef) (txn : W64) (participants : List Ep) (s : State) : Out := commandRow s m 0x20 (fun s => beginTxn s m txn participants)

/-- `AL_STAGE` (R448). -/
def execAlStage (m : CmdRef) (offset : BitVec 32) (piece : List Byte) (s : State) : Out := commandRow s m 0x21 (fun s => stagePiece s m offset.toNat piece)

/-- `AL_SEAL` (R447). -/
def execAlSeal (m : CmdRef) (s : State) : Out := commandRow s m 0x22 (fun s => sealTxn s m)

/-- `AL_COMMIT` (R450). -/
def execAlCommit (m : CmdRef) (txn : W64) (day : BitVec 48) (s : State) : Out := commandRow s m 0x23 (fun s => commitTxn s m txn day.toNat)

/-- `ALMANAC_PREPARE` (R448). -/
def execAlmanacPrepare (txn : W64) (s : State) : Out := commit s (if denUp s then finishAll (prepareTxn s txn) else s)

/-- `ALMANAC_COMMIT_ENTRY` (R451). -/
def execAlmanacCommitEntry (txn : W64) (flipDay : BitVec 48) (s : State) : Out :=
  commit s (if denUp s then finishAll (commitArrives s txn flipDay.toNat) else s)

/-- `ALMANAC_ROLLBACK_ENTRY` (R452). -/
def execAlmanacRollbackEntry (txn : W64) (flipDay : BitVec 48) (s : State) : Out :=
  commit s (if denUp s then finishAll (rollbackArrives s txn flipDay.toNat) else s)

/-- `AL_ROLLBACK` (R448). -/
def execAlRollback (m : CmdRef) (txn : W64) (s : State) : Out := commandRow s m 0x24 (fun s => rollTxn s m txn)

/-- `TXN_TIMEOUT` (R449). -/
def execTxnTimeout (s : State) : Out := commit s (if denUp s then finishAll (txnTimeout s) else s)

/-- `TXN_VOTE_TIMEOUT` (R450). -/
def execTxnVoteTimeout (module : Ep) (s : State) : Out := commit s (if denUp s then finishAll (voteTimeout s module) else s)

/-- Bytes of a bank, at most 64 KB (R464). -/
def readBank (s : State) (m : CmdRef) (bank : Bool) (offset length : Nat) : State :=
  if length > 65536 then answer s m 0x10 0 []
  else answer s m 0 0 (((KMap.getD s.alm.banks (b2n bank) []).drop offset).take length)

/-- `AL_READ` (R464). -/
def execAlRead (m : CmdRef) (bank : Bool) (offset : BitVec 32) (length : BitVec 17) (s : State) : Out :=
  commandRow s m 0x25 (fun s => readBank s m bank offset.toNat length.toNat)

/-- `FUNC_DRAIN_DEADLINE` (R456). -/
def execFuncDrainDeadline (drain : Nat) (s : State) : Out := commit s (settle (drainEnds s drain))

end Sys2Proof.Machine
end

