-- ==== Sys2Proof/Machine/Attention.lean ====
section
/-! DEFINITION. The commands of the KV page service and of attention (R300 to R323). -/

namespace Sys2Proof.Machine

/-- The frame of an `SE_ATTN` of one kind: bits 63:61 of its first word (R312). -/
def attnArrival (kind : Nat) (a : Arrival) : Arrival := { a with frame := withKind 63 61 kind a.frame }

/-- An attention request (R312 to R321). -/
def execSeAttn (a : Arrival) (s : State) : Out := commit s (arriveReq s (attnArrival 0 a) 0x49)

/-- A create (R301, R308). -/
def execKvCreate (a : Arrival) (s : State) : Out := commit s (arriveReq s (attnArrival 1 a) 0x49)

/-- A fork (R309). -/
def execKvFork (a : Arrival) (s : State) : Out := commit s (arriveReq s (attnArrival 2 a) 0x49)

/-- A truncate (R310). -/
def execKvTruncate (a : Arrival) (s : State) : Out := commit s (arriveReq s (attnArrival 3 a) 0x49)

/-- A held truncate or release runs once its record's scans and assemblies have ended (R310, R311). -/
def execKvTruncateApply (_held : Nat) (s : State) : Out := commit s (settle s)

/-- A release (R311). -/
def execKvRelease (a : Arrival) (s : State) : Out := commit s (arriveReq s (attnArrival 4 a) 0x49)

/-- An attention scan or KV assembly starts at a segment's home (R316, R336). -/
def kvStart (s : State) (id : Nat) : State :=
  match KMap.find s.eng.kvScans id with
  | none => s
  | some k => if k.assembly then beginAssembly s id else beginScan s id

/-- `KV_SCAN_START` (R307, R316, R336). -/
def execKvScanStart (scan : Nat) (s : State) : Out := commit s (settle (kvStart s scan))

/-- `KV_SCAN_END` (R319 to R321). -/
def execKvScanEnd (scan : Nat) (s : State) : Out := commit s (settle (endKvScan s scan))

/-- A KV request still held 1,024 Days after its admission completes `TIMEOUT`, and nothing of it is applied (R306). -/
def kvTimeout (s : State) (id : Nat) : State :=
  match KMap.find s.eng.kvHeld id with
  | none => s
  | some h =>
    if s.day < h.day + 1024 then s
    else completeStatus (s.setEng { s.eng with kvHeld := KMap.del s.eng.kvHeld id }) h.req 0x50

/-- `KV_HELD_TIMEOUT` (R306). -/
def execKvHeldTimeout (held : Nat) (s : State) : Out := commit s (settle (kvTimeout s held))

/-- `SE_PARTIAL` at the coordinator (R318, R321). -/
def execSePartial (a : Arrival) (s : State) : Out := commit s (arriveReq s a 0x4A)

end Sys2Proof.Machine
end

