-- ==== Sys2Proof/Machine/Collective.lean ====
section
/-! DEFINITION. The commands of collectives and of single Reduce commands (R242 to R251, R292 to R294, R321). -/

namespace Sys2Proof.Machine

/-- `RE_CONTRIB` (R244 to R248). -/
def execReContrib (a : Arrival) (s : State) : Out := commit s (arriveReq s a 0x40)

/-- The deadline of an open chunk, or of an attention request that merges at this module, has come (R248, R321). -/
def chunkTime (s : State) (key : Nat) : State :=
  match KMap.find s.eng.chunks key, KMap.find s.eng.attns key with
  | some c, _ => if s.day < c.openDay + c.node.deadline then s else failChunk s key 0x50
  | none, some x => if s.day < x.deadline then s else failAttn s key 0x50
  | none, none => s

/-- `CHUNK_DEADLINE` (R248). -/
def execChunkDeadline (chunk : Nat) (s : State) : Out := commit s (settle (chunkTime s chunk))

/-- A closed chunk's record is kept for 4,096 Days (R248). -/
def recordExpires (s : State) (key : Nat) : State :=
  match KMap.find s.eng.records key with
  | none => s
  | some x => if s.day < x.day + 4096 then s else s.setEng { s.eng with records := KMap.del s.eng.records key }

/-- `CHUNK_RECORD_EXPIRY` (R248). -/
def execChunkRecordExpiry (record : Nat) (s : State) : Out := commit s (settle (recordExpires s record))

/-- An engine has room again: the frames of its input queue are tried in order (R245). -/
def execEngineQueueRoom (_kind : EngineKind) (_engine : BitVec 6) (s : State) : Out := commit s (settle s)

/-- `RE_RESULT` at a switch (R126 to R128, R248). -/
def execReResult (a : Arrival) (s : State) : Out := commit s (arriveReq s a 0x41)

/-- `RE_CMD` (R232 to R241). -/
def execReCmd (a : Arrival) (s : State) : Out := commit s (arriveReq s a 0x42)

end Sys2Proof.Machine
end

