-- ==== Sys2Proof/Machine/Health.lean ====
section
/-! DEFINITION. Health: heartbeats, penalties and scores, reports and verdicts at the home switch, and the detector with its fences,
probations and admissions (R414 to R434). -/

namespace Sys2Proof.Machine

/-! ## Penalties and scores (R414 to R417) -/

/-- Median of the last five values; Days before the port came up count as 0. -/
def median5 (l : List Nat) : Nat := (sortBy (fun a b => decide (a ≤ b)) l).getD 2 0

/-- The filter of R416: the shift of a negative difference rounds towards minus infinity. -/
def filterStep (f p : Nat) : Nat := ((f : Int) + ((p : Int) * 256 - f) / 16).toNat

/-- The penalty of the link over the Day just ended. -/
def linkPenalty (s : State) (h : PortHealth) : Nat :=
  let n := if h.failures ≥ 16 then 255 else if h.failures ≥ 2 then 128 else if h.failures ≥ 1 then 64 else 0
  max (max n h.worstToday) (if s.time.skewAlarm then 128 else 0)

/-- The last five values with a new one. -/
def shift5 (l : List Nat) (p : Nat) : List Nat := (l ++ [p]).drop (l.length + 1 - 5)

/-- `LINK_SCORE`. -/
def PortHealth.linkScore (h : PortHealth) : Nat := 255 - h.fLink / 256

/-- `PEER_SCORE`. -/
def PortHealth.peerScore (h : PortHealth) : Nat := 255 - max h.fHb (max h.fEcc h.fTemp) / 256

/-- `STANDING` of a port's partner (R419). -/
def standing (s : State) (ep : Ep) (h : PortHealth) : BitVec 2 :=
  if isFenced s ep then 3
  else if (KMap.find s.health.probation ep.toNat).isSome then 2
  else if h.linkScore < s.alm.cur.policy.scoreOk ∨ h.peerScore < s.alm.cur.policy.scoreOk then 1 else 0

/-- The Day's update of one port (R416). -/
def scorePort (s : State) (ep : Ep) (h : PortHealth) : PortHealth :=
  let pl := shift5 h.pLink (linkPenalty s h)
  let ph := shift5 h.pHb (if h.hbSeen then 0 else 255)
  let pe := shift5 h.pEcc h.hbEcc
  let pt := shift5 h.pTemp h.hbTemp
  let h := { h with pLink := pl, pHb := ph, pEcc := pe, pTemp := pt, fLink := filterStep h.fLink (median5 pl), fHb := filterStep h.fHb (median5 ph),
                    fEcc := filterStep h.fEcc (median5 pe), fTemp := filterStep h.fTemp (median5 pt),
                    hbMiss := if h.hbSeen then 0 else h.hbMiss + 1, hbSeen := false, failures := 0, worstToday := 0 }
  let good := decide (h.linkScore ≥ s.alm.cur.policy.scoreOk ∧ h.peerScore ≥ s.alm.cur.policy.scoreOk)
  { h with standing := standing s ep h, goodDays := if good then h.goodDays + 1 else 0,
           linkDays := if h.linkScore ≥ s.alm.cur.policy.scoreOk then h.linkDays + 1 else 0 }

/-- The kind of a port's partner in a report. -/
def partnerKind (s : State) (b : PortBind) : Nat :=
  if b.fabric then 1 else if b.comp.isNone then 5 else if s.home.lends.any (fun l => l.2.lender == b.ep) then 6 else 0

/-- A link is lost: its partner hears why where this module found it, its frames go another way, and it is reported with the partner
as its witness (R34, R103, R160). -/
def linkLoss (s : State) (port : Nat) (tell : Option Nat) : State :=
  match s.bind port with
  | none => s
  | some b =>
    if !(s.port port).up then s
    else
      let s := portOut s port
      let s := match tell with | some r => sendControl s port 9 r | none => s
      report (report s s.self port 2 2 0xFF) b.ep 0 (partnerKind s b) 2 0xFF

/-- Whether a soft verdict falls due: the score is below `SCORE_SOFT`, and no report was made in the last 64 Days. -/
def softDue (s : State) (score : Nat) (last : Option Nat) : Bool :=
  decide (score < s.alm.cur.policy.scoreSoft) && (match last with | some d => decide (s.day ≥ d + 64) | none => true)

/-- Report what is due of a port's soft verdicts (R417). -/
def softVerdicts (s : State) (port : Nat) (b : PortBind) : State :=
  let h := (s.port port).health
  let soft := s.alm.cur.policy.scoreSoft
  let set (s : State) (f : PortHealth → PortHealth) : State := s.updPort port (fun p => { p with health := f p.health })
  let s := if h.linkScore ≥ soft then set s (fun h => { h with softLinkDay := none })
    else if softDue s h.linkScore h.softLinkDay then set (report s s.self port 2 3 h.linkScore) (fun h => { h with softLinkDay := some s.day }) else s
  if h.peerScore ≥ soft then set s (fun h => { h with softPeerDay := none })
  else if softDue s h.peerScore h.softPeerDay then set (report s b.ep 0 (partnerKind s b) 4 h.peerScore) (fun h => { h with softPeerDay := some s.day })
  else s

/-- The ports that are up, with their bindings. -/
def activePorts (s : State) : List (Nat × PortBind) := s.alm.cur.ports.filter (fun p => (s.port p.1).up)

/-- Scores of every active port, and Days without a heartbeat of every bound endpoint (R416, R418). -/
def healthDay (s : State) : State :=
  let seen (e : Ep) : Bool := s.alm.cur.ports.any (fun p => p.2.ep == e && (s.port p.1).up && (s.port p.1).health.hbSeen)
  let table := ((s.alm.cur.ports.map (fun p => p.2.ep)).eraseDups).foldl (fun t e =>
    KMap.put t e.toNat (if seen e then 0 else KMap.getD t e.toNat 0 + 1)) s.health.hbTable
  let s := s.setHealth { s.health with hbTable := table }
  let ps := activePorts s
  let s := ps.foldl (fun s p => s.updPort p.1 (fun x => { x with health := scorePort s p.2.ep x.health })) s
  ps.foldl (fun s p => softVerdicts s p.1 p.2) s

/-- The temperature penalty that the module states of itself. -/
def ownTemp (s : State) : Nat :=
  if s.power.tMax ≥ 110 then 255 else if s.power.throttledPrev then 128 else if s.power.tMax + 10 ≥ s.power.tThrottle then 64 else 0

/-- The ECC penalty of its worst channel. -/
def ownEcc (s : State) : Nat := s.home.stackSt.foldl (fun m k => max m k.2.penalty) 0

/-- The `HEARTBEAT` payload (R414). -/
def heartbeatBytes (s : State) : List Byte :=
  let hard := s.rst.selfFenced || s.eqx.bridgeDown || !s.eqx.stacksDown.isEmpty || s.home.stackSt.any (fun k => k.2.lost || k.2.failed != 0)
  wordsBytes [ownEcc s * 2 ^ 56 + ownTemp s * 2 ^ 48 + b2n hard * 2 ^ 47 + b2n s.rst.selfFenced * 2 ^ 46 + b2n s.power.throttledPrev * 2 ^ 45, 0]

/-- One heartbeat on each active logical port. -/
def sendHeartbeats (s : State) : State :=
  let bs := heartbeatBytes s
  (activePorts s).foldl (fun s p => enqueue s p.1 { hdr := ownHeader s 0x81 p.2.ep bs.length, payload := bs, poisoned := false } 0) s

/-- A heartbeat of a partner. -/
def takeHeartbeat (s : State) (r : Req) : State :=
  let w := wordAt r.payload 0
  let s := s.updPort r.port (fun p => { p with health := { p.health with hbSeen := true, hbEcc := bits 63 56 w, hbTemp := bits 55 48 w } })
  match s.bind r.port with
  | some b => s.setHealth { s.health with linkDownSeen := s.health.linkDownSeen.filter (fun p => p.1 != b.ep.toNat) }
  | none => s

/-! ## Verdicts (R418, R420, R422) -/

/-- Whether a report of a class is a hard verdict (R422). -/
def hardClass (cls kind : Nat) : Bool := [1, 6, 7, 8, 9, 0xD].contains cls || (cls == 2 && kind == 2)

/-- Whether a report is a verdict. -/
def isVerdict (r : Report) : Bool := hardClass r.cls.toNat r.kind.toNat || r.cls == 3 || r.cls == 4

/-- A merged report reaches the detector. -/
def takeVerdict (s : State) (r : Report) : State :=
  if !isVerdict r then s
  else
    let v : Verdict := { subject := r.subject, port := r.port, kind := r.kind, cls := r.cls, hard := hardClass r.cls.toNat r.kind.toNat,
                         witnesses := r.witnesses, faultDay := r.day, day := s.day }
    s.setHealth { s.health with verdicts := addOnce s.health.verdicts v }

/-- The key of a verdict that its home switch repeats. -/
def resendKey (r : Report) : Nat := r.subject.toNat * 2 ^ 24 + r.port.toNat % 2 ^ 16 * 2 ^ 8 + r.kind.toNat * 2 ^ 5 + r.cls.toNat

/-- Send a merged report to the detector (R424). -/
def toDetector (s : State) (r : Report) : State :=
  if leads s then takeVerdict s r else sendPlain s 0x82 s.ch.leader (reportBytes r)

/-- The home switch sends a merged report to the detector and the control node; a verdict it repeats until an entry names its subject
(R420, R424). -/
def sendMerged (s : State) (r : Report) : State :=
  let s := note (toDetector s r) 0 (reportWords r)
  if isVerdict r then s.setHealth { s.health with resend := KMap.put s.health.resend (resendKey r) (r, s.day) } else s

/-- The reports that this home switch has gathered go out, one for each subject and class. -/
def sendReports (s : State) : State :=
  let l := s.health.reports
  l.foldl sendMerged (s.setHealth { s.health with reports := [], sentToday := 0, sentPairs := [] })

/-- Whether every link of a subject is down or silent, by this module's observation or a witness's. -/
def linksGone (s : State) (e : Ep) : Bool :=
  let mine := (s.alm.cur.ports.filter (fun p => p.2.ep == e)).all (fun p =>
    !(s.port p.1).up || decide ((s.port p.1).health.hbMiss ≥ s.alm.cur.policy.hbDead))
  let others := ((s.alm.cur.topo.links.filter (fun l => l.a == e || l.b == e)).map (fun l => if l.a = e then l.b else l.a)).filter (· != s.self)
  mine && others.all (fun w => s.health.linkDownSeen.contains (e.toNat, w.toNat) || isFenced s w)

/-- A subject of which this module is the home switch has been silent for `HB_DEAD` Days (R418). -/
def hbLost (s : State) (e : Ep) : State :=
  let kind := match s.alm.cur.ports.find? (fun p => p.2.ep == e) with | some p => partnerKind s p.2 | none => 1
  let r : Report := { subject := e, port := 0, kind := .ofNat 3 kind, cls := 1, score := 0xFF, witnesses := 1, first := s.self, day := s.day }
  if homeSwitch s r ≠ s.self ∨ isFenced s e = true ∨ KMap.getD s.health.hbTable e.toNat 0 < s.alm.cur.policy.hbDead ∨ linksGone s e = false
      ∨ (KMap.find s.health.resend (resendKey r)).isSome = true then s
  else sendMerged s r

/-- The Equinox root tells the control node of a module that took no part, as its report reaches it (R32, log 146). -/
def rootTells (s : State) (x : Report) : State :=
  if s.time.root && x.kind == 1 && x.cls == 8 then note s 0 (reportWords x) else s

/-- A report arrives: from a home switch at the detector, else from a witness at the home switch (R423, R424). -/
def takeReport (s : State) (r : Req) : State :=
  let x := parseReport r.payload
  let s := rootTells s x
  if x.first ≠ 0 then (if leads s then takeVerdict s x else s)
  else
    let s := if x.cls = 2 ∧ x.kind.toNat ≤ 1 then
        s.setHealth { s.health with linkDownSeen := addOnce s.health.linkDownSeen (x.subject.toNat, r.hdr.src.toNat) }
      else s
    mergeReport s { x with first := r.hdr.src, witnesses := 1 }

/-- Repeat the verdicts on a subject that 64 Days have passed for. -/
def resendVerdicts (s : State) (e : Ep) : State :=
  s.health.resend.foldl (fun s p =>
    let (r, d) := p.2
    if r.subject = e ∧ s.day ≥ d + 64 then
      toDetector (s.setHealth { s.health with resend := KMap.put s.health.resend p.1 (r, s.day) }) r
    else s) s

/-- A job's fence order (R426): the first hop passes it on if sender and device are of one composition; the detector takes it up at
the next Day. -/
def takeFenceOrder (s : State) (r : Req) : State :=
  let w := wordAt r.payload 0
  let e : Ep := .ofNat 16 (bits 63 48 w)
  let comp := match s.bind r.port with | some b => if b.fabric then some r.hdr.comp else b.comp | none => some r.hdr.comp
  match comp with
  | none => s
  | some c =>
    let same := match s.compEntry c with | some x => x.edges.contains e | none => false
    if r.edge ∧ same = false then s
    else if leads s then
      let f : FenceBody := { fenceOf e 0 1 (bits 47 43 w) 1 s.day with comp := c, witnesses := 1 }
      s.setHealth { s.health with orders := addOnce s.health.orders f }
    else sendRequest s { hdr := { ownHeader s 0x85 s.ch.leader r.payload.length with comp := c }, payload := r.payload, poisoned := false }

/-! ## The detector: elements and attribution (R433, R434) -/

/-- A subject or an element: its kind, its id, and the port or chiplet. -/
structure Element where
  kind : Nat
  id : Nat
  port : Nat
  deriving DecidableEq, Repr

/-- A link under its one name: the end with the lower id (R423). -/
def linkElement (s : State) (ep port : Nat) : Element :=
  match s.alm.cur.topo.links.find? (fun l => (l.a.toNat == ep && l.portA == port) || (l.b.toNat == ep && l.portB == port)) with
  | some l => if l.a.toNat ≤ l.b.toNat then { kind := 2, id := l.a.toNat, port := l.portA } else { kind := 2, id := l.b.toNat, port := l.portB }
  | none => { kind := 2, id := ep, port := port }

/-- The subject of a verdict; trays and lenders are endpoints. -/
def subjectOf (s : State) (v : Verdict) : Element :=
  let k := v.kind.toNat
  if k = 2 then linkElement s v.subject.toNat v.port.toNat
  else { kind := if k = 5 ∨ k = 6 then 0 else k, id := v.subject.toNat, port := v.port.toNat }

/-- The link chiplet of a module's port. -/
def chipletElement (ep port : Nat) : Element := { kind := 3, id := ep, port := port / 64 }

/-- A link with the chiplets that carry it. -/
def linkParts (s : State) (ep port : Nat) : List Element :=
  match s.alm.cur.topo.links.find? (fun l => (l.a.toNat == ep && l.portA == port) || (l.b.toNat == ep && l.portB == port)) with
  | some l => [linkElement s ep port, chipletElement l.a.toNat l.portA, chipletElement l.b.toNat l.portB]
  | none => [linkElement s ep port, chipletElement ep port]

/-- What a subject depends on (R433 step 1). -/
def elementsOf (s : State) (x : Element) : List Element :=
  let t : Topo := s.alm.cur.topo
  let moduleEl (m : Nat) : Element := { kind := 1, id := m, port := 0 }
  let feed (n : Nat) : Element := { kind := 7, id := n, port := 0 }
  let l : List Element := match x.kind with
    | 0 => (match KMap.find t.endpoints x.id with
      | some e => linkParts s e.module.toNat e.port ++ [moduleEl e.module.toNat, feed e.feed]
      | none => [])
    | 1 => (t.links.filter (fun (l : TopoLink) => l.a.toNat == x.id || l.b.toNat == x.id)).flatMap (fun (l : TopoLink) => linkParts s l.a.toNat l.portA)
        ++ (match KMap.find t.modules x.id with | some f => [feed f] | none => [])
    | 2 => linkParts s x.id x.port ++ (match t.links.find? (fun (l : TopoLink) => linkElement s l.a.toNat l.portA == x) with
      | some l => [moduleEl l.a.toNat, moduleEl l.b.toNat]
      | none => moduleEl x.id :: ((t.endpoints.filter (fun e => e.2.module.toNat == x.id && e.2.port == x.port)).map (fun e =>
          ({ kind := 0, id := e.1, port := 0 } : Element))))
    | 3 => [moduleEl x.id]
    | 4 => [moduleEl x.id]
    | _ => []
  l.eraseDups

/-- All subjects of a kind that the topology has. -/
def subjectsOf (s : State) (kind : Nat) : List Element :=
  let t : Topo := s.alm.cur.topo
  match kind with
  | 0 => t.endpoints.map (fun e => { kind := 0, id := e.1, port := 0 })
  | 1 => t.modules.map (fun m => { kind := 1, id := m.1, port := 0 })
  | 2 => t.links.map (fun l => linkElement s l.a.toNat l.portA) ++ t.endpoints.map (fun e => linkElement s e.2.module.toNat e.2.port)
  | _ => []

/-- A candidate element, with its subjects under a verdict and all its dependents. -/
structure Suspect where
  elem : Element
  n : Nat
  d : Nat
  deriving DecidableEq, Repr

/-- The candidates of R433 steps 2 and 3: dependents are counted among subjects of the verdicts' kinds. -/
def suspects (s : State) (subjects : List Element) : List Suspect :=
  let kinds := (subjects.map (fun (e : Element) => e.kind)).eraseDups
  let whole := ((kinds.flatMap (subjectsOf s)) ++ subjects).eraseDups
  let parts := whole.map (fun x => (x, elementsOf s x))
  let elems := (parts.flatMap (fun p => p.2)).eraseDups
  (elems.map (fun e =>
    let dep := parts.filter (fun p => p.2.contains e)
    ({ elem := e, n := (dep.filter (fun p => subjects.contains p.1)).length, d := dep.length } : Suspect))).filter (fun x =>
      decide (x.n ≥ s.alm.cur.policy.corrMin ∧ 8 * x.n ≥ s.alm.cur.policy.corrShare * x.d))

/-- Whether one suspect goes before another: the larger share, then the more dependents, then the lower id. -/
def suspectBefore (a b : Suspect) : Bool :=
  decide (a.n * b.d > b.n * a.d ∨ (a.n * b.d = b.n * a.d ∧ (a.d > b.d ∨ (a.d = b.d ∧
    (a.elem.id < b.elem.id ∨ (a.elem.id = b.elem.id ∧ a.elem.port < b.elem.port))))))

/-- Attribute verdicts: the elements blamed, and the verdicts that remain. -/
def attributeAll (s : State) (fuel : Nat) (vs : List Verdict) : List (Element × List Verdict) × List Verdict :=
  match fuel with
  | 0 => ([], vs)
  | k + 1 =>
    let subjects := (vs.map (subjectOf s)).eraseDups
    match (suspects s subjects).foldl (fun (b : Option Suspect) x => match b with
      | none => some x
      | some y => if suspectBefore x y then some x else b) none with
    | none => ([], vs)
    | some x =>
      let hit (v : Verdict) : Bool := (elementsOf s (subjectOf s v)).contains x.elem
      let (l, rest) := attributeAll s k (vs.filter (fun v => !hit v))
      ((x.elem, vs.filter hit) :: l, rest)

/-! ## Fence entries (R425, R428, R431 to R434) -/

/-- Fence entries of the log whose Day is still ahead. -/
def fencesAhead (s : State) : List FenceBody :=
  s.ch.log.filterMap (fun e => match e.2.body with | .fence f => if e.2.day > s.day then some f else none | _ => none)

/-- Whether a subject or element is out of service, or an entry that takes it out is ahead. -/
def goneOrGoing (s : State) (x : Element) : Bool :=
  let same (f : FenceBody) : Bool := decide (f.action.toNat ≤ 2) && (match x.kind with
    | 2 => f.kind == 2 && linkElement s f.subject.toNat f.port.toNat == x
    | 3 => f.kind == 3 && f.subject.toNat == x.id && f.port.toNat == x.port
    | 4 => f.kind == 4 && f.subject.toNat == x.id && f.port.toNat == x.port
    | 7 => false
    | _ => f.subject.toNat == x.id && f.kind != 2 && f.kind != 3 && f.kind != 4)
  let out := match x.kind with
    | 2 => s.health.portsDown.contains (x.id * 65536 + x.port)
    | 3 => (s.alm.cur.topo.links.flatMap (fun l => [(l.a.toNat, l.portA), (l.b.toNat, l.portB)])).any (fun p =>
        p.1 == x.id && p.2 / 64 == x.port && s.health.portsDown.contains (p.1 * 65536 + p.2))
    | 4 => false
    | 7 => false
    | _ => isFenced s (.ofNat 16 x.id)
  out || (fencesAhead s).any same

/-- The jobs of a device: the compositions of an endpoint, or those with endpoints or memory at a module. -/
def jobsOf (s : State) (kind : Nat) (e : Ep) : List (BitVec 12) :=
  let cs := s.alm.cur.comps.map (fun c => (BitVec.ofNat 12 c.1, c.2))
  (cs.filter (fun c => if kind = 1 then (edgeModules s c.1 ++ logHomes s c.1).contains e else c.2.edges.contains e)).map (·.1)

/-- Available spares of a job, or of the fabric for modules: not active, not fenced, not named by an entry ahead. -/
def availableSpares (s : State) (kind : Nat) (c : BitVec 12) : List Ep :=
  let l := if kind = 1 then s.alm.cur.policy.spareModules.filter (fun e => !s.health.active.contains e.toNat) else KMap.getD s.health.spares c.toNat []
  let ahead := fencesAhead s
  l.filter (fun e => !isFenced s e && !ahead.any (fun f => f.spare == e || (f.subject == e && decide (f.action.toNat ≤ 2))))

/-- Propose a fence, one entry for each job it touches; `promote` names spares (R431, R434). -/
def proposeFence (s : State) (f : FenceBody) (promote : Bool) : State :=
  let k := f.kind.toNat
  let spare (c : BitVec 12) : Ep := if promote then (availableSpares s k c).headD 0 else 0
  let entry (s : State) (f : FenceBody) : State := propose s 0 (.fence f) 0
  match jobsOf s k f.subject with
  | [] => entry s { f with spare := if k = 1 then spare 0 else 0 }
  | l => l.foldl (fun s c => entry s { f with comp := c, spare := spare c }) s

/-- The body of an entry that a verdict decides. -/
def fenceFor (v : Verdict) (action : Nat) : FenceBody :=
  { fenceOf v.subject v.kind.toNat action v.cls.toNat (if v.cls = 8 then 3 else 0) v.faultDay with port := v.port, witnesses := .ofNat 16 v.witnesses }

/-- Soft expulsions are counted per job, and for modules per fabric (R419). -/
def softKeys (s : State) (kind : Nat) (e : Ep) : List Nat := if kind = 1 then [0x1000] else (jobsOf s kind e).map (·.toNat)

/-- Whether R431 allows a soft expulsion. -/
def softAllowed (s : State) (kind : Nat) (e : Ep) : Bool :=
  let p := s.alm.cur.policy
  let ks := softKeys s kind e
  !ks.isEmpty && ks.all (fun k => decide ((availableSpares s kind (.ofNat 12 k)).length > p.spareFloor
    ∧ KMap.getD s.health.softThisWeek k 0 < p.expelMax))

/-- Expel on a soft verdict, and count it. -/
def softExpel (s : State) (f : FenceBody) : State :=
  let ks := softKeys s f.kind.toNat f.subject
  let s := proposeFence s f true
  s.setHealth { s.health with softThisWeek := ks.foldl (fun m k => KMap.upd m k 0 (· + 1)) s.health.softThisWeek }

/-- Whether a device is on probation, or will be. -/
def onProbation (s : State) (e : Ep) : Bool :=
  (KMap.find s.health.probation e.toNat).isSome || (fencesAhead s).any (fun f => f.subject == e && f.action == 3)

/-- A verdict on an endpoint of a job, or on a module (R431). -/
def judgeDevice (s : State) (v : Verdict) : State :=
  if v.hard then proposeFence s (fenceFor v 1) true
  else if softAllowed s v.kind.toNat v.subject then softExpel s (fenceFor v 1)
  else if onProbation s v.subject then s
  else propose s 0 (.fence (fenceFor v 3)) 0

/-- A verdict that no element explains: a soft verdict on an edge link is one on its endpoint. -/
def judgeVerdict (s : State) (v : Verdict) : State :=
  let x := subjectOf s v
  if goneOrGoing s x then s
  else match x.kind with
    | 0 => if v.kind = 0 then judgeDevice s v else proposeFence s (fenceFor v 0) false
    | 1 => judgeDevice s v
    | 2 =>
      if v.hard then propose s 0 (.fence (fenceFor v 0)) 0
      else match s.alm.cur.topo.endpoints.find? (fun e => linkElement s e.2.module.toNat e.2.port == x) with
        | some e => if goneOrGoing s { kind := 0, id := e.1, port := 0 } then s else judgeDevice s { v with subject := .ofNat 16 e.1, port := 0, kind := 0 }
        | none => s
    | 4 => propose s 0 (.fence (fenceFor v 0)) 0
    | _ => s

/-- Endpoints that lose every path through an element. -/
def cutOff (s : State) (x : Element) : List Ep :=
  let t : Topo := s.alm.cur.topo
  let on (m : Ep) (p : Nat) : Bool := match x.kind with
    | 1 => m.toNat == x.id
    | 2 => linkElement s m.toNat p == x
    | 3 => m.toNat == x.id && p / 64 == x.port
    | _ => false
  ((t.endpoints.filter (fun e => on e.2.module e.2.port && (s.alm.cur.ports.filter (fun p => !p.2.fabric && p.2.ep.toNat == e.1)).all (fun p => on s.self p.1))).map
    (fun e => BitVec.ofNat 16 e.1))

/-- An attributed element counts as one expulsion: against the fabric, or against its jobs where it is an endpoint (R434). -/
def countExpulsion (s : State) (x : Element) : State :=
  let ks := if x.kind = 0 then softKeys s 0 (.ofNat 16 x.id) else [0x1000]
  s.setHealth { s.health with softThisWeek := ks.foldl (fun m k => KMap.upd m k 0 (· + 1)) s.health.softThisWeek }

/-- The fate of an element that verdicts are attributed to (R434). -/
def blameElement (s : State) (x : Element) (vs : List Verdict) : State :=
  let cls := match vs.head? with | some v => v.cls.toNat | none => 0
  let day := match vs.head? with | some v => v.faultDay | none => s.day
  let blame (f : FenceBody) : FenceBody :=
    { f with element := .ofNat 16 x.id, elemPort := .ofNat 16 x.port, elemKind := .ofNat 3 x.kind, witnesses := .ofNat 16 (min 65535 vs.length) }
  let base : FenceBody := blame { fenceOf (.ofNat 16 x.id) x.kind 1 cls 0 day with port := .ofNat 16 x.port }
  if x.kind = 7 then note (countExpulsion s x) 0 [.ofNat 64 (x.id * 2 ^ 48 + 7 * 2 ^ 29 + cls * 2 ^ 24 + 0xFF * 2 ^ 16 + min 65535 vs.length), .ofNat 64 (day * 65536 + s.self.toNat), 0, 0]
  else if goneOrGoing s x then s
  else
    let s := countExpulsion s x
    let s := if x.kind = 1 ∨ x.kind = 0 then proposeFence s base true else propose s 0 (.fence base) 0
    (cutOff s x).foldl (fun s e =>
      if goneOrGoing s { kind := 0, id := e.toNat, port := 0 } then s else proposeFence s (blame (fenceOf e 0 2 cls 0 day)) true) s

/-- The detector's work at cycle 0 of a Day on the verdicts of the previous one (R431, R433). -/
def detect (s : State) : State :=
  if !leads s then s.setHealth { s.health with verdicts := [], orders := [] }
  else
    let vs := s.health.verdicts.filter (fun v => decide (v.day < s.day) && !goneOrGoing s (subjectOf s v)
      && !(elementsOf s (subjectOf s v)).any (fun e => e.kind != 0 && e != subjectOf s v && goneOrGoing s e))
    let os := s.health.orders.filter (fun f => decide (f.faultDay.toNat < s.day))
    let s := s.setHealth { s.health with verdicts := s.health.verdicts.filter (fun v => decide (v.day ≥ s.day)),
                                         orders := s.health.orders.filter (fun f => decide (f.faultDay.toNat ≥ s.day)) }
    let (blamed, rest) := attributeAll s vs.length vs
    let s := blamed.foldl (fun s p => blameElement s p.1 p.2) s
    let s := rest.foldl judgeVerdict s
    let soft := (vs.filter (fun v => !v.hard)).map (fun v => v.subject.toNat)
    let s := s.setHealth { s.health with probation := s.health.probation.map (fun p => (p.1, if soft.contains p.1 then 0 else p.2 + 1)) }
    os.foldl (fun s f => if goneOrGoing s { kind := 0, id := f.subject.toNat, port := 0 } then s else proposeFence s f true) s

/-- Every device on probation is decided (R432). -/
def reviewProbation (s : State) : State :=
  if !leads s then s
  else s.health.probation.foldl (fun s p =>
    let e : Ep := .ofNat 16 p.1
    let kind := if isModule s e then 1 else 0
    let ports := (activePorts s).filter (fun b => b.2.ep == e)
    let good := ports.all (fun b => decide ((s.port b.1).health.goodDays ≥ 1))
    let ending := (fencesAhead s).any (fun f => f.subject == e && f.action == 4)
    if goneOrGoing s { kind := kind, id := p.1, port := 0 } then s
    else if softAllowed s kind e then softExpel s (fenceOf e kind 1 4 0 s.day)
    else if good && decide (p.2 ≥ s.alm.cur.policy.probationDays) && !ending then propose s 0 (.fence (fenceOf e kind 4 0 0 s.day)) 0
    else s) s

/-- The detector proposes the return of collateral devices whose path is whole again (R428): as spares where a spare took their place. -/
def admitCollateral (s : State) : State :=
  if !leads s then s
  else s.health.collateral.foldl (fun s n =>
    let e : Ep := .ofNat 16 n
    let ahead := (fencesAhead s).any (fun f => f.subject == e && decide (f.action.toNat ≥ 5))
    let home := match KMap.find s.alm.cur.topo.endpoints n with
      | some t => !isFenced s t.module && !s.health.portsDown.contains (t.module.toNat * 65536 + t.port)
          && (t.module != s.self || decide ((s.port t.port).health.linkDays ≥ 4096))
      | none => false
    if ahead || !home then s
    else
      let last := (s.ch.log.filterMap (fun x => match x.2.body with | .fence f => if f.subject = e ∧ f.action = 2 then some f else none | _ => none)).getLast?
      match last with
      | some f => propose s 0 (.fence { fenceOf e 0 (if f.spare = 0 then 5 else 6) 0 0 s.day with comp := f.comp }) 0
      | none => propose s 0 (.fence (fenceOf e 0 5 0 0 s.day)) 0) s

/-! ## The commands -/

/-- `SOFT_VERDICT_REPEAT` (R417). -/
def execSoftVerdictRepeat (port : PortNo) (peer : Bool) (s : State) : Out :=
  let h := (s.port port.toNat).health
  let soft := s.alm.cur.policy.scoreSoft
  let due := match s.bind port.toNat with
    | none => false
    | some _ => (s.port port.toNat).up && s.running && (if peer then decide (h.peerScore < soft) && h.softPeerDay.isSome && softDue s h.peerScore h.softPeerDay
        else decide (h.linkScore < soft) && h.softLinkDay.isSome && softDue s h.linkScore h.softLinkDay)
  match s.bind port.toNat with
  | some b => commit s (if due then softVerdicts s port.toNat b else s)
  | none => commit s s

/-- `HB_LOST` (R418). -/
def execHbLost (subject : Ep) (s : State) : Out := commit s (if s.running then finish (hbLost s subject) else s)

/-- `VERDICT_RESEND` (R420). -/
def execVerdictResend (subject : Ep) (s : State) : Out := commit s (if s.running then finish (resendVerdicts s subject) else s)

/-- A frame that the first hop itself takes, whatever its `DEST`. -/
def toHere (s : State) (f : Frame) (op : Nat) : Frame := { f with hdr := { f.hdr with opcode := .ofNat 8 op, flags := f.hdr.flags &&& ~~~flagResp, dest := s.self } }

/-- `HEARTBEAT` (R414). -/
def execHeartbeat (a : Arrival) (s : State) : Out :=
  commit s (settle (arrive s a.port.toNat none (toHere s a.frame 0x81) takeHeartbeat))

/-- `FAULT_REPORT` (R421, R424). -/
def execFaultReport (a : Arrival) (s : State) : Out :=
  commit s (finish (arrive s a.port.toNat none (asRequest 0x82 a.frame) takeReport))

/-- `FENCE_DEVICE` (R426): at its first hop it goes to the detector, whatever its `DEST`. -/
def execFenceDevice (a : Arrival) (s : State) : Out :=
  let edge := match s.bind a.port.toNat with | some b => !b.fabric | none => false
  let f := if edge then toHere s a.frame 0x85 else asRequest 0x85 a.frame
  commit s (finish (arrive s a.port.toNat none f takeFenceOrder))

end Sys2Proof.Machine
end

