-- ==== Sys2Proof/Machine/Resets.lean ====
section
/-! DEFINITION. Resets: what each class loses and keeps, how it is asserted at a Day boundary and how it ends (R166, R169, R388, R409,
R477, R484, R493 to R499). -/

namespace Sys2Proof.Machine

/-! ## Engines in unit reset (R493, R495) -/

/-- Days that a unit reset lasts. -/
def unitDays : Nat := 16
/-- Days that a warm reset lasts: 40 ms. -/
def warmDays : Nat := 16602
/-- Days that a package reset lasts: 1.30 s. -/
def packageDays : Nat := 539548

/-- Whether a command in progress has a part on an engine: one of its composition's partition, on a die that takes a part (R11). -/
def worksOn (s : State) (k : EngineKind) (n : Nat) (r : Req) : Bool :=
  commandKind r == some k && (workUnits s r k (reqDies s r)).contains n

/-- Abandon the moves that a test picks; withdrawals and retirements are ordered again (R182, R187). -/
def abandonMoves (s : State) (f : MoveRec → Bool) : State :=
  s.home.moves.foldl (fun s m =>
    if f m.2 && (KMap.find s.home.moves m.1).isSome then
      let s := abandonMove s m.1 false
      if m.2.kind = .withdraw ∨ m.2.kind = .retire then
        orderMove s { homeExt := m.2.homeExt, page := m.2.page, dest := m.2.dst.tier, ep := 0, trayPage := 0, kind := m.2.kind }
      else s
    else s) s

/-- The work on an engine at the instant of its reset completes with a status. -/
def abortEngine (s : State) (k : EngineKind) (n : Nat) (status : BitVec 8) : State :=
  let s := if k = .reduce then s.eng.chunks.foldl (fun s c => if c.2.engine = n then failChunk s c.1 status else s) s else s
  let s := if k = .reduce then s.eng.attns.foldl (fun s p => if !p.2.partials.isEmpty && mergeEngine s p.2.req == n then failAttn s p.1 status else s) s else s
  let s := s.eng.searches.foldl (fun s p => if p.2.started && !p.2.done && worksOn s k n p.2.req then failSearch s p.1 status else s) s
  let s := endScans s (fun r => worksOn s k n r && s.eng.kvScans.any (fun x => x.2.req == r && x.2.started)) status
  let s := s.eng.kvScans.foldl (fun s p =>
    if p.2.started && worksOn s k n p.2.req && (KMap.find s.eng.kvScans p.1).isSome then failScan s p.1 p.2 status else s) s
  let s := s.home.operandWaits.foldl (fun s p => if worksOn s k n p.2.req then failWork s p.2.req status else s) s
  if k = .tier then abandonMoves s (fun m => moveEngine m.src m.dst == n) else s

/-- Order a unit reset: it is asserted at the next Day. -/
def orderUnit (s : State) (k : EngineKind) (n : Nat) (m : Option CmdRef) : State :=
  let key := engKey k n
  if (KMap.find s.rst.units key).isSome then (match m with
    | some m => (match KMap.find s.rst.units key with
      | some (d, none) => s.setRst { s.rst with units := KMap.put s.rst.units key (d, some m) }
      | _ => answer s m 0 0 [])
    | none => s)
  else s.setRst { s.rst with units := KMap.put s.rst.units key (s.day, m) }

/-- The kind of an engine by its number. -/
def kindOf (n : Nat) : EngineKind := match n with | 0 => .reduce | 1 => .score | 2 => .gather | 3 => .tier | _ => .scrub

/-- Assert the unit resets decided on an earlier Day. -/
def assertUnits (s : State) : State :=
  s.rst.units.foldl (fun s u =>
    let k := kindOf (u.1 / 64)
    let n := u.1 % 64
    if u.2.1 < s.day ∧ (s.engine k n).state = .service then
      let s := s.updEngine k n (fun e => { e with state := .held, unitResets := satAdd 16 e.unitResets 1, weekResets := e.weekResets + 1 })
      abortEngine s k n 0x12
    else s) s

/-- Close what needs a set of engines that are all retired: its chunks close `ABSENT` (R495). -/
def closeRetired (s : State) : State :=
  s.eng.chunks.foldl (fun s c =>
    if dieAvail s .reduce (partition s c.2.node.comp .reduce) (c.2.engine / 32) = .absent then failChunk s c.1 0x10 else s) s

/-- A unit reset ends: the engine is in service again, or retired after its third in one Week. -/
def endUnit (s : State) (k : EngineKind) (n : Nat) : State :=
  match KMap.find s.rst.units (engKey k n) with
  | none => s
  | some (d, m) =>
    let e := s.engine k n
    if s.day < d + 1 + unitDays ∨ e.state = .service then s
    else
      let out := decide (e.weekResets ≥ 3)
      let s := (s.setRst { s.rst with units := KMap.del s.rst.units (engKey k n) }).updEngine k n (fun e =>
        { e with state := if out ∨ e.state = .retired then .retired else .service })
      let s := if out then closeRetired s else s
      match m with
      | some m => answer s m (if out then 0x10 else 0) 0 []
      | none => s

/-! ## Warm reset (R409, R494, R496) -/

/-- The ports of a module whose link chiplets are reset: the Sett keeps the health scores. -/
def portsDown (s : State) : KMap PortSt :=
  s.ports.map (fun p => (p.1, { PortSt.init with health := p.2.health, w := s.alm.cur.settings.combineWindow }))

/-- Engines after a warm reset: the retired ones stay so. -/
def enginesReset (l : KMap EngineSt) : KMap EngineSt :=
  l.map (fun e => (e.1, { EngineSt.init with state := if e.2.state = .retired then .retired else .held, weekResets := e.2.weekResets }))

/-- A warm reset is asserted: crossbar, link chiplets, engines and Den cores are reset, and work in flight is lost. -/
def assertWarm (s : State) : State :=
  let s := abandonMoves s (fun _ => true)
  let s := s.home.olds.foldl (fun s o => dropLoc (s.setHome { s.home with olds := KMap.del s.home.olds o.1 }) o.2.loc o.2.units) s
  let s := s.setPorts (portsDown s)
  let s := s.setXb { XbSt.init with seqOf := s.xb.seqOf }
  let h := s.home
  let noHold (x : HomeExt) : HomeExt := { x with pages := KMap.mapVals x.pages (fun p => { p with hold := 0 }) }
  let s := s.setHome { h with exts := KMap.mapVals h.exts noHold, binv := [], copies := [], waits := [], held := [], te := [],
                              orders := KMap.keep h.orders (fun _ o => o.kind == .withdraw || o.kind == .retire), fetches := [], operandWaits := [], fetched := [] }
  let e := s.eng
  let spares := e.harvests.foldl (fun m x => match x.2.oldExt with
    | some (ext, _) => KMap.put m (spareKey (x.2.part / 2 ^ 16) x.2.die) ext
    | none => m) e.spares
  let s := s.setEng { e with eng := enginesReset e.eng, chunks := [], records := [], queue := [], searches := [], updates := [], harvests := [],
                             parts := KMap.mapVals e.parts (fun p => { p with harvesting := false }), spares := spares,
                             seqs := KMap.mapVals e.seqs (fun x => { x with scans := 0 }), kvHeld := [], kvScans := [], attns := [], subStage := [], gwaits := [] }
  let s := s.setKp { s.kp with linkKeys := [], linkHs := [], asks := [] }
  let s := s.setDen { s.den with coreUp := 0 }
  let c := s.ch
  let s := s.setCh { c with role := if c.role = 0 then 0 else 1, acks := [], votes := [], unacked := [], settle := [], inbox := [], lastHeard := s.day }
  let s := s.setHealth { s.health with reports := [], verdicts := [], orders := [], linkDownSeen := [] }
  let s := s.setSweeps (KMap.mapVals s.sweeps (fun x => { x with rewriting := none, dest := none }))
  let s := s.setEqx s.eqx.again
  s.setTime { s.time with freeRun := true }

/-! ## Package reset (R169, R376, R409, R494, R497) -/

/-- A home extent whose page table is rebuilt: every page is key-lost. -/
def lostExt (x : HomeExt) : HomeExt :=
  { x with pages := (x.pages.filter (fun p => p.2.anchor)).map (fun p => (p.1, { p.2 with state := .keyLost, loc := .t1 0 0, heat := 0, written := false, move := 0, hold := 0 })),
           lost := true, blocks := [], overflow := [], ovfArea := [] }

/-- Every slot of a composition gets a fresh key under its generation; a destroyed one stays destroyed. -/
def renewKeys (s : State) : State :=
  s.kp.slots.foldl (fun s k =>
    if k.2.state.toNat = 1 ∨ k.2.state.toNat = 2 then
      let (n, s) := drawKey s
      s.setKp { s.kp with slots := KMap.put s.kp.slots k.1 { k.2 with state := (1 : BitVec 2), keys := [(k.2.gen.toNat, n)], sweepExt := 0, sweepPage := 0 } }
    else s) s

/-- Homes and stores of a module whose T1 has become unreadable. -/
def loseStore (s : State) : State :=
  let h := s.home
  let s := s.setHome { HomeSt.init with exts := KMap.mapVals h.exts lostExt, stackSt := h.stackSt, resync := true, regions := h.regions, pubs := h.pubs,
                                        lends := KMap.mapVals h.lends (fun l => { l with used := [] }) }
  let e := s.eng
  let s := s.setEng { e with parts := KMap.mapVals e.parts (fun p => Part.empty p.ext), seqs := [], kvPages := [] }
  (s.setMem []).setSweeps []

/-- A lane after a package reset: it is bound as at power-on. -/
def lanesReset (l : KMap LaneSt) : KMap LaneSt := l.map (fun x => (x.1, LaneSt.init x.1))

/-- Clear the metering records. -/
def clearMeters (s : State) (cls : BitVec 2) : State :=
  (s.setComps (KMap.mapVals s.comps (fun c => { c with meter := Meter.zero, snap := Meter.zero, violKind := 0, violSrc := 0, violCount := 0 }))).setMeterReset
    (cls, some s.day)

/-- A package reset is asserted. -/
def assertPackage (s : State) : State :=
  let s := s.kp.sessions.foldl (fun s x => endSession s x.1) s
  let s := loseStore (assertWarm s)
  let k := s.kp
  let s := s.setKp { KeeperSt.init with idOk := k.idOk, idFail := k.idFail, identity := k.identity, ownerRoot := k.ownerRoot, activeSlot := k.activeSlot,
                                        fwPending := k.fwPending, fallback := k.fallback, svnFw := k.svnFw, tree := k.tree, qNext := k.qNext, qRes := k.qRes,
                                        nextReady := k.nextReady, topCacheOk := k.topCacheOk, exhausted := k.exhausted, tokens := k.tokens,
                                        drbg := k.drbg, signQueue := k.signQueue.filter (fun u => match u with | .attest .. => true | .handover _ => true | _ => false),
                                        slots := KMap.mapVals k.slots (fun x => { x with keys := [] }), fwSlots := k.fwSlots, bootOther := k.bootOther }
  let s := s.setEng { s.eng with eng := s.eng.eng.map (fun e => (e.1, { EngineSt.init with state := .held })) }
  let s := s.setLanes (lanesReset s.lanes)
  let s := s.setDen { DenSt.init with coreUp := 0, expired := s.den.expired }
  let s := s.setEqx EqxSt.init
  let s := s.setCh { s.ch with log := [], commit := 0 }
  let s := s.setHealth { s.health with resend := [], hbTable := [] }
  clearMeters s 1

/-! ## Orders (R493) -/

/-- Order a reset of the core dies for the next Day; the wider of two stands. -/
def orderReset (s : State) (c : ResetClass) (m : Option CmdRef) : State :=
  let c := match s.rst.order, c with | some .package, _ => .package | _, c => c
  let r := { s.rst with order := some c }
  s.setRst (if m.isSome then { r with answerTo := m } else r)

/-- Answer the commands whose unit resets a wider reset takes in. -/
def answerUnits (s : State) : State :=
  s.rst.units.foldl (fun s u => match u.2.2 with
    | some m => answer s m 0 0 []
    | none => s) (s.setRst { s.rst with units := [] })

/-- Assert the resets decided on the Day before (R493): before the actions of R28. -/
def assertResets (s : State) : State :=
  let s := assertUnits s
  match s.rst.order with
  | some .warm => (assertWarm s).setRst { s.rst with order := none, running := some (.warm, s.day + warmDays), units := s.rst.units }
  | some .package =>
    let s := answerUnits (assertPackage s)
    s.setRst { s.rst with order := none, running := some (.package, s.day + packageDays) }
  | _ => s

/-! ## Their end (R388, R453, R496 to R499) -/

/-- The image that the Keeper boots: the marked or active slot, else the other (R388). A slot that no command has written holds the
image it was made with. -/
def bootImage (s : State) : State :=
  let k := s.kp
  let passes (slot : Bool) : Bool := match KMap.find k.fwSlots (b2n slot) with
    | none => slot == k.activeSlot
    | some bs => Config.hssVerify Config.vendorRoot bs bs && decide ((Config.imageSvn bs).toNat ≥ k.svnFw.toNat)
  let first := if k.bootOther then !k.activeSlot else k.activeSlot
  if passes first then s.setKp { k with activeSlot := first, fwPending := k.fwPending || k.bootOther, fallback := false, bootOther := false, noImage := false }
  else if passes (!first) then s.setKp { k with activeSlot := !first, fwPending := false, fallback := true, bootOther := false, noImage := false }
  else s.setKp { k with bootOther := false, noImage := true }

/-- The dies run again: cores and engines in service, the next signature at the reservation (R382), and phases 1 to 4 ahead. -/
def coresUp (s : State) : State :=
  let s := s.setRst { s.rst with running := none }
  let q := max s.kp.qNext s.kp.qRes
  let s := s.setKp { s.kp with qNext := q, exhausted := s.kp.exhausted || onlyReserve { s.kp with qNext := q }, building := !s.kp.nextReady && decide (q ≥ 24576 ∧ s.kp.tree < 32767) }
  let s := s.setDen { s.den with coreUp := ~~~s.den.retired, lastKick := (List.range 48).map (fun i => (i, s.day)) }
  let s := s.setEng { s.eng with eng := KMap.mapVals s.eng.eng (fun e => { e with state := if e.state = .retired then .retired else .service }) }
  (membership (keeperNote (bootImage s))).setEqx s.eqx.joining

/-- After a warm or package reset the Almanac's pending record is judged by the count that was kept (R453). -/
def coreStarts (s : State) : State := afterReset (coresUp s)

/-- The module holds itself fenced until it is admitted, and reports it (R496). -/
def holdFenced (s : State) : State := if s.rst.selfFenced then report s s.self 0 1 0x08 0xFF else selfFence s

/-- The actions of R28 that came due while the dies were in reset are taken as it ends (R493). -/
def dueActions (s : State) : State := applyDue s

/-- Answer the command that ordered a reset. -/
def answerReset (s : State) : State :=
  match s.rst.answerTo with
  | some m => answer (s.setRst { s.rst with answerTo := none }) m 0 0 []
  | none => s

/-- A warm reset ends. -/
def warmEnds (s : State) : State :=
  match s.rst.running with
  | some (.warm, d) =>
    if s.day < d then s
    else
      answerReset (holdFenced (answerUnits (dueActions (coreStarts s))))
  | _ => s

/-- The scrub items of R497: every page of the home extents, and lends and trays whole. The length of a tray range is the Almanac's,
which this model does not see. -/
def queueLost (s : State) : State :=
  let s := s.home.exts.foldl (fun s x =>
    let (id, s) := s.fresh
    let i : ScrubItem := { kind := .keyLost, homeExt := x.1, comp := x.2.comp, idx := x.2.idx, pages := List.range 16384, trayFrames := 0, begun := false }
    s.setScrub (KMap.put s.scrub id i)) s
  let s := s.home.lends.foldl (fun s l =>
    let (id, s) := s.fresh
    let i : ScrubItem := { kind := .keyLost, homeExt := 2 ^ 20 + l.1, comp := 0, idx := 0, pages := [], trayFrames := 16 * l.2.pages, begun := false }
    if l.2.ended then s else s.setScrub (KMap.put s.scrub id i)) s
  (trayEps s).foldl (fun s e =>
    let (id, s) := s.fresh
    let (n, s) := s.free
    let i : ScrubItem := { kind := .keyLost, homeExt := 2 ^ 21 + e.toNat, comp := 0, idx := 0, pages := [], trayFrames := n, begun := false }
    s.setScrub (KMap.put s.scrub id i)) s

/-- What a package or power-on reset leaves the Den to rebuild. -/
def rebuildTables (s : State) : State :=
  queueLost (renewKeys s)

/-- A package reset ends: the answer waits for the next session (R484). -/
def packageEnds (s : State) : State :=
  match s.rst.running with
  | some (.package, d) => if s.day < d then s else answerReset (holdFenced (dueActions (rebuildTables (coreStarts (s.setScrub [])))))
  | _ => s

/-! ## The commands -/

/-- `UNIT_RESET_END` (R495). -/
def execUnitResetEnd (kind : EngineKind) (engine : BitVec 6) (s : State) : Out :=
  commit s (if s.running then settle (endUnit s kind engine.toNat) else s)

/-- `WARM_RESET_END` (R496, R499). -/
def execWarmResetEnd (s : State) : Out := commit s (finishAll (warmEnds s))

/-- `PACKAGE_RESET_END` (R497). -/
def execPackageResetEnd (s : State) : Out := commit s (finishAll (packageEnds s))

/-- Whether an engine is present (R2). -/
def enginePresent (s : State) (k : EngineKind) (n : Nat) : Bool := (enginesOf s.variant k).contains n

/-- `ENGINE_NO_PROGRESS` (R493): a unit reset at the next Day. -/
def execEngineNoProgress (kind : EngineKind) (engine : BitVec 6) (s : State) : Out :=
  commit s (if s.running && enginePresent s kind engine.toNat && (s.engine kind engine.toNat).state == .service then orderUnit s kind engine.toNat none else s)

/-- `T0_CARVE_ERROR` (R493): a package reset at the next Day. -/
def execT0CarveError (slice : BitVec 9) (s : State) : Out :=
  commit s (if s.running && decide (slice.toNat < slicesOf s.variant) then orderReset s .package none else s)

/-- `RESET_UNIT` (R484, R495). -/
def execResetUnit (m : CmdRef) (kind : EngineKind) (engine : BitVec 6) (s : State) : Out :=
  commandRow s m 0x58 (fun s =>
    if enginePresent s kind engine.toNat && (s.engine kind engine.toNat).state != .retired then orderUnit s kind engine.toNat (some m)
    else answer s m 0x10 0 [])

/-- `RESET_WARM` (R484, R493). -/
def execResetWarm (m : CmdRef) (s : State) : Out := commandRow s m 0x58 (fun s => orderReset s .warm (some m))

/-- `RESET_PACKAGE` (R484, R493). -/
def execResetPackage (m : CmdRef) (s : State) : Out := commandRow s m 0x58 (fun s => orderReset s .package (some m))

end Sys2Proof.Machine
end

