-- ==== Sys2Proof/Machine/Registers.lean ====
section
/-! DEFINITION. The register map: where each register lies, what it reads, what a read of the Finug port clears and what a write does
(R467 to R480 and the field tables of the other chapters). -/

namespace Sys2Proof.Machine

/-! ## The index (R467, R475) -/

/-- The registers, with their instance. -/
inductive Reg where
  | dnStatus
  | ptCtrl (nn : Nat) | ptDelay (n : Nat) | ptMalformed (n : Nat) | ptTail (n : Nat) | ptGcm (n : Nat) | lane (l : Nat)
  | ecRebuilt | ecLost | fenceLate | mirLost | pushout (c : Nat) | mirCtrl | mirRule (i w : Nat) | misfit (n : Nat)
  | engStats (k : EngineKind) (n : Nat) | engState (k : EngineKind) (n : Nat) | teCodec (n : Nat)
  | chState (n : Nat) | scEcc (n : Nat)
  | capUnits | capMem | alBank | alTxn | alComp (c : Nat)
  | dayNow | dayStatus | wdog | thresh | score (n : Nat)
  | chStatus | chApplied | fnLink
  | mtRec (c w : Nat) | mtSnap (c w : Nat) | mtViol (c : Nat) | mtKv (c : Nat) | mtReset
  | kpStatus | kpLms | mboxCmd | mboxStat | mboxBuf (w : Nat) | kpSlot (n : Nat)
  deriving DecidableEq, Repr

/-- The first register address. -/
def regBase : Nat := 0x0F0000000000
/-- The first address of the Keeper's window. -/
def keeperBase : Nat := 0x0F8000000000

/-- Whether an address is 8-byte aligned and in a window (R467, R469). -/
def inWindow (a : Nat) : Bool :=
  a % 8 == 0 && (decide (regBase ≤ a ∧ a < regBase + 0xF00000 ∧ (a - regBase) / 0x100000 ≠ 9) || decide (keeperBase ≤ a ∧ a < keeperBase + 0x12000))

/-- A per-unit window: statistics at the unit's base, a second register at +8, the engine's state at +0x10 (R467). -/
def unitReg (k : EngineKind) (count o : Nat) : Option Reg :=
  let n := o / 0x100
  if n ≥ count then none
  else match o % 0x100 with
    | 0 => some (.engStats k n)
    | 8 => if k = .tier then some (.teCodec n) else none
    | 0x10 => some (.engState k n)
    | _ => none

/-- The register at an offset of the port window. -/
def portReg (o : Nat) : Option Reg :=
  if o < 0x4000 then (if o % 0x100 = 0 then some (.ptCtrl (o / 0x100)) else none)
  else if 0x10000 ≤ o ∧ o < 0x14000 then
    let n := (o - 0x10000) / 0x20
    match o % 0x20 with | 0 => some (.ptDelay n) | 8 => some (.ptMalformed n) | 0x10 => some (.ptTail n) | _ => some (.ptGcm n)
  else if 0x20000 ≤ o ∧ o < 0x20000 + 8 * 544 then some (.lane ((o - 0x20000) / 8))
  else none

/-- The register at an offset of the crossbar window. -/
def xbReg (o : Nat) : Option Reg :=
  if o = 0 then some .ecRebuilt else if o = 8 then some .ecLost else if o = 0x10 then some .fenceLate else if o = 0x18 then some .mirLost
  else if 0x40 ≤ o ∧ o < 0x80 then some (.pushout ((o - 0x40) / 8))
  else if o = 0x1000 then some .mirCtrl
  else if 0x1100 ≤ o ∧ o < 0x1300 then some (.mirRule ((o - 0x1100) / 0x20) (o % 0x20 / 8))
  else if 0x10000 ≤ o ∧ o < 0x11000 then some (.misfit ((o - 0x10000) / 8))
  else none

/-- The register at an offset of the metering window. -/
def mtReg (o : Nat) : Option Reg :=
  if o < 0x40000 then some (.mtRec (o / 0x40) (o % 0x40 / 8))
  else if o < 0x80000 then some (.mtSnap ((o - 0x40000) / 0x40) (o % 0x40 / 8))
  else if o < 0x88000 then some (.mtViol ((o - 0x80000) / 8))
  else if 0x90000 ≤ o ∧ o < 0x98000 then some (.mtKv ((o - 0x90000) / 8))
  else if o = 0xA0000 then some .mtReset
  else none

/-- The register at an aligned address; none where the index assigns none. -/
def decodeReg (a : Nat) : Option Reg :=
  if a % 8 ≠ 0 then none
  else if regBase ≤ a ∧ a < regBase + 0xF00000 then
    let o := (a - regBase) % 0x100000
    match (a - regBase) / 0x100000 with
    | 0 => if o = 0 then some .dnStatus else none
    | 1 => portReg o
    | 2 => xbReg o
    | 3 => unitReg .reduce 64 o
    | 4 => unitReg .gather 64 o
    | 5 => unitReg .tier 16 o
    | 6 => unitReg .score 64 o
    | 7 => unitReg .scrub 4 o
    | 8 => if o / 0x100 < 16 then (match o % 0x100 with | 0 => some (.chState (o / 0x100)) | 8 => some (.scEcc (o / 0x100)) | _ => none) else none
    | 0xA => if o = 0 then some .capUnits else if o = 8 then some .capMem else if o = 0x10 then some .alBank else if o = 0x18 then some .alTxn
        else if 0x10000 ≤ o ∧ o < 0x18000 then some (.alComp ((o - 0x10000) / 8)) else none
    | 0xB => if o = 0 then some .dayNow else if o = 8 then some .dayStatus else if o = 0x100 then some .wdog else if o = 0x200 then some .thresh
        else if 0x10000 ≤ o ∧ o < 0x11000 then some (.score ((o - 0x10000) / 8)) else none
    | 0xC => if o = 0 then some .chStatus else if o = 8 then some .chApplied else none
    | 0xD => if o = 0 then some .fnLink else none
    | 0xE => mtReg o
    | _ => none
  else if keeperBase ≤ a ∧ a < keeperBase + 0x12000 then
    let o := a - keeperBase
    if o = 0 then some .kpStatus else if o = 8 then some .kpLms else if o = 0x100 then some .mboxCmd else if o = 0x108 then some .mboxStat
    else if 0x1000 ≤ o ∧ o < 0x2000 then some (.mboxBuf ((o - 0x1000) / 8))
    else if 0x10000 ≤ o ∧ o < 0x12000 then some (.kpSlot ((o - 0x10000) / 8))
    else none
  else none

/-! ## Values -/

/-- Whether the module is involved in a composition (R347). -/
def involvedIn (s : State) (c : Nat) : Bool :=
  s.alm.cur.ports.any (fun p => !p.2.fabric && p.2.comp == some (.ofNat 12 c)) || s.home.exts.any (fun e => e.2.comp.toNat == c)

/-- `STATE` of `xx_ENG_STATE`. -/
def stateBits (s : State) (k : EngineKind) (n : Nat) : Nat :=
  if !enginePresent s k n then 0
  else match (s.engine k n).state with
    | .retired => 3
    | .held => 2
    | .service => if s.rst.running.isSome then 2 else 1

/-- Statistics of an engine's requests in progress. -/
def engOpen (s : State) (k : EngineKind) (n : Nat) : Nat :=
  match k with
  | .reduce => (s.eng.chunks.filter (fun c => c.2.engine == n)).length
  | .score => (s.eng.searches.filter (fun x => x.2.started && !x.2.done && worksOn s .score n x.2.req)).length
      + (s.eng.kvScans.filter (fun x => x.2.started && !x.2.assembly && worksOn s .score n x.2.req)).length
  | .gather => ((s.home.operandWaits.map (fun x => x.2.req) ++ s.eng.kvScans.map (fun x => x.2.req)).filter (worksOn s .gather n)).length
  | _ => (s.home.moves.filter (fun m => moveEngine m.2.src m.2.dst == n)).length

/-- Bytes staged in a Reduce engine's open chunks. -/
def staged (s : State) (n : Nat) : Nat :=
  ((s.eng.chunks.filter (fun c => c.2.engine == n)).map (fun c => ((c.2.inputs.map (fun i => (i.2.frames.map (fun f => f.2.length)).sum)).sum))).sum

/-- Pages in the Scrub queue. -/
def scrubQueued (s : State) : Nat := (s.scrub.map (fun i => i.2.pages.length + (i.2.trayFrames + 15) / 16)).sum + (s.sweeps.map (fun w => w.2.pagesLeft.length)).sum

/-- The work of the Scrub engines, in the order of R403. -/
def scrubWork (s : State) : Nat :=
  if s.scrub.any (fun i => i.2.kind == .extent) then 1 else if s.scrub.any (fun i => i.2.kind == .keyLost) then 2 else if s.sweeps.isEmpty then 0 else 3

/-- `xx_ENG_STATS`, `TE_MIG_STATS`, `BV_STATUS`. -/
def statsBits (s : State) (k : EngineKind) (n : Nat) : Nat :=
  let e := s.engine k n
  let three := e.c0 * 2 ^ 48 + e.c1 * 2 ^ 32 + e.c2 * 2 ^ 16
  if !enginePresent s k n then 0
  else match k with
    | .reduce => three + min 255 (engOpen s k n) * 2 ^ 8 + min 255 (staged s n / 4096)
    | .score => three + min 255 (engOpen s k n) * 2 ^ 8 + min 255 (s.eng.queue.filter (fun q => q.2.kind == .score && q.2.engine == n)).length
    | .gather => three + min 255 (engOpen s k n) * 2 ^ 8
    | .tier => let t := KMap.getD s.home.te n TeStats.init; t.pfLate * 2 ^ 48 + t.abandoned * 2 ^ 32 + min 15 (engOpen s k n) * 2 ^ 28 + t.moves
    | .scrub => e.c0 * 2 ^ 32 + scrubWork s * 2 ^ 30 + min (2 ^ 30 - 1) (scrubQueued s)

/-- `PT_PORT_CTRL`. -/
def portCtrl (s : State) (nn : Nat) : Nat :=
  let bitsOf (f : Nat → Bool) : Nat := ((List.range 8).map (fun i => b2n (f (8 * nn + i)) * 2 ^ i)).sum
  let parts := KMap.getD s.alm.cur.split nn 1
  bitsOf (fun p => (s.port p).up) * 2 ^ 56 + bitsOf (fun p => (s.bind p).isSome) * 2 ^ 48
    + bitsOf (fun p => match s.bind p with | some b => b.fabric | none => false) * 2 ^ 40
    + (if parts ≥ 8 then 3 else if parts ≥ 4 then 2 else if parts ≥ 2 then 1 else 0) * 2 ^ 32 + bitsOf (fun p => (s.port p).retraining)

/-- A lane. -/
def State.lane (s : State) (l : Nat) : LaneSt := KMap.getD s.lanes l (LaneSt.init l)

/-- `AL_COMP` (R478). -/
def compBits (s : State) (c : Nat) : Nat :=
  if !involvedIn s c then 0
  else
    let x := s.comp (.ofNat 12 c)
    match KMap.find s.alm.cur.comps c with
    | none => 0
    | some e => 2 ^ 63 + b2n e.strict * 2 ^ 62 + e.tenant.toNat * 2 ^ 50 + x.epoch.toNat * 2 ^ 34 + b2n x.graceEnd.isSome * 2 ^ 33 + x.keySlot.toNat * 2 ^ 23
        + (s.alm.cur.settings.funcEn &&& e.funcEn).toNat * 2 ^ 15

/-- `MT_KV_USE`. -/
def kvUse (s : State) (c : Nat) : Nat :=
  let pool := kvPool s (.ofNat 12 c)
  let pages := ((s.home.exts.filter (fun e => e.2.comp.toNat == c && pool.contains e.2.idx)).map (fun e =>
    (e.2.pages.filter (fun p => p.2.state == .resident || p.2.state == .moving)).length)).sum
  let seqs := (s.eng.seqs.filter (fun q => decide (q.1 / 2 ^ 32 = c) && q.2.state == 1)).length
  let shared := (s.eng.kvPages.filter (fun p => decide (p.1 / 2 ^ 32 = c ∧ p.2 > 1))).length
  min (2 ^ 24 - 1) pages * 2 ^ 40 + min 65535 seqs * 2 ^ 24 + min (2 ^ 24 - 1) shared

/-- `ST_SCORE`. -/
def scoreBits (h : PortHealth) : Nat :=
  PortHealth.linkScore h * 2 ^ 56 + PortHealth.peerScore h * 2 ^ 48 + h.fLink / 256 * 2 ^ 40 + h.fHb / 256 * 2 ^ 32 + h.fEcc / 256 * 2 ^ 24 + h.fTemp / 256 * 2 ^ 16
    + h.standing.toNat * 2 ^ 14 + min 63 h.hbMiss * 2 ^ 8

/-- What a register reads: the Finug port's view, in which the mailbox buffer is zeros (R480). -/
def regValue (s : State) (r : Reg) : Nat :=
  match r with
  | .dnStatus => s.den.coreUp.toNat * 2 ^ 16 + min 255 s.alm.cur.settings.l3Slices * 2 ^ 8
  | .ptCtrl nn => portCtrl s nn
  | .ptDelay n => let p := s.port n; b2n p.delayValid * 2 ^ 63 + b2n p.treeExcl * 2 ^ 62 + p.delay.toNat
  | .ptMalformed n => (s.port n).malformed
  | .ptTail n => (s.port n).tailPoison
  | .ptGcm n => (s.port n).gcmFail
  | .lane l => laneBits (s.lane l)
  | .ecRebuilt => s.xb.ecRebuilt
  | .ecLost => s.xb.ecLost
  | .fenceLate => s.xb.fenceLate
  | .mirLost => s.xb.mirLost
  | .pushout c => if c ≤ 4 then 0 else KMap.getD s.xb.pushout c 0
  | .mirCtrl => s.xb.mirCtrl.toNat
  | .mirRule i w => (KMap.getD s.xb.mirRules (i * 4 + w) 0).toNat
  | .misfit n => (s.port n).tc0Misfit
  | .engStats k n => statsBits s k n
  | .engState k n => stateBits s k n * 2 ^ 62 + (if enginePresent s k n then (s.engine k n).unitResets * 2 ^ 32 + (s.engine k n).busy else 0)
  | .teCodec n =>
    let t := KMap.getD s.home.te n TeStats.init
    if enginePresent s .tier n then t.sizeErr * 2 ^ 48 + t.crcErr * 2 ^ 32 + t.ovfFull * 2 ^ 24 + min 15 (t.queue / 262144) * 2 ^ 20 + t.rawBlocks else 0
  | .chState n =>
    let k := KMap.getD s.home.stackSt n StackSt.init
    k.retired.toNat * 2 ^ 32 + (if stackOut s n then 2 ^ 32 - 1 else k.failed.toNat)
  | .scEcc n =>
    let k := KMap.getD s.home.stackSt n StackSt.init
    min 255 k.penalty * 2 ^ 56 + k.worstCh % 32 * 2 ^ 51 + b2n (stackOut s n) * 2 ^ 50 + k.corrected
  | .capUnits => (capUnits s.variant).toNat
  | .capMem => (capMem s.variant).toNat
  | .alBank =>
    let n := match s.alm.txnState with | .idle => 0 | .open_ => 1 | .sealed => 2 | .prepared => 3 | .pending => 4
    b2n s.alm.curBank * 2 ^ 63 + b2n s.alm.pending.isSome * 2 ^ 62 + n * 2 ^ 59 + (match s.alm.pending with | some p => p.flipDay | none => 0)
  | .alTxn => s.alm.txnId.toNat
  | .alComp c => compBits s c
  | .dayNow => s.time.day % 2 ^ 48 * 4096 + min 4095 s.time.cycle
  | .dayStatus => dayStatusBits s.time
  | .wdog => min 255 s.den.expired * 2 ^ 48 + s.den.retired.toNat
  | .thresh => threshBits s.power
  | .score n => scoreBits (s.port n).health
  | .chStatus => s.ch.role.toNat * 2 ^ 62 + s.ch.leader.toNat * 2 ^ 46 + s.ch.term % 2 ^ 32 * 2 ^ 14 + s.ch.rank % 8
  | .chApplied => s.ch.applied
  | .fnLink => b2n s.fn.lane0 * 2 ^ 63 + b2n s.fn.lane1 * 2 ^ 62 + s.fn.crcErr * 2 ^ 32 + s.fn.retx * 2 ^ 16
  | .mtRec c w => if involvedIn s c then meterWord (s.comp (.ofNat 12 c)).meter false w else 0
  | .mtSnap c w => if involvedIn s c then meterWord (s.comp (.ofNat 12 c)).snap true w else 0
  | .mtViol c => let x := s.comp (.ofNat 12 c); if involvedIn s c then x.violKind.toNat * 2 ^ 60 + x.violSrc.toNat * 2 ^ 44 + x.violCount else 0
  | .mtKv c => if involvedIn s c then kvUse s c else 0
  | .mtReset => s.meterReset.1.toNat * 2 ^ 62 + s.meterReset.2.getD 0 % 2 ^ 48
  | .kpStatus => kpStatusBits s
  | .kpLms => lmsBits s.kp
  | .mboxCmd => 0
  | .mboxStat => mboxBits s.kp
  | .mboxBuf _ => 0
  | .kpSlot n => slotBits (KMap.getD s.kp.slots n KeySlot.init)

/-- The value at an address: zero where no register stands (R467, R469). -/
def readReg (s : State) (a : Nat) : W64 := match decodeReg a with | some r => .ofNat 64 (regValue s r) | none => 0

/-! ## What a Finug read clears (R473) -/

/-- Clear the read-to-clear fields of a register. -/
def clearReg (s : State) (r : Reg) : State :=
  match r with
  | .ptMalformed n => if (KMap.find s.ports n).isSome then s.updPort n (fun p => { p with malformed := 0 }) else s
  | .ptTail n => if (KMap.find s.ports n).isSome then s.updPort n (fun p => { p with tailPoison := 0 }) else s
  | .ptGcm n => if (KMap.find s.ports n).isSome then s.updPort n (fun p => { p with gcmFail := 0 }) else s
  | .misfit n => if (KMap.find s.ports n).isSome then s.updPort n (fun p => { p with tc0Misfit := 0 }) else s
  | .lane l => s.setLanes (KMap.put s.lanes l { s.lane l with uncorr := 0, corrSym := 0 })
  | .ecRebuilt => s.setXb { s.xb with ecRebuilt := 0 }
  | .ecLost => s.setXb { s.xb with ecLost := 0 }
  | .fenceLate => s.setXb { s.xb with fenceLate := 0 }
  | .mirLost => s.setXb { s.xb with mirLost := 0 }
  | .pushout c => s.setXb { s.xb with pushout := KMap.del s.xb.pushout c }
  | .engStats k n =>
    if !enginePresent s k n then s
    else if k = .tier then s.updTe n (fun t => { t with pfLate := 0, abandoned := 0, moves := 0 })
    else s.updEngine k n (fun e => { e with c0 := 0, c1 := 0, c2 := 0 })
  | .engState k n => if enginePresent s k n then s.updEngine k n (fun e => { e with unitResets := 0, busy := 0 }) else s
  | .teCodec n => if enginePresent s .tier n then s.updTe n (fun t => { t with sizeErr := 0, crcErr := 0, ovfFull := 0, rawBlocks := 0 }) else s
  | .scEcc n => s.setHome { s.home with stackSt := match KMap.find s.home.stackSt n with
      | some k => KMap.put s.home.stackSt n { k with corrected := 0 }
      | none => s.home.stackSt }
  | .wdog => s.setDen { s.den with expired := 0 }
  | .fnLink => s.setFn { s.fn with crcErr := 0, retx := 0 }
  | .mtViol c => if involvedIn s c then s.updComp (.ofNat 12 c) (fun x => { x with violKind := 0, violSrc := 0, violCount := 0 }) else s
  | .kpStatus => s.setKp { s.kp with badMac := 0 }
  | _ => s

/-! ## Writes (R470, R472, R474, R479, R480) -/

/-- Take a port down and train it again (R90): a fabric port's loss is a link's, with reason 4. The table of `PT_PORT_CTRL` says so of a
retrain in a running job; the model counts every retrain of a fabric port that is up as a link loss, whether a job runs or not
(DESIGN CHOICE, log 180). -/
def retrain (s : State) (port : Nat) : State :=
  match s.bind port with
  | none => s
  | some b =>
    let s := if !(s.port port).up then s else if b.fabric then linkLoss s port (some 4) else sendControl (portOut s port) port 9 4
    s.updPort port (fun p => { p with retraining := true, delayValid := false })

/-- Write `ST_THRESH`: a value outside its range takes the nearer bound (R479). -/
def writeThresh (s : State) (v : Nat) : State :=
  s.setPower { s.power with tThrottle := max 85 (min 105 (bits 63 56 v)), pLimit := max 600 (min 1800 (bits 47 36 v)) }

/-- Write `XB_MIR_CTRL`: another place or size starts the ring anew. -/
def writeMirror (s : State) (v : W64) : State :=
  let old := s.xb.mirCtrl.toNat
  let n := v.toNat / 2 ^ 28 * 2 ^ 28
  let same := decide (bits 56 44 old = bits 56 44 n)
  s.setXb { s.xb with mirCtrl := .ofNat 64 n, mirRing := if same then s.xb.mirRing else [], mirNext := if same then s.xb.mirNext else 0 }

/-- A Den core kicks its watchdog bit (R442). -/
def kick (s : State) (core : Nat) : State :=
  if core < 48 && s.den.coreUp.getLsbD core then s.setDen { s.den with lastKick := KMap.put s.den.lastKick core s.day } else s

/-- A write of `KP_MBOX_CMD` starts a request, unless one runs (R480). -/
def mboxStart (s : State) (v : Nat) : State :=
  if s.kp.mboxBusy then s.setKp { s.kp with mboxOverrun := true }
  else s.setKp { s.kp with mboxBusy := true, mboxCode := .ofNat 16 (bits 63 48 v), mboxLen := min 4096 (bits 47 35 v) }

/-- A write of `KP_MBOX_STAT` clears what it names. -/
def mboxClear (s : State) (v : Nat) : State :=
  s.setKp { s.kp with mboxDone := s.kp.mboxDone && !bit 62 v, mboxOverrun := s.kp.mboxOverrun && !bit 61 v }

/-- Apply a write to a register (R470): fields that the writer does not reach stay. -/
def writeReg (s : State) (r : Reg) (v : W64) (fromDen : Bool) : State :=
  let n := v.toNat
  match r with
  | .ptCtrl nn => (List.range 8).foldl (fun s i => if bit i n then retrain s (8 * nn + i) else s) s
  | .lane l => if bit 2 n then s.setLanes (KMap.put s.lanes l { s.lane l with spared := false }) else s
  | .mirCtrl => writeMirror s v
  | .mirRule i w => s.setXb { s.xb with mirRules := KMap.put s.xb.mirRules (i * 4 + w) v }
  | .dayStatus => if bit 0 n then s.setTime { s.time with skewAlarm := false } else s
  | .wdog => if fromDen then (List.range 48).foldl (fun s i => if bit i n then kick s i else s) s else s
  | .thresh => writeThresh s n
  | .mboxCmd => if fromDen then mboxStart s n else s
  | .mboxStat => mboxClear s n
  | .mboxBuf w => if fromDen then s.setKp { s.kp with mboxBuf := overlay (padTo 4096 s.kp.mboxBuf) (8 * w) (beBytes 8 n) } else s
  | _ => s

/-- Apply a write to an address. -/
def writeAddr (s : State) (a : Nat) (v : W64) (fromDen : Bool) : State := match decodeReg a with | some r => writeReg s r v fromDen | none => s

/-- The control node's writes that come due at a Day boundary, in order (R472). -/
def applyWrites (s : State) : State :=
  let l := s.xb.regWrites
  l.foldl (fun s w => writeAddr s w.1.toNat w.2.1 w.2.2) (s.setXb { s.xb with regWrites := [] })

/-! ## Samples (R471, R472) -/

/-- The answer to a read: the sample cycle, then one value for each address. -/
def sampleBytes (s : State) (addrs : List (BitVec 48)) : List Byte :=
  wordsBytes ((s.day * 4096 + 2048) :: addrs.map (fun a => (readReg s a.toNat).toNat))

/-- The sample cycle of a Day answers the reads that were admitted before it, and clears what they read. -/
def sampleReads (s : State) : State :=
  s.fn.reads.foldl (fun s r =>
    let x := r.2
    if x.day < s.day ∧ s.time.cycle ≥ 2048 then
      let bs := sampleBytes s x.addrs
      let s := answer (s.setFn { s.fn with reads := KMap.del s.fn.reads r.1 }) x.m 0 0 bs
      if x.clears then x.addrs.foldl (fun s a => match decodeReg a.toNat with | some r => clearReg s r | none => s) s else s
    else s) s

/-- A read waits for the sample cycle of the next Day. -/
def admitRead (s : State) (m : CmdRef) (addrs : List (BitVec 48)) (clears : Bool) : State :=
  let (id, s) := s.fresh
  s.setFn { s.fn with reads := KMap.put s.fn.reads id { m := m, addrs := addrs, day := s.day, clears := clears } }

/-! ## T0 slices (R134, R464) -/

/-- A mirror record (R133): the header as it was sent, with its `HCRC`. -/
def mirrorBytes (r : MirRec) : List Byte :=
  headerBytes r.hdr ++ wordsBytes
    [r.event.toNat * 2 ^ 60 + r.reason % 32 * 2 ^ 55 + r.inPort % 512 * 2 ^ 46 + r.outPort % 512 * 2 ^ 37 + min (2 ^ 20 - 1) r.qdepth * 2 ^ 17,
     r.tAdmit * 16, r.tEvent * 16, 0, 0, 0, 0, 0]

/-- A byte of the mirror ring: the newest record that its place holds. -/
def ringByte (s : State) (i : Nat) : Byte :=
  let size := mirrorSize s
  let len := s.xb.mirRing.length
  let slot := i / 128
  let first := s.xb.mirNext - len
  match (List.range len).reverse.find? (fun k => (first + k) % size == slot) with
  | some k => (match s.xb.mirRing[k]? with | some r => (mirrorBytes r).getD (i % 128) 0 | none => 0)
  | none => 0

/-- The code of a page state (R177). -/
def PageState.code (p : PageState) : Nat := match p with | .unmapped => 0 | .resident => 1 | .moving => 2 | .poisoned => 3 | .keyLost => 4

/-- The two words of a page-table entry (R175). -/
def pteWords (p : Pte) : List Nat :=
  let tier := match p.loc with | .t0 .. => 0 | .t1 .. => 1 | .t2 .. => 2 | .t2n .. => 3
  let loc := match p.loc with
    | .t0 slice slot => slice * 2 ^ 55 + slot * 2 ^ 47
    | .t1 stack frame => stack * 2 ^ 60 + frame * 2 ^ 40
    | .t2 ep page => ep.toNat * 2 ^ 48 + page * 2 ^ 8
    | .t2n ep page lend => ep.toNat * 2 ^ 48 + page * 2 ^ 8 + lend
  [tier * 2 ^ 62 + p.state.code * 2 ^ 59 + p.codec.toNat * 2 ^ 56 + b2n p.pro * 2 ^ 55 + b2n p.pin * 2 ^ 54 + b2n p.anchor * 2 ^ 53
    + b2n p.written * 2 ^ 52 + min 255 p.heat * 2 ^ 44 + (if p.state = .moving then p.move % 65536 * 2 ^ 28 else 0), loc]

/-- An Extent Table entry (R137). -/
def extWord (e : ExtEntry) : Nat :=
  e.home.toNat * 2 ^ 48 + e.mode.toNat * 2 ^ 46 + e.state.toNat * 2 ^ 44 + e.writer.toNat * 2 ^ 28 + e.homeExt.toNat * 2 ^ 8 + b2n e.published * 2 + b2n e.svc

/-- The words of a gather object's entry (R326). -/
def objectWords (comp : Nat) (o : GatherObj) : List Nat :=
  [o.obj.toNat * 2 ^ 40 + comp * 2 ^ 28 + b2n o.graph * 2 ^ 27 + o.fmt.toNat * 2 ^ 23 + o.rowElems % 4096 * 2 ^ 10, o.count * 2 ^ 24, o.base, o.edges, o.delmap]

/-- The words of a warren entry (R267). -/
def warrenWords (s : State) (key : Nat) (w : Warren) : List Nat :=
  let p := w.spec
  let spare (die : Nat) : Nat := KMap.getD s.eng.spares (spareKey key die) 0
  [p.warren.toNat * 2 ^ 40 + p.comp.toNat * 2 ^ 28 + p.fmt.toNat * 2 ^ 25 + p.metric.toNat * 2 ^ 23 + p.dim.toNat * 2 ^ 10 + p.attr.toNat * 2 ^ 8,
   p.pTotal.toNat * 2 ^ 48 + w.pFirst * 2 ^ 32 + w.pLocal * 2 ^ 16 + w.inIdx * 2 ^ 8 + (p.runs.length - 1),
   p.cap.toNat * 2 ^ 32 + p.side.toNat * 2 ^ 12 + p.harvestFill.toNat * 2 ^ 9, spare 0 * 2 ^ 44 + spare 1 * 2 ^ 24]

/-- The first T0 slice of each carve: from slice 0 on in the order of R445, and behind them the Extent Tables, two to a slice (log 68). -/
def carveStart (st : Settings) (n : Nat) : Nat :=
  (([st.bufSlices, st.pageTableSlices, st.dirSlices, st.l3Slices, st.mirrorSlices, st.calendarSlices, st.warrenSlices, st.objectSlices]).take n).sum

/-- A 64-bit word of a T0 slice that holds a table the manual lays out: page tables, warren and object entries, Extent Tables. -/
def tableWord (s : State) (slice w : Nat) : Option Nat :=
  let st := s.alm.cur.settings
  let inCarve (n size : Nat) : Bool := decide (carveStart st n ≤ slice ∧ slice < carveStart st n + size)
  let at' (n : Nat) : Nat := (slice - carveStart st n) * 2 ^ 21 + w
  if inCarve 1 st.pageTableSlices then
    let i := at' 1
    some ((pteWords (s.pte (i / 2 ^ 15) (i / 2 % 2 ^ 14))).getD (i % 2) 0)
  else if inCarve 6 st.warrenSlices then some ((s.eng.warrens.flatMap (fun x => warrenWords s x.1 x.2)).getD (at' 6) 0)
  else if inCarve 7 st.objectSlices then some ((s.alm.cur.comps.flatMap (fun c => c.2.objects.flatMap (objectWords c.1))).getD (at' 7) 0)
  else if carveStart st 8 ≤ slice then
    let i := at' 8
    (s.comps[i / 2 ^ 20]?).map (fun c => extWord (KMap.getD c.2.ext (i % 2 ^ 20) ExtEntry.none_))
  else none

/-- Bytes of a T0 slice as the control node reads it: the mirror ring; zeros of a slice that holds pages, whose lines carry other owners
(R402); the tables that are laid out; what other carves hold is not (log 68). -/
def carveBytes (s : State) (slice offset length : Nat) : List Byte × State :=
  let base := bits 56 48 s.xb.mirCtrl.toNat
  let at' := (slice - base) * 2 ^ 24 + offset
  if s.alm.cur.settings.mirrorSlices ≠ 0 ∧ base ≤ slice ∧ at' + length ≤ mirrorSize s * 128 then ((List.range length).map (fun i => ringByte s (at' + i)), s)
  else if s.alm.cur.settings.pageSlices.contains slice then (zeros length, s)
  else
    let words := (List.range ((offset % 8 + length + 7) / 8)).map (fun i => tableWord s slice (offset / 8 + i))
    match words.mapM id with
    | some l => (((wordsBytes l).drop (offset % 8)).take length, s)
    | none => let (n, s) := s.free; (leBytes length n, s)

/-! ## The commands -/

/-- `REG_READ` (R469, R471). -/
def execRegRead (m : CmdRef) (addrs : List (BitVec 48)) (s : State) : Out :=
  commandRow s m 0x10 (fun s =>
    if addrs.length > 512 ∨ addrs.any (fun a => !inWindow a.toNat) = true then answer s m 0x10 0 [] else admitRead s m addrs true)

/-- `REG_WRITE` (R469, R470, R472). -/
def execRegWrite (m : CmdRef) (pairs : List (BitVec 48 × W64)) (s : State) : Out :=
  commandRow s m 0x11 (fun s =>
    if pairs.length > 512 ∨ pairs.any (fun p => !inWindow p.1.toNat) = true then answer s m 0x10 0 []
    else
      let s := s.setXb { s.xb with regWrites := s.xb.regWrites ++ pairs.map (fun p => (p.1, p.2, false)) }
      admitRead s m (pairs.map (·.1)) false)

/-- `CARVE_READ` (R464). -/
def execCarveRead (m : CmdRef) (slice : BitVec 9) (offset : BitVec 24) (length : BitVec 17) (s : State) : Out :=
  commandRow s m 0x12 (fun s =>
    if length.toNat > 65536 ∨ offset.toNat + length.toNat > 2 ^ 24 ∨ slice.toNat ≥ slicesOf s.variant then answer s m 0x10 0 []
    else match carveBytes s slice.toNat offset.toNat length.toNat with | (bs, s) => answer s m 0 0 bs)

/-- `ST_WDOG_KICK` (R442). -/
def execStWdogKick (core : BitVec 6) (s : State) : Out := commit s (if s.running then kick s core.toNat else s)

/-- `PORT_RETRAIN` (R90). -/
def execPortRetrain (port : PortNo) (s : State) : Out := commit s (if s.running then settle (retrain s port.toNat) else s)

/-- `ST_THRESH_WRITE` (R479). -/
def execStThreshWrite (value : W64) (s : State) : Out := commit s (if s.running then writeThresh s value.toNat else s)

/-- `XB_MIR_CTRL_WRITE` (R132, R472). -/
def execXbMirCtrlWrite (value : W64) (s : State) : Out := commit s (if s.running then writeMirror s value else s)

/-- `XB_MIR_RULE_WRITE` (R476). -/
def execXbMirRuleWrite (rule : BitVec 4) (word : BitVec 2) (value : W64) (s : State) : Out :=
  commit s (if s.running then writeReg s (.mirRule rule.toNat word.toNat) value true else s)

/-- `SKEW_ALARM_CLEAR` (R474). -/
def execSkewAlarmClear (s : State) : Out := commit s (if s.running then s.setTime { s.time with skewAlarm := false } else s)

/-- `REGISTER_WRITE_OTHER` (R470, R472): a write of the Den takes effect, one of the control node to a field that it does not reach has
none. -/
def execRegisterWriteOther (addr : BitVec 48) (value : W64) (fromDen : Bool) (s : State) : Out :=
  commit s (if s.running then settle (writeAddr s addr.toNat value fromDen) else s)

end Sys2Proof.Machine
end

