-- ==== Sys2Proof/Machine/Sett.lean ====
section
/-! DEFINITION. The Sett: samples and throttling, power states, shutdowns and power-up, stack faults, the Den's watchdog, and joining a
running fabric (R35, R412, R413, R442, R453, R481 to R494, R502). -/

namespace Sys2Proof.Machine

/-! ## Sampling and throttling (R486 to R488) -/

/-- The median of up to three samples of one sensor; of two the larger (log 34). -/
def median3 (l : List Nat) : Nat := (sortBy (fun a b => decide (a ≤ b)) l).getD (l.length / 2) 0

/-- The last three samples with a new one. -/
def shift3 (l : List (List Nat)) (x : List Nat) : List (List Nat) := (l ++ [x]).drop (l.length + 1 - 3)

/-- The hottest filtered sensor of a history. -/
def hottest (h : List (List Nat)) : Nat :=
  let n := h.foldl (fun m x => max m x.length) 0
  (List.range n).foldl (fun m i => max m (median3 (h.map (fun x => x.getD i 0)))) 0

/-- The filter of input power: 1 ms at 10 µs a sample, in 1/65,536 W; 652 / 65,536 stands for 1 - e^(-1/100) (log 34). -/
def filterPower (now raw : Nat) : Nat := ((now : Int) + ((raw * 65536 : Nat) - (now : Int)) * 652 / 65536).toNat

/-- `T_SHUTDOWN` (R479). -/
def tShutdown : Nat := 110

/-- Set the throttle step; each change is a note on stream 5. -/
def setStep (s : State) (n : Nat) : State :=
  if n = s.power.step then s
  else note (s.setPower { s.power with step := n, throttledDay := s.power.throttledDay || decide (n > 0) }) 5 [.ofNat 64 n]

/-- The step after a sample: raw current first, then the temperature and power limits (R488). -/
def stepAfter (p : PowerSt) (r : SettReading) : Nat :=
  if r.currentMA.toNat * r.voltageMV.toNat > 2000000000 then 4
  else if p.tMax ≥ p.tThrottle ∨ p.pNow ≥ p.pLimit * 65536 then min 4 (p.step + 1)
  else p.step

/-- Whether a sample is well below the limits. -/
def coolSample (p : PowerSt) : Bool := decide (p.tMax + 3 ≤ p.tThrottle ∧ p.pNow + 50 * 65536 ≤ p.pLimit * 65536)

/-- Take a sample into the filters. -/
def takeSample (p : PowerSt) (r : SettReading) : PowerSt :=
  let j := shift3 p.junctionHist (r.junction.map (fun (b : BitVec 8) => b.toNat))
  let p := { p with junctionHist := j, stackHist := shift3 p.stackHist (r.stackTemps.map (fun (b : BitVec 8) => b.toNat)), tMax := hottest j,
                    pNow := filterPower p.pNow r.powerW.toNat }
  { p with okSamples := if coolSample p then min 100 (p.okSamples + 1) else 0 }

/-- A full 1 ms below the limits has passed: the step falls by one. -/
def lowerStep (s : State) : State :=
  if s.power.okSamples ≥ 100 ∧ s.power.step > 0 then
    let s := s.setPower { s.power with okSamples := 0 }
    setStep s (s.power.step - 1)
  else s

/-! ## Power states (R483, R485, R490, R491, R494) -/

/-- Take every link down. -/
def parkLinks (s : State) : State :=
  let up := (s.ports.filter (fun p => p.2.up)).map (·.1)
  let s := up.foldl setDown s
  up.foldl rerouteLink s

/-- Enter S1: lanes parked, everything else kept; links are keyed again on exit. -/
def enterS1 (s : State) : State :=
  let s := parkLinks s
  (s.setKp { s.kp with linkKeys := [], linkHs := [] }).setPower { s.power with pstate := .s1 }

/-- Back in P0: the module rejoins under R35. -/
def leaveS1 (s : State) : State :=
  let s := s.setPower { s.power with pstate := .p0 }
  (s.setTime { s.time with aligned := false, hasCount := false, freeRun := true }).setEqx s.eqx.joining

/-- The core dies, stacks and lanes lose their power: only the Sett, the Day count and flash keep what they hold, and the count is
provisional. -/
def sleep (s : State) : State :=
  let s := clearMeters (assertPackage s) 2
  let s := answerUnits (s.setMeterReset (2, none))
  let s := s.setRst { s.rst with order := none, running := none }
  let s := s.setTime { s.time with aligned := false, hasCount := false, freeRun := true }
  s.setPower { s.power with pstate := .s3 }

/-- What the Keeper finds at power-up: whether the PUF secret was recovered and whether the tree cache passes are not the manual's to
say (log 35). -/
def keeperUp (s : State) : State :=
  let (n, s) := s.free
  s.setKp { s.kp with idOk := n % 2 == 0, idFail := n % 2 != 0, topCacheOk := n / 2 % 2 == 0 }

/-- The power-up sequence from the rails step to power-good. -/
def powerUp (s : State) : State :=
  let s := s.setPower { s.power with pstate := .p0, thermtripLow := false, alertLow := false, leakLow := false }
  answerReset (rebuildTables (coresUp (keeperUp (s.setScrub []))))

/-- A power-on reset, up to the power-up sequence: the Sett's own state goes too; flash stays. -/
def wipe (s : State) : State :=
  let s := sleep s
  let s := (s.setTime TimeSt.init).setPorts []
  let s := s.setHome { s.home with stackSt := [] }
  let s := (s.setXb XbSt.init).setDen DenSt.init
  let s := s.setKp { s.kp with tokens := 1024 }
  let s := s.setFn { FinugSt.init with stored := s.fn.stored, storedIdent := s.fn.storedIdent }
  let p := s.power
  s.setPower { PowerSt.init with pstate := .s3, inputOn := p.inputOn, pwrEn := p.pwrEn, leakLow := p.leakLow }

/-- A power-on reset: the sequence runs on where `PWR_EN` lets it. -/
def powerOnReset (s : State) : State :=
  let s := wipe s
  if s.power.pwrEn then (powerUp s).setEqx { EqxSt.init with phase := 1 } else s

/-- Whether main rails are up. -/
def railsUp (s : State) : Bool := s.power.inputOn && (s.power.pstate == .p0 || s.power.pstate == .s1)

/-- A thermal or leak shutdown. -/
def shutDown (s : State) : State :=
  if railsUp s then (sleep s).setPower { (sleep s).power with thermtripLow := true } else s

/-- A wake event: from S1 or, where `PWR_EN` does not hold it, from S3. -/
def wake (s : State) : State :=
  if s.power.pstate = .s1 then leaveS1 s
  else if s.power.pstate = .s3 ∧ s.power.pwrEn = true then powerUp s
  else s

/-- One sample of the Sett, in the order of R486; heartbeat verdicts, the Leap and the watchdog have commands of their own. -/
def settSample (s : State) (r : SettReading) : State :=
  if !s.power.inputOn then s
  else
    let s := s.setPower (takeSample s.power r)
    let s := setStep s (stepAfter s.power r)
    if s.power.tMax ≥ tShutdown ∧ railsUp s = true then shutDown s
    else if r.wakeLow ∧ s.power.pstate = .s1 then leaveS1 s
    else s

/-! ## Stacks (R412, R413) -/

/-- The worst penalty of a stack's channels in the running Day. -/
def notePenalty (x : StackSt) (channel p : Nat) : StackSt :=
  let today := x.penaltyHist.headD 0
  { x with penaltyHist := max today p :: x.penaltyHist.drop 1, worstCh := if p > today then channel else x.worstCh }

/-- Change a stack's record. -/
def updStack (s : State) (n : Nat) (f : StackSt → StackSt) : State :=
  s.setHome { s.home with stackSt := KMap.upd s.home.stackSt n StackSt.init f }

/-- The Day's penalty of every stack goes into its register and the next heartbeat. -/
def eccDay (s : State) : State :=
  s.setHome { s.home with stackSt := KMap.mapVals s.home.stackSt (fun x => { x with penalty := x.penaltyHist.headD 0, penaltyHist := 0 :: x.penaltyHist.take 4 }) }

/-- The events that made a channel's penalty are counted in `SC_ECC`: how many the manual leaves open (R412, R415, log 57). -/
def eccEvents (s : State) (stack : Nat) : State :=
  let (n, s) := s.free
  updStack s stack (fun x => { x with corrected := satAdd 32 x.corrected n })

/-- A channel has failed. -/
def failChannel (s : State) (stack channel : Nat) : State :=
  let x := KMap.getD s.home.stackSt stack StackSt.init
  if x.failed.getLsbD channel || stackOut s stack then s
  else
    let s := updStack s stack (fun x => notePenalty { x with failed := x.failed ||| (BitVec.ofNat 32 (2 ^ channel)) } channel 255)
    report s s.self stack 4 6 0xFF

/-- The pages that lie on a channel, by home extent and page: under codec F any frame of an octet counts. -/
def pagesOn (s : State) (stack channel : Nat) : List (Nat × Nat) :=
  pagesAt s (fun l => match l with | .t1 k f => k == stack && f % 32 == channel | _ => false)
    ++ (s.home.exts.filter (fun e => isF e.2.codec.toNat)).flatMap (fun e =>
      (e.2.pages.filter (fun p => p.2.state == .resident && (match octetBaseLoc p.2.codec.toNat p.1 p.2.loc with
        | .t1 k f => k == stack && (List.range (moveUnits p.2.codec.toNat)).any (fun i => (f + i) % 32 == channel)
        | _ => false))).map (fun p => (e.1, p.1)))

/-- Retire a channel: no new frame on it, and a move of every page on it; a stack's third is a failed channel. -/
def retireChannel (s : State) (stack channel : Nat) : State :=
  let x := KMap.getD s.home.stackSt stack StackSt.init
  if x.retired.getLsbD channel || x.failed.getLsbD channel || stackOut s stack then s
  else if ((List.range 32).filter (fun c => x.retired.getLsbD c)).length ≥ 2 then failChannel s stack channel
  else
    let s := updStack (eccEvents s stack) stack (fun x => notePenalty { x with retired := x.retired ||| (BitVec.ofNat 32 (2 ^ channel)) } channel 128)
    let s := report s s.self stack 4 5 0xFF
    (pagesOn s stack channel).eraseDups.foldl (fun s q =>
      let s := s.setHome { s.home with orders := KMap.keep s.home.orders (fun _ o =>
        !(o.homeExt == q.1 && o.page == q.2 && (o.kind == .den || o.kind == .prefetch))) }
      orderMove s { homeExt := q.1, page := q.2, dest := .t1, ep := 0, trayPage := 0, kind := .retire }) s

/-- A stack is lost. -/
def loseStack (s : State) (stack : Nat) : State :=
  if stackOut s stack then s
  else report (updStack s stack (fun x => notePenalty { x with lost := true } 0 255)) s.self stack 4 7 0xFF

/-! ## The Den's watchdog (R442) -/

/-- Den cores that are not retired. -/
def coresLeft (d : DenSt) : Nat := ((List.range 48).filter (fun i => !d.retired.getLsbD i)).length

/-- A core has not kicked for 256 Days: it is reset alone; the third time in a Week it is retired. -/
def coreExpires (s : State) (core : Nat) : State :=
  let d := s.den
  if core ≥ 48 ∨ d.coreUp.getLsbD core = false ∨ s.day < KMap.getD d.lastKick core 0 + 256 then s
  else
    let n := KMap.getD d.weekExpiries core 0 + 1
    let b : BitVec 48 := BitVec.ofNat 48 (2 ^ core)
    let d := { d with expired := satAdd 8 d.expired 1, weekExpiries := KMap.put d.weekExpiries core n, lastKick := KMap.put d.lastKick core s.day,
                      retired := if n ≥ 3 then d.retired ||| b else d.retired, coreUp := if n ≥ 3 then d.coreUp &&& ~~~b else d.coreUp }
    let s := report (s.setDen d) s.self 0 1 0x0A 0xFF
    if coresLeft d < 24 then selfFence s else s

/-! ## Joining a running fabric (R35, R453, R485) -/

/-- Take a neighbour's count; a module that had none then applies what came due, the Almanac's pending record first. -/
def joinFabric (s : State) (port day cycle : Nat) : State :=
  let t := takeCount s port day cycle
  if !s.time.hasCount && t.time.hasCount then applyDue (bankFlip t) else t

/-! ## The commands -/

/-- `SETT_SAMPLE` (R486, R488, R490). -/
def execSettSample (r : SettReading) (s : State) : Out := commit s (settle (settSample s r))

/-- `THROTTLE_LOWER` (R488). -/
def execThrottleLower (s : State) : Out := commit s (if s.power.inputOn then settle (lowerStep s) else s)

/-- `LEAK_N` (R490). -/
def execLeakN (s : State) : Out :=
  commit s (if s.power.inputOn then shutDown (s.setPower { s.power with leakLow := true }) else s)

/-- `DEN_WATCHDOG_EXPIRY` (R442). -/
def execDenWatchdogExpiry (core : BitVec 6) (s : State) : Out := commit s (if s.running then settle (coreExpires s core.toNat) else s)

/-- `CHANNEL_RETIRE` (R412). -/
def execChannelRetire (stack : BitVec 4) (channel : BitVec 5) (s : State) : Out :=
  commit s (if s.running && (stacksOf s.variant).contains stack.toNat then settle (retireChannel s stack.toNat channel.toNat) else s)

/-- `CHANNEL_FAILURE` (R413). -/
def execChannelFailure (stack : BitVec 4) (channel : BitVec 5) (s : State) : Out :=
  commit s (if s.running && (stacksOf s.variant).contains stack.toNat then settle (failChannel s stack.toNat channel.toNat) else s)

/-- `STACK_LOSS` (R413). -/
def execStackLoss (stack : BitVec 4) (s : State) : Out :=
  commit s (if s.running && (stacksOf s.variant).contains stack.toNat then settle (loseStack s stack.toNat) else s)

/-- `INPUT_TURN_ON` (R491): from Off the standby converter starts, and the rails follow where `PWR_EN` is high. -/
def execInputTurnOn (s : State) : Out :=
  commit s (if s.power.inputOn then s else powerOnReset (s.setPower { s.power with inputOn := true }))

/-- `RAIL_FAIL` (R491). -/
def execRailFail (s : State) : Out :=
  let off := if railsUp s then sleep s else s
  commit s (if s.power.inputOn then off.setPower { off.power with thermtripLow := false, alertLow := true } else s)

/-- `UNDERVOLTAGE` (R481). -/
def execUndervoltage (s : State) : Out := commit s (if railsUp s then sleep s else s)

/-- `OVERVOLTAGE` (R481): every rail off, the Sett's included. -/
def execOvervoltage (s : State) : Out :=
  let off := wipe s
  commit s (if s.power.inputOn then off.setPower { off.power with pstate := .off, inputOn := false } else s)

/-- `POR_N` (R493). -/
def execPorN (s : State) : Out := commit s (if s.power.inputOn then powerOnReset s else s)

/-- `WAKE_N` (R485). -/
def execWakeN (s : State) : Out := commit s (if s.power.inputOn then wake s else s)

/-- `PWR_EN` (R485, R502): a rising edge wakes the module from S3. -/
def execPwrEn (high : Bool) (s : State) : Out :=
  let t := s.setPower { s.power with pwrEn := high }
  commit s (if high && !s.power.pwrEn && s.power.inputOn && s.power.pstate == .s3 then powerUp t else t)

/-- `S3_REALIGN_RETRY` (R485): an aligned neighbour's count, if there is one. -/
def execS3RealignRetry (neighbour : Option (PortNo × BitVec 48 × BitVec 12)) (s : State) : Out :=
  commit s (match neighbour with
    | some (p, d, c) => if s.running then settle (joinFabric s p.toNat d.toNat c.toNat) else s
    | none => s)

/-- `RUNNING_FABRIC_JOIN` (R35). -/
def execRunningFabricJoin (port : PortNo) (day : BitVec 48) (cycle : BitVec 12) (s : State) : Out :=
  commit s (if s.running then settle (joinFabric s port.toNat day.toNat cycle.toNat) else s)

/-- Whether a fence holds the module itself (R485). -/
def fencedSelf (s : State) : Bool := s.rst.selfFenced || isFenced s s.self

/-- `RESET_POWER_ON` (R484): it strikes at once, and the answer waits for the next session. -/
def execResetPowerOn (m : CmdRef) (s : State) : Out :=
  commandRow s m 0x58 (fun s => answer (powerOnReset s) m 0 0 [])

/-- `ENTER_S1` (R484, R485). -/
def execEnterS1 (m : CmdRef) (s : State) : Out :=
  commandRow s m 0x58 (fun s => if fencedSelf s && s.power.pstate == .p0 then enterS1 (answer s m 0 0 []) else answer s m 0x10 0 [])

/-- `ENTER_S3` (R484, R485). -/
def execEnterS3 (m : CmdRef) (s : State) : Out :=
  commandRow s m 0x58 (fun s => if fencedSelf s then sleep (answer s m 0 0 []) else answer s m 0x10 0 [])

/-- `LEAVE_S1` (R484, R485). -/
def execLeaveS1 (m : CmdRef) (s : State) : Out :=
  commandRow s m 0x58 (fun s => if s.power.pstate = .s1 then answer (leaveS1 s) m 0 0 [] else answer s m 0x10 0 [])

end Sys2Proof.Machine
end

