-- ==== Sys2Proof/Machine/Day.lean ====
section
/-! DEFINITION. The Day boundary and the Day marker: the count and its Leaps, the actions of a Day in their order, and what each Day and
Week begins with (R22 to R47, R149, R180, R181, R282, R284, R372 to R375, R394, R414 to R434). -/

namespace Sys2Proof.Machine

/-! ## The count (R22, R34, R36, R38) -/

/-- The size of an offset. -/
def offsetSize (t : TimeSt) : Nat := t.skew.natAbs

/-- Whether the offset is taken to grow: the module has a count and no parent to measure against (R34). -/
def drifts (t : TimeSt) : Bool := t.freeRun && t.hasCount && !t.root

/-- The growth of a Day without a parent: 0.164 cycle, 2.624 sixteenths, carried exactly over the Days. -/
def driftOf (day : Nat) : Nat := 2624 * (day + 1) / 1000 - 2624 * day / 1000

/-- The offset at the end of a Day without a parent. R34 gives the growth and not its sign: a negative offset grows more negative, and any
other grows positive (DESIGN CHOICE, log 36). -/
def drift (t : TimeSt) : TimeSt :=
  if drifts t then
    let n : Int := driftOf t.day
    { t with skew := if t.skew ≥ 0 then min 32767 (t.skew + n) else max (-32768) (t.skew - n) }
  else t

/-- The alarm of R38. -/
def alarm (t : TimeSt) : TimeSt := { t with skewAlarm := t.skewAlarm || decide (offsetSize t > 48) }

/-- A Leap Day has ended: the offset and the differences it was filtered from have moved with the boundary, and the average begins
again (R36, log 36). -/
def leapEnds (t : TimeSt) : TimeSt :=
  if t.dayLen = 4096 then t
  else
    let d : Int := if t.dayLen < 4096 then 16 else -16
    { t with skew := t.skew - d, diffs := t.diffs.map (· - d), meds := [], leapCount := (t.leapCount + 1) % 2 ^ 32 }

/-- The length of the Day that begins: a Leap of one cycle where the filtered offset has reached one (R36). A module that runs free has no
measured offset but the one taken under R34: it inserts no Leap for it (DESIGN CHOICE, log 36). -/
def leap (t : TimeSt) : TimeSt :=
  { t with dayLen := if t.root || t.freeRun || decide (offsetSize t < 16) then 4096 else if t.skew > 0 then 4095 else 4097 }

/-- Cycle 0 of the next Day. -/
def nextDay (t : TimeSt) : TimeSt :=
  let t := alarm (drift (leapEnds t))
  leap { t with day := t.day + 1, cycle := 0, extra := false, over4 := if offsetSize t > 64 then t.over4 + 1 else 0 }

/-- The median of the last differences. -/
def medianInt (l : List Int) : Int := (sortBy (fun a b => decide (a ≤ b)) l).getD (l.length / 2) 0

/-- A difference from the parent's marker goes through the filter: a median of five, an average of sixteen (R36). -/
def takeDiff (t : TimeSt) (d : Int) : TimeSt :=
  let diffs := (t.diffs ++ [d]).drop (t.diffs.length + 1 - 5)
  let meds := (t.meds ++ [medianInt diffs]).drop (t.meds.length + 1 - 16)
  alarm { t with diffs := diffs, meds := meds, skew := meds.foldl (· + ·) 0 / (meds.length : Int) }

/-! ## The Day's actions (R28) -/

/-- A count that the module does not yet trust: no action that names a Day is applied (R485). -/
def provisional (s : State) : Bool := !s.time.hasCount && s.eqx.out

/-- The scheduled cells of an earlier Day that are still here, with the port of their path: in output queues, in arrival, and held by this
module as a decoder (R47, R55). -/
def lateCells (s : State) : List (Nat × Nat) :=
  ((s.xb.queue.filter (fun q => q.2.frame.hdr.cls == 0 && decide (q.2.admitted < s.day * 4096))).map (fun q =>
      (if q.2.inPort < 512 then q.2.inPort else q.2.port, q.2.cells)))
    ++ s.ports.filterMap (fun p => p.2.openTc0.bind (fun o => o.req.bind (fun r => if r.day < s.day then some (p.1, o.cells) else none)))
    ++ s.xb.ec.flatMap (fun g => match decodedFlow s (g.1 / 65536) with
      | some f => if g.2.day < s.day then g.2.members.filterMap (fun m => m.2.map (fun x =>
          (((f.groupMembers (g.1 % 65536)).getD m.1 (0, 0)).1, cellsOf x.payload.length))) else []
      | none => [])

/-- A schedule fence: scheduled cells of an earlier Day that are still here are late, and their path's link is marked down (R47). -/
def scheduleFence (s : State) : State :=
  if bit 14 (KMap.getD s.alm.cur.weekPlan (s.day % 4096) 0).toNat then
    (lateCells s).foldl (fun s q => markLink (s.setXb { s.xb with fenceLate := satAdd 64 s.xb.fenceLate q.2 }) q.1 128) s
  else s

/-- The actions of a Day in the order of R28; the control node's register writes follow them (R472). -/
def dayActions (s : State) : State :=
  let s := if provisional s then s else scheduleFence (applyDue (bankFlip s))
  applyWrites (selectTemplate s)

/-! ## Metering (R372, R373, R375) -/

/-- Whether an extent's pages count: from its grant until its revocation Day. -/
def counts (s : State) (he : Nat) (x : HomeExt) : Bool :=
  !((s.comp x.comp).rev.any (fun r => r.2.home == s.self && r.2.homeExt == he && decide (r.2.revDay ≤ s.day)))

/-- Units of 64 KiB that an extent's pages occupy in a tier. -/
def unitsIn (x : HomeExt) (t : Tier) : Nat :=
  let l := x.pages.filter (fun p => (p.2.state == .resident || p.2.state == .moving || p.2.state == .poisoned) && p.2.loc.tier == t)
  let plain := (l.filter (fun p => !isF p.2.codec.toNat)).length
  let octets := ((l.filter (fun p => isF p.2.codec.toNat)).map (fun p => (p.1 / 8, octetFrames p.2.codec.toNat))).eraseDups
  plain + (octets.map (·.2)).sum

/-- The Day's residency of a composition. -/
def residency (s : State) (c : BitVec 12) (m : Meter) : Meter :=
  let mine := s.home.exts.filter (fun e => e.2.comp == c && counts s e.1 e.2)
  let sum (t : Tier) : Nat := (mine.map (fun e => unitsIn e.2 t)).sum
  let grant := match s.compEntry c with | some e => e.t0Grant | none => 0
  let ovf := (mine.map (fun e => e.2.ovfArea.length)).sum
  { m with t0 := m.t0 + .ofNat 64 (256 * grant), t1 := m.t1 + .ofNat 64 (sum .t1 + ovf), t2 := m.t2 + .ofNat 64 (sum .t2), t2n := m.t2n + .ofNat 64 (sum .t2n) }

/-- The compositions that the module meters. -/
def meteredComps (s : State) : List (BitVec 12) :=
  ((s.alm.cur.comps.map (·.1) ++ s.comps.map (·.1)).eraseDups.filter (involvedIn s)).map (BitVec.ofNat 12)

/-- The Week's copy of every record, before the Day's additions. -/
def snapshot (s : State) : State :=
  (meteredComps s).foldl (fun s c =>
    let m := { (s.comp c).meter with week := s.day / 4096 }
    let s := s.updComp c (fun x => { x with snap := m })
    note s 2 (.ofNat 64 c.toNat :: (List.range 8).map (fun w => .ofNat 64 (meterWord m true w)))) s

/-- The Day's additions: what is held, and the engine cycles that its calendar reserves. -/
def meterDay (s : State) : State :=
  meterReserved ((meteredComps s).foldl (fun s c => s.updComp c (fun x => { x with meter := residency s c x.meter })) s)

/-! ## Days and Weeks (R149, R180, R394, R442, R495) -/

/-- The next combining window of a port from the Day's counts (R149). -/
def nextWindow (w elig comb : Nat) : Nat :=
  if elig = 0 then w
  else if comb * 16 ≥ elig then (if w = 0 then 8 else min (2 * w) 512)
  else if comb * 64 < elig then (if w / 2 < 8 then 0 else w / 2)
  else w

/-- Adjust the combining windows, unless the Almanac fixes them. -/
def adjustWindows (s : State) : State :=
  s.setPorts (KMap.mapVals s.ports (fun p =>
    { p with w := if s.alm.cur.settings.combineFixed then p.w else nextWindow p.w p.wElig p.wComb, wElig := 0, wComb := 0 }))

/-- The sweep of heat at the start of a Week (R180), taken at once (log 37). -/
def sweepHeat (s : State) : State :=
  let cool (x : HomeExt) : HomeExt := { x with pages := KMap.mapVals x.pages (fun p => { p with heat := p.heat / 2, written := false }) }
  s.setHome { s.home with exts := KMap.mapVals s.home.exts cool }

/-- A link's key of a new Week: its counters begin at 0, and the receiver keeps the old key for 16 Days (R394, R396). -/
def LinkKey.next (k : LinkKey) (day : Nat) : LinkKey :=
  let w := day / 4096
  let fresh {α : Type} (m : KMap α) : KMap α := KMap.keep m (fun i _ => decide (i % 2 ≠ w % 2))
  { k with week := w, keptPrev := some (day + 16), txCtr := fresh k.txCtr, rxCtr := fresh k.rxCtr, sure := [] }

/-- What a Week begins with. -/
def weekStarts (s : State) : State :=
  let s := sweepHeat (snapshot s)
  let s := s.setKp { s.kp with linkKeys := KMap.mapVals s.kp.linkKeys (fun k => LinkKey.next k s.day) }
  let s := s.setHealth { s.health with softThisWeek := [] }
  let s := s.setDen { s.den with weekExpiries := [] }
  s.setEng { s.eng with eng := KMap.mapVals s.eng.eng (fun e => { e with weekResets := 0 }) }

/-- Budgets and queues of a new Day. -/
def dayBudgets (s : State) : State :=
  let s := s.setEng { s.eng with used := [] }
  let s := s.setHome { s.home with upToday := 0, downToday := 0, t0Today := 0, te := KMap.mapVals s.home.te (fun t => { t with queue := 0 }) }
  s.setPower { s.power with throttledPrev := s.power.throttledDay, throttledDay := decide (s.power.step > 0) }

/-- Frames of this module that wait for a path are tried again (log 20). -/
def retryOwn (s : State) : State := s.xb.waiting.foldl (fun s w => if w.2.req.port ≥ 512 then tryWaiting s w.1 else s) s

/-- Graces that are over (R361). -/
def endGraces (s : State) : State := s.comps.foldl (fun s c => graceEnds s (.ofNat 12 c.1)) s

/-- The services' work at a Day boundary. -/
def serviceDay (s : State) : State :=
  let s := if s.day % 4096 = 0 then weekStarts s else s
  let s := retireDue (flushAnchors <| harvestFlips (settleTombstones (meterDay (endGraces s))))
  dayBudgets (adjustWindows s)

/-- Health at a Day boundary: reports of the Day before go out, then scores, the detector and heartbeats. -/
def sentinelDay (s : State) : State :=
  admitCollateral (reviewProbation (detect (healthDay (eccDay (sendReports s)))))

/-- Cycle 0 of a Day (R28): resets come first (R493), and a module in reset or asleep only counts. -/
def dayBoundary (s : State) : State :=
  if !s.power.inputOn then s
  else
    let s := sampleReads (s.setTime { s.time with cycle := max 2048 s.time.cycle })
    let s := s.setTime (nextDay s.time)
    let s := if s.running then assertResets s else s
    if !s.running then s
    else
      let s := serviceDay (dayActions s)
      finishAll (leaderWatch (resubmit (retryOwn (sendHeartbeats (sentinelDay s)))))

/-! ## The commands -/

/-- `DAY_BOUNDARY` (R28). -/
def execDayBoundary (s : State) : Out := commit s (dayBoundary s)

/-- A Day marker tells a module that runs the phases and has no count that the fabric runs already: it joins under R35 (log 30). -/
def fabricRuns (s : State) : State :=
  if s.time.hasCount = false ∧ 1 ≤ s.eqx.phase ∧ s.eqx.phase ≤ 4 then s.setEqx { s.eqx with rejoin := true, out := true } else s

/-- A neighbour's Day marker: only the parent's is measured, by its arrival and not by its number; `late` is how late this module is, in
1/16 cycle (R36, log 36). -/
def markerHeard (s : State) (port : Nat) (late : Int) : State :=
  let s' := fabricRuns (s.updPort port (fun p => { p with lastCtrl := s.now }))
  if s.eqx.parent = some port ∧ s.time.root = false then s'.setTime { takeDiff s.time late with freeRun := false } else s'

/-- `DAY_MARKER` (R36). -/
def execDayMarker (port : PortNo) (_dayLo : BitVec 20) (late : BitVec 16) (s : State) : Out :=
  commit s (if (s.port port.toNat).up then markerHeard s port.toNat late.toInt else s)

/-- `DAY_MARKER_SEND` (R98): each link sends its marker in the Day guard of every Day that the module counts. -/
def execDayMarkerSend (port : PortNo) (s : State) : Out :=
  commit s (if (s.port port.toNat).up && s.running && s.time.hasCount then sendControl s port.toNat 6 (s.day % 2 ^ 20) else s)

/-- `ALIGNMENT_LOSS` (R38): after 16 Days beyond 4 cycles the module stops scheduled traffic and reports itself; best-effort traffic goes
on. -/
def execAlignmentLoss (s : State) : Out :=
  let lost := s.setTime { s.time with aligned := false }
  let lost := lost.setRst { lost.rst with unaligned := true }
  commit s (if s.time.over4 ≥ 16 && s.time.aligned && s.running then settle (report (selectTemplate lost) s.self 0 1 0x08 0xFF) else s)

end Sys2Proof.Machine
end

