-- ==== Sys2Proof/Machine/Moves.lean ====
section
/-! DEFINITION. What the home's timers, the Tier engines and the Den do to pages, and requests that wait too long (R144, R161 to R166,
R181 to R195, R204 to R208, R225, R506, R509). -/

namespace Sys2Proof.Machine

/-! ## Moves (R182 to R195) -/

/-- The precedence of a move: the lower goes first (R182, R412). -/
def MoveKind.rank (k : MoveKind) : Nat := match k with | .withdraw => 0 | .retire => 0 | .promote => 1 | .prefetch => 2 | .den => 3

/-- Whether an ordered move would start now. -/
def wouldStart (s : State) (id : Nat) : Bool := decide ((startMove s id).home.moves.length > s.home.moves.length)

/-- Whether an order goes before another: of a higher precedence, or an earlier one of two prefetches (R182, R194). -/
def goesBefore (x y : Nat × MoveOrder) : Bool :=
  decide (x.2.kind.rank < y.2.kind.rank) || (x.2.kind == .prefetch && y.2.kind == .prefetch && decide (x.1 < y.1))

/-- Start a move, unless one that goes before it could start instead. -/
def startOrder (s : State) (id : Nat) : State :=
  match KMap.find s.home.orders id with
  | none => s
  | some o => if s.home.orders.any (fun x => goesBefore x (id, o) && wouldStart s x.1) then s else startMove s id

/-- The Den orders a move of a page; a tray is one that this module binds. -/
def denOrder (s : State) (he page : Nat) (dest : Tier) (ep : Ep) (trayPage : Nat) : State :=
  let named := decide (dest = .t2) && ep != 0
  if (s.homeExt he).isNone || (named && !(trayEps s).contains ep) then s
  else orderMove s { homeExt := he, page := page, dest := dest, ep := if named then ep else 0, trayPage := trayPage, kind := .den }

/-- A frame of T1 is free: what waited for one goes on, withdrawals and retirements first (R176, R182, R189). -/
def frameFree (s : State) : State :=
  (s.home.orders.filter (fun o => decide (o.2.kind.rank = 0)) ++ s.home.orders.filter (fun o => o.2.kind == .promote)).foldl (fun s o => startMove s o.1) s

/-- A request has waited 1,024 Days for a frame of T1: every held request of the page completes `TIMEOUT`, and the page stays where it
is (R176, R189). -/
def allocTimeout (s : State) (id : Nat) : State :=
  match KMap.find s.home.held id with
  | none => s
  | some h =>
    if (h.why ≠ .alloc ∧ h.why ≠ .promote) ∨ s.day < h.day + 1024 ∨ (moveOf s h.homeExt h.page).isSome = true
        ∨ (allocFrames s (moveUnits (s.extCodec h.homeExt).1)).isSome = true then s
    else
      let mine (x : HeldReq) : Bool := x.homeExt == h.homeExt && x.page == h.page && (x.why == .alloc || x.why == .promote || x.why == .behind)
      let all := (s.home.held.filter (fun x => mine x.2)).map (fun x => x.2.req)
      let s := s.setHome { s.home with orders := KMap.keep s.home.orders (fun _ o => !(o.homeExt == h.homeExt && o.page == h.page && o.kind == .promote)) }
      all.foldl (fun s r => failWork s r 0x50) s

/-! ## Lends (R206 to R208) -/

/-- A lender's notice: the first withdraws the lend, and one after its end is answered with a release. -/
def takeNotice (s : State) (r : Req) : State :=
  let w := wordAt r.payload 0
  let id := bits 63 56 w
  match KMap.find s.home.lends id with
  | none => s
  | some l =>
    if bit 55 w ∨ l.lender ≠ r.hdr.src then s
    else if l.ended then sendRelease s id l.lender
    else if l.notice.isSome then s
    else withdrawLend (s.setHome { s.home with lends := KMap.put s.home.lends id { l with notice := some s.day } }) id

/-- Frames that are out to a lend: their addresses lie in its range. -/
def fetchesIn (s : State) (l : Lend) : KMap Fetch :=
  s.home.fetches.filter (fun f => f.2.ep == l.lender && decide (l.base ≤ f.2.frame.hdr.addr.toNat ∧ f.2.frame.hdr.addr.toNat < l.base + l.pages * 65536))

/-- End a lend. -/
def endLend (s : State) (id : Nat) (l : Lend) : State :=
  s.setHome { s.home with lends := KMap.put s.home.lends id { l with ended := true, used := [] } }

/-- The last page of a withdrawn lend has flipped and no access to it is left: the release goes out. -/
def lendDrained (s : State) (id : Nat) : State :=
  match KMap.find s.home.lends id with
  | none => s
  | some l =>
    if l.ended || l.notice.isNone || !(pagesAt s (inLend id)).isEmpty || !(fetchesIn s l).isEmpty || s.home.olds.any (fun o => inLend id o.2.loc) then s
    else sendRelease (endLend s id l) id l.lender

/-- Answer frames of a lost store with `POISON`; those of scrubs and sweeps are dropped. -/
def poisonFetches (s : State) (l : KMap Fetch) : State :=
  l.foldl (fun s f =>
    match KMap.find s.home.fetches f.1, f.2.why with
    | none, _ => s
    | some _, .scrubWrite _ => s.setHome { s.home with fetches := KMap.del s.home.fetches f.1 }
    | some _, .sweepFrame _ => s.setHome { s.home with fetches := KMap.del s.home.fetches f.1 }
    | some _, _ => trayAnswer s f.1 f.2 0x40 []) s

/-- 65,536 Days after its first notice, what is still in a lend is poisoned. -/
def lendExpires (s : State) (id : Nat) : State :=
  match KMap.find s.home.lends id with
  | none => s
  | some l =>
    match l.notice with
    | none => s
    | some d =>
      if l.ended ∨ s.day < d + 65536 then s
      else
        let left := pagesAt s (inLend id)
        let s := left.foldl (fun s q => poisonPage s q.1 q.2) (poisonFetches s (fetchesIn s l))
        let s := if left.isEmpty then s else report s l.lender 0 6 0x0D 0xFF
        match KMap.find s.home.lends id with
        | some l => endLend s id l
        | none => s

/-! ## Trays and lenders that do not answer (R191, R509) -/

/-- Send a frame again after 64 Days, with `RETRY` set and the same `SEQ`. -/
def resendFetch (s : State) (id : Nat) : State :=
  match KMap.find s.home.fetches id with
  | none => s
  | some f =>
    if s.day < f.lastDay + 64 then s
    else
      let h := f.frame.hdr
      let fr : Frame := { f.frame with hdr := { h with flags := h.flags ||| flagRetry } }
      let s := s.setHome { s.home with fetches := KMap.put s.home.fetches id { f with lastDay := s.day } }
      let o : OwnReq := { why := .fetch id, dest := f.ep, opcode := h.opcode, addr := h.addr, etag := h.etag }
      sendRequest (s.setXb { s.xb with own := KMap.put s.xb.own (pairKey f.ep h.seq) o }) fr

/-- What needed the data of a frame without an answer for 192 Days completes `TIMEOUT`, and so do stores held for a promotion; moves, scrubs and
sweeps go on trying. -/
def fetchTimeout (s : State) (id : Nat) : State :=
  match KMap.find s.home.fetches id with
  | none => s
  | some f =>
    if s.day < f.firstDay + 192 then s
    else
      let kind := if s.home.lends.any (fun l => l.2.lender == f.ep) then 6 else 5
      let s := report s f.ep 0 kind 0x0D 0xFF
      let gone := accessEnds (s.setHome { s.home with fetches := KMap.del s.home.fetches id }) f
      match f.why with
      | .read r => completeStatus gone r 0x50
      | .operand w _ => (match KMap.find s.home.operandWaits w with | some x => failWork gone x.req 0x50 | none => gone)
      | .piece c _ _ len => pumpCopy (pieceEnds gone c (2 ^ 60 + id) len 0x50) c
      | .moveRead m _ => (match KMap.find s.home.moves m with | some x => failPromotion s x.homeExt x.page 0x50 | none => s)
      | _ => s

/-! ## Back-invalidates (R144) -/

/-- Send an endpoint its back-invalidate of a line again: the same request, with `RETRY` set. -/
def repeatBinv (s : State) (c : BitVec 12) (line : Nat) (ep : Ep) : State :=
  match KMap.first? s.xb.own (fun _ o => o.why == .binv line ep) with
  | none => sendBinv s c (s.comp c).epoch line ep
  | some (key, o) =>
    let h := { ownHeader s 0x18 ep 0 with comp := c, epoch := (s.comp c).epoch, addr := o.addr, seq := .ofNat 32 key, flags := flagRetry }
    sendRequest s { hdr := h, payload := [], poisoned := false }

/-- Send a line's back-invalidates again to every endpoint that has not completed. -/
def binvAgain (s : State) (line : Nat) (ep : Ep) : State :=
  match KMap.find s.home.binv line with
  | none => s
  | some b =>
    if !b.await.contains ep || decide (s.day < b.lastDay + 64) || decide (s.day ≥ b.firstDay + 1024) then s
    else
      let s := s.setHome { s.home with binv := KMap.put s.home.binv line { b with lastDay := s.day } }
      b.await.foldl (fun s e => repeatBinv s b.comp line e) s

/-- Whether a held request waits on a line: an access to it, or an engine command that writes to its page (log 184). -/
def waitsOnLine (line : Nat) (h : HeldReq) : Bool :=
  let op := h.req.hdr.opcode.toNat
  h.why == .binv && (if op < 0x40 then (accessLines h.homeExt h.req.hdr.addr (max h.req.hdr.length.toNat h.req.payload.length)).contains line
                     else decide (line / 512 = h.homeExt * 2 ^ 14 + h.page))

/-- 1,024 Days without a completion: what waits on the line completes `TIMEOUT`, and the endpoints are reported. The line keeps its
state. -/
def binvExpires (s : State) (line : Nat) : State :=
  match KMap.find s.home.binv line with
  | none => s
  | some b =>
    if s.day < b.firstDay + 1024 then s
    else
      let out (h : Header) (addr n : Nat) : Bool := addr != 0 && (outputLines s h addr n).contains line
      let reqs := (s.home.held.filter (fun h => waitsOnLine line h.2)).map (fun h => h.2.req)
        ++ (s.eng.searches.filter (fun x => decide (x.2.statuses.length ≥ searchNq x.2.req) && out x.2.req.hdr (wordAt x.2.req.payload 3) (searchNq x.2.req * (16 + 16 * searchK x.2.req)))).map (fun x => x.2.req)
      let attns := s.eng.attns.filter (fun a => a.2.whole && out a.2.req.hdr a.2.outGfa a.2.outBytes)
      let s := s.setHome { s.home with binv := KMap.del s.home.binv line }
      let s := reqs.foldl (fun s r => failWork s r 0x50) s
      let s := attns.foldl (fun s a => failAttn s a.1 0x50) s
      b.await.foldl (fun s e => report s e 0 0 0x09 0xFF) s

/-! ## First hops, paths and the ledger (R163, R166, R506) -/

/-- A flagged store has been held 4,096 Days. -/
def flaggedTimeout (s : State) (id : Nat) : State :=
  match KMap.find s.xb.flagged id with
  | none => s
  | some f =>
    if !f.flagged || decide (s.day < f.day + 4096) then s
    else completeStatus (freeReq (s.setXb { s.xb with flagged := KMap.del s.xb.flagged id }) f.req) f.req 0x50

/-- Whether a request of the module's own goes on waiting: its sender repeats it or owes no answer. -/
def waitsOn (s : State) (r : Req) : Bool :=
  match KMap.find s.xb.own (pairKey r.hdr.dest r.hdr.seq) with
  | some o => (match o.why with | .combine _ => false | .piece .. => false | .search .. => false | .attn .. => false | _ => true)
  | none => true

/-- 64 Days without a path: the request completes `TIMEOUT`, at its asker where it is the module's own. -/
def noPath (s : State) (id : Nat) : State :=
  match KMap.find s.xb.waiting id with
  | none => s
  | some w =>
    let h := w.req.hdr
    if s.day < w.day + 64 ∨ (nextPort s h.src h.dest h.cls).isSome = true ∨ h.isResp = true then s
    else if h.src ≠ s.self then completeStatus (freeReq (s.setXb { s.xb with waiting := KMap.del s.xb.waiting id }) w.req) w.req 0x50
    else if waitsOn s w.req then s
    else
      let s := s.setXb { s.xb with waiting := KMap.del s.xb.waiting id }
      ownCompletion s { hdr := completionHeader s h h.dest 0x50 0 false, payload := [], poisoned := false }

/-- A ledger record's two Weeks are over: the source's expired mark rises to it. -/
def ledgerExpires (s : State) (src : Ep) (seq : BitVec 32) : State :=
  match KMap.find s.home.ledger (pairKey src seq) with
  | none => s
  | some l =>
    if s.day < l.day + 8192 then s
    else
      let s := s.setHome { s.home with ledger := KMap.del s.home.ledger (pairKey src seq) }
      match markOf s src with
      | some .resync => s
      | some (.at_ x) => if atOrBelow x seq then s else s.setHome { s.home with marks := KMap.put s.home.marks src.toNat (.at_ seq) }
      | none => s.setHome { s.home with marks := KMap.put s.home.marks src.toNat (.at_ seq) }

/-! ## The commands -/

/-- A command that has its effect only while the module runs, and what follows it. -/
def whileRunning (s : State) (f : State → State) : Out := commit s (if s.running then settle (f s) else s)

/-- `LEND_NOTICE` (R206, R207). -/
def execLendNotice (a : Arrival) (s : State) : Out := commit s (settle (arrive s a.port.toNat none (asRequest 0x84 a.frame) takeNotice))

/-- `LEND_DRAIN_COMPLETE` (R207). -/
def execLendDrainComplete (lend : BitVec 8) (s : State) : Out := whileRunning s (fun s => lendDrained s lend.toNat)

/-- `LEND_DEADLINE` (R208). -/
def execLendDeadline (lend : BitVec 8) (s : State) : Out := whileRunning s (fun s => lendExpires s lend.toNat)

/-- `COMPLETION_RETURN` (R161, R440). -/
def execCompletionReturn (a : Arrival) (s : State) : Out := commit s (arriveResp s a)

/-- `TRAY_COMPLETION` (R191, R509). -/
def execTrayCompletion (a : Arrival) (s : State) : Out := commit s (arriveResp s a)

/-- `TRAY_RESEND` (R191). -/
def execTrayResend (fetch : Nat) (s : State) : Out := whileRunning s (fun s => resendFetch s fetch)

/-- `TRAY_TIMEOUT` (R191). -/
def execTrayTimeout (fetch : Nat) (s : State) : Out := whileRunning s (fun s => fetchTimeout s fetch)

/-- `BINV_RESEND` (R144). -/
def execBinvResend (line : Nat) (ep : Ep) (s : State) : Out := whileRunning s (fun s => binvAgain s line ep)

/-- `BINV_TIMEOUT` (R144). -/
def execBinvTimeout (line : Nat) (s : State) : Out := whileRunning s (fun s => binvExpires s line)

/-- `FLAGGED_STORE_TIMEOUT` (R163). -/
def execFlaggedStoreTimeout (store : Nat) (s : State) : Out := whileRunning s (fun s => flaggedTimeout s store)

/-- `NO_PATH_TIMEOUT` (R506). -/
def execNoPathTimeout (request : Nat) (s : State) : Out := whileRunning s (fun s => noPath s request)

/-- `PATH_UP_FORWARD` (R506). -/
def execPathUpForward (request : Nat) (s : State) : Out := whileRunning s (fun s => tryWaiting s request)

/-- `LEDGER_RECORD_EXPIRY` (R166). -/
def execLedgerRecordExpiry (src : Ep) (seq : BitVec 32) (s : State) : Out := whileRunning s (fun s => ledgerExpires s src seq)

/-- `ALLOCATION_WAIT_TIMEOUT` (R176, R189). -/
def execAllocationWaitTimeout (held : Nat) (s : State) : Out := whileRunning s (fun s => allocTimeout s held)

/-- `T1_FRAME_FREE` (R189). -/
def execT1FrameFree (s : State) : Out := whileRunning s frameFree

/-- `DEN_MOVE_DECISION` (R181). -/
def execDenMoveDecision (homeExt : BitVec 20) (page : BitVec 14) (dest : Tier) (tray : Ep) (trayPage : BitVec 40) (s : State) : Out :=
  whileRunning s (fun s => denOrder s homeExt.toNat page.toNat dest tray trayPage.toNat)

/-- `T1_FLOOR_DEMOTION` (R184). -/
def execT1FloorDemotion (s : State) : Out := whileRunning s demoteCold

/-- `PREFETCH_CURSOR_ADVANCE` (R194). -/
def execPrefetchCursorAdvance (comp : BitVec 12) (s : State) : Out := whileRunning s (fun s => cursorMoved s comp)

/-- `MOVE_START` (R185). -/
def execMoveStart (order : Nat) (s : State) : Out := whileRunning s (fun s => startOrder s order)

/-- `MOVE_PASS_END` (R185). -/
def execMovePassEnd (move : Nat) (s : State) : Out := whileRunning s (fun s => endPass s move)

/-- `MOVE_SOURCE_FREE` (R186). -/
def execMoveSourceFree (move : Nat) (s : State) : Out := whileRunning s (fun s => freeSource s move)

/-- `TE_QUEUE_ROOM` (R226): the engine has taken one block of its queue. -/
def execTeQueueRoom (engine : BitVec 4) (s : State) : Out :=
  whileRunning s (fun s => s.updTe engine.toNat (fun t => { t with queue := t.queue - 1 }))

end Sys2Proof.Machine
end

