-- ==== Sys2Proof/Machine/Scrubs.lean ====
section
/-! DEFINITION. The end of revocations, the Scrub engines with their queue and sweeps, and the hash of a publication (R198, R199, R370,
R401, R403, R487, R497 to R499). -/

namespace Sys2Proof.Machine

/-! ## Publications (R198) -/

/-- The plaintext of a page, with the blocks that trays have sent; none where it cannot be read. -/
def pagePlain (s : State) (v : Publication) (he page : Nat) : Option (List Byte) :=
  (List.range 16).foldl (fun (acc : Option (List Byte)) i =>
    match acc, readPiece s v.blocks v.comp.toNat he page (i * 4096) 4096 with
    | some l, .data bs => some (l ++ bs)
    | _, _ => none) (some [])

/-- The hash of one page of a version; that of a page which is homed elsewhere, or which is poisoned, is not this module's to say (log 38). -/
def pageHash (s : State) (v : Publication) (idx page : Nat) : List Byte × State :=
  match (ownExtent s v.comp idx).bind (fun he => pagePlain s v he page) with
  | some bs => (sha256 bs, s)
  | none => let (n, s) := s.free; (beBytes 32 n, s)

/-- The content hash of a version: over the hashes of its pages in GFA order. -/
def contentHash (s : State) (v : Publication) : List Byte × State :=
  let (l, s) := (List.range v.extents).foldl (fun (acc : List Byte × State) i =>
    (List.range 16384).foldl (fun (acc : List Byte × State) page =>
      let (h, s) := pageHash acc.2 v (v.base / 2 ^ 30 + i) page
      (acc.1 ++ h, s)) acc) ([], s)
  (sha256 l, s)

/-- The blocks of a version's pages here that a tray or lender still has to send for the hash: home extent, page and block. -/
def blocksToHash (s : State) (v : Publication) : List (Nat × Nat × Nat) :=
  (List.range v.extents).flatMap (fun i =>
    match ownExtent s v.comp (v.base / 2 ^ 30 + i) with
    | none => []
    | some he =>
      match s.homeExt he with
      | none => []
      | some x => (x.pages.map (·.1)).flatMap (fun page =>
          ((List.range 16).filter (fun b => readPiece s v.blocks v.comp.toNat he page (b * 4096) 4096 == .fetch)).map (fun b => (he, page, b))))

/-- Ask for the blocks of a version's hash that are not on their way. -/
def fetchForHash (s : State) (id : Nat) (l : List (Nat × Nat × Nat)) : State :=
  l.foldl (fun s b =>
    let k := blockKey b.1 b.2.1 b.2.2
    if s.home.fetches.any (fun f => f.2.why == .hash id k) then s
    else let (start, n) := storedRange s b.1 b.2.1 (b.2.2 * 4096) 4096; sendFetch s (.hash id k) 6 b.1 b.2.1 start n) s

/-- Stores that were admitted before the freeze and have not completed. -/
def storesLeft (s : State) (v : Publication) : Bool :=
  (List.range v.extents).any (fun i => (heldReqs s).any (fun r => isStoreOp r.hdr.opcode.toNat && touches s v.comp (v.base / 2 ^ 30 + i) r))

/-- The homes have hashed a frozen version: the Den of the first extent's home proposes its publication (R199). A version with pages at trays or
lenders is hashed once their blocks are here: until then the command asks for them. -/
def hashDone (s : State) (id : Nat) : State :=
  match KMap.find s.home.pubs id with
  | none => s
  | some v =>
    if v.hashed || storesLeft s v || (ownExtent s v.comp (v.base / 2 ^ 30)).isNone then s
    else if !(blocksToHash s v).isEmpty then fetchForHash s id (blocksToHash s v)
    else
      let (h, s) := contentHash s v
      let v := { v with hashed := true, hash := .ofNat 256 (beNat h), blocks := [] }
      propose (s.setHome { s.home with pubs := KMap.put s.home.pubs id v }) v.comp (.publication v.region v.version v.hash (.ofNat 64 v.base) false) 0

/-! ## Revocations (R370) -/

/-- At V + 4,096 what the in-flight counter still holds is stopped. -/
def revokeDeadline (s : State) (c : BitVec 12) (idx : Nat) : State :=
  match KMap.find (s.comp c).rev idx with
  | none => s
  | some r =>
    if r.home ≠ s.self ∨ r.stopped = true ∨ s.day < r.revDay + 4096 then s
    else (stopExtent s c idx).updComp c (fun x => { x with rev := KMap.put x.rev idx { r with stopped := true } })

/-- The revocation completes: the extent's pages go to the Scrub engines. -/
def revokeComplete (s : State) (c : BitVec 12) (idx : Nat) : State :=
  match KMap.find (s.comp c).rev idx with
  | none => s
  | some r =>
    if r.home ≠ s.self ∨ r.scrubbing = true ∨ s.day < r.revDay + 4096 ∨ inFlight s c idx ≠ 0 then s
    else
      let (id, s) := s.fresh
      let pages := match s.homeExt r.homeExt with | some x => (x.pages.filter (fun p => p.2.state != .unmapped)).map (·.1) | none => []
      let i : ScrubItem := { kind := .extent, homeExt := r.homeExt, comp := c, idx := idx, pages := pages, trayFrames := 0, begun := false }
      (s.setScrub (KMap.put s.scrub id i)).updComp c (fun x => { x with rev := KMap.put x.rev idx { r with scrubbing := true } })

/-! ## The Scrub engines (R403) -/

/-- The place of a kind in the queue. -/
def ScrubKind.rank (k : ScrubKind) : Nat := match k with | .extent => 0 | .keyLost => 1 | .sweep => 2

/-- The first item of the queue. -/
def firstItem (s : State) : Option (Nat × ScrubItem) :=
  s.scrub.foldl (fun (b : Option (Nat × ScrubItem)) x => match b with
    | none => some x
    | some y => if x.2.kind.rank < y.2.kind.rank then some x else b) none

/-- Whether the Scrub engines work: paused from throttle step 3 on (R487). -/
def scrubRuns (s : State) : Bool := decide (s.power.step < 3)

/-- Zeros for a page at a tray or lender (R191). -/
def sendZeros (s : State) (item he page : Nat) : State :=
  let p := s.pte he page
  let c := p.codec.toNat
  match trayAddr s c page p.loc with
  | some (ep, a) => (List.range (pieceCount c)).foldl (fun s i =>
      sendStore s (.scrubWrite item) he page ep (a + i * 4096) (zeros (min 4096 (pageStored c - i * 4096)))) s
  | none => s

/-- An item begins: the frames of its pages at trays and lenders go out. -/
def beginItem (s : State) (id : Nat) (i : ScrubItem) : State :=
  if i.begun then s
  else
    let s := s.setScrub (KMap.put s.scrub id { i with begun := true })
    i.pages.foldl (fun s p => sendZeros s id i.homeExt p) s

/-- Frames of an item that are out for a page. -/
def zerosOut (s : State) (item he page : Nat) : Bool :=
  s.home.fetches.any (fun f => (match f.2.why with | .scrubWrite i => i == item | _ => false) && f.2.homeExt == he && f.2.page == page)

/-- A scrubbed page is unmapped and its place returns: an octet's when no page of it is left. -/
def scrubbedPage (s : State) (he page : Nat) : State :=
  let p := s.pte he page
  let c := p.codec.toNat
  let held := p.state == .resident || p.state == .moving || p.state == .poisoned
  let other := isF c && (List.range 8).any (fun i => page / 8 * 8 + i != page && (let q := s.pte he (page / 8 * 8 + i); q.state == .resident || q.state == .moving))
  let s := if held && !other then dropLoc s (octetBaseLoc c page p.loc) (moveUnits c) else s
  let s := s.updExt he (fun x => { x with pages := KMap.put x.pages page { Pte.init with pro := x.proAll },
                                          blocks := KMap.keep x.blocks (fun b _ => decide (b / 16 ≠ page)) })
  s.setHome { s.home with poison := s.home.poison.filter (fun k => decide (k / 512 ≠ he * 2 ^ 14 + page)) }

/-- The endpoint and base of a whole range that R497 scrubs. -/
def rangeOf (s : State) (he : Nat) : Option (Ep × Nat) :=
  if 2 ^ 21 ≤ he then some (.ofNat 16 (he - 2 ^ 21), 0)
  else if 2 ^ 20 ≤ he then (KMap.find s.home.lends (he - 2 ^ 20)).map (fun l => (l.lender, l.base))
  else none

/-- Sixteen more frames of a whole range, from its end on. -/
def sendRange (s : State) (id : Nat) (i : ScrubItem) : State :=
  let n := min 16 i.trayFrames
  let left := i.trayFrames - n
  let s := s.setScrub (KMap.put s.scrub id { i with trayFrames := left })
  match rangeOf s i.homeExt with
  | some (ep, a) => (List.range n).foldl (fun s k => sendStore s (.scrubWrite id) i.homeExt 0 ep (a + (left + k) * 4096) (zeros 4096)) s
  | none => s

/-- A Scrub engine finishes a page of the first item; it is counted in `BV_STATUS`. -/
def scrubPage (s : State) (engine : Nat) : State :=
  match firstItem s with
  | none => s
  | some (id, i) =>
    if !scrubRuns s || (s.engine .scrub engine).state != .service then s
    else
      let s := beginItem s id i
      let i := { i with begun := true }
      let count (s : State) : State := s.updEngine .scrub engine (fun e => { e with c0 := satAdd 32 e.c0 1 })
      match i.pages.find? (fun p => !zerosOut s id i.homeExt p) with
      | some p => count (scrubbedPage (s.setScrub (KMap.put s.scrub id { i with pages := i.pages.filter (· != p) })) i.homeExt p)
      | none => if i.pages.isEmpty && decide (i.trayFrames > 0) then count (sendRange s id i) else s

/-- The pages of a key-lost extent are all scrubbed: its table holds mapped pages only. -/
def extentClean (x : HomeExt) : HomeExt :=
  { x with lost := false, pages := KMap.keep x.pages (fun _ p => p != { Pte.init with pro := x.proAll }) }

/-- The first item is finished. -/
def scrubItem (s : State) : State :=
  match firstItem s with
  | none => s
  | some (id, i) =>
    let out := s.home.fetches.any (fun f => match f.2.why with | .scrubWrite k => k == id | _ => false)
    if !i.pages.isEmpty || decide (i.trayFrames > 0) || out then s
    else
      let s := s.setScrub (KMap.del s.scrub id)
      match i.kind with
      | .extent => propose s i.comp (.done (.ofNat 20 i.idx)) 0
      | .keyLost => s.updExt i.homeExt extentClean
      | .sweep => s

/-! ## Sweeps (R401, R498) -/

/-- Pages of a sweep at or past its watermark, in order. -/
def pagesAhead (s : State) (k : KeySlot) : List (Nat × Nat) :=
  (sweepPages s k.comp).filter (fun p => decide (k.sweepExt < p.1 ∨ (k.sweepExt = p.1 ∧ k.sweepPage ≤ p.2)))

/-- Change a sweep's record. -/
def putSweep (s : State) (slot : Nat) (w : Sweep) : State := s.setSweeps (KMap.put s.sweeps slot w)

/-- Frames of a sweep that are out. -/
def sweepOut (s : State) (slot : Nat) : Bool := s.home.fetches.any (fun f => match f.2.why with | .sweepFrame k => k == slot | _ => false)

/-- The new place of a page at a tray or lender; under codec F the page stays in its octet. -/
def sweepDest (s : State) (c : Nat) (l : Loc) : Option Loc :=
  match l with
  | .t2 ep p => if isF c then some (.t2 ep p) else
      let used := trayUsed s ep
      (freeUnits (used.length + 1) 0 (2 ^ 40) 1 used).map (fun n => .t2 ep n)
  | .t2n ep p lend => if isF c then some (.t2n ep p lend) else
      match KMap.find s.home.lends lend with
      | some x => let used := lendUsed s lend; (freeUnits (used.length + 1) 0 x.pages 1 used).map (fun n => .t2n ep n lend)
      | none => none
  | _ => none

/-- The engines begin with a page at a tray or lender: its stored lines are read for rewriting. -/
def beginSweepPage (s : State) (slot : Nat) (w : Sweep) (he page : Nat) : State :=
  let p := s.pte he page
  match sweepDest s p.codec.toNat p.loc with
  | none => s
  | some d =>
    let s := putSweep s slot { w with rewriting := some (he * 2 ^ 14 + page), dest := some d }
    (List.range (pieceCount p.codec.toNat)).foldl (fun s i =>
      let n := pieceLen s he page i
      if n = 0 then s else sendFetch s (.sweepFrame slot) 6 he page (i * 4096) n) s

/-- The page's new place is in force and the watermark is past it, in one step; the old place is zeroed and freed. -/
def sweepSwitch (s : State) (slot : Nat) (w : Sweep) (he page : Nat) (place : Loc) : State :=
  let p := s.pte he page
  let s := pastPage s slot he page
  let s := if p.loc = place then s else dropLoc (s.updPte he page (fun x => { x with loc := place })) p.loc 1
  putSweep s slot { w with rewriting := none, dest := none, pagesLeft := w.pagesLeft.filter (fun q => q != (he, page)) }

/-- A page of a sweep is finished. One in T1 is rewritten into a free frame of its stack, one under codec F in place (log 39); one that is
moving is waited for. -/
def sweepPage (s : State) (slot : Nat) : State :=
  match KMap.find s.sweeps slot, KMap.find s.kp.slots slot with
  | some w, some k =>
    if !scrubRuns s || !s.scrub.isEmpty then s
    else match pagesAhead s k with
      | [] => putSweep s slot { w with pagesLeft := [] }
      | (he, page) :: rest =>
        let p := s.pte he page
        let w := { w with pagesLeft := (he, page) :: rest }
        if p.state = .moving then putSweep s slot w
        else match p.loc with
          | .t1 stack frame =>
            if isF p.codec.toNat then sweepSwitch s slot w he page p.loc
            else match freeRunFrom s stack 1 (frameFuel s stack 1) 0 with
              | none => putSweep s slot w
              | some f =>
                let at' (f : Nat) : Nat := t1Base + (stack * 786432 + f) * 65536
                let s := takeFrames s stack f 1
                let s := s.setMem (Memory.writeBytes s.mem (at' f) (Memory.readBytes s.mem (at' frame) 65536))
                sweepSwitch s slot w he page (.t1 stack f)
          | _ =>
            if w.rewriting ≠ some (he * 2 ^ 14 + page) then beginSweepPage s slot w he page
            else if sweepOut s slot then putSweep s slot w
            else match w.dest with
              | some d => sweepSwitch s slot w he page d
              | none => s
  | _, _ => s

/-- The last page of a sweep is done: the older key is destroyed. -/
def sweepDone (s : State) (slot : Nat) : State :=
  match KMap.find s.sweeps slot, KMap.find s.kp.slots slot with
  | some _, some k => if (pagesAhead s k).isEmpty then sweepEnds s slot else s
  | _, _ => s

/-! ## The commands -/

/-- `PUBLICATION_HASH_DONE` (R198, R199). -/
def execPublicationHashDone (publication : Nat) (s : State) : Out := commit s (if s.running then finishAll (hashDone s publication) else s)

/-- `REVOCATION_DEADLINE` (R370). -/
def execRevocationDeadline (comp : BitVec 12) (ext : BitVec 20) (s : State) : Out := whileRunning s (fun s => revokeDeadline s comp ext.toNat)

/-- `REVOCATION_COMPLETE` (R370). -/
def execRevocationComplete (comp : BitVec 12) (ext : BitVec 20) (s : State) : Out := whileRunning s (fun s => revokeComplete s comp ext.toNat)

/-- `SCRUB_PAGE_DONE` (R403). -/
def execScrubPageDone (engine : BitVec 2) (s : State) : Out := whileRunning s (fun s => scrubPage s engine.toNat)

/-- `SCRUB_ITEM_DONE` (R370, R403). -/
def execScrubItemDone (s : State) : Out := commit s (if s.running then finishAll (scrubItem s) else s)

/-- `SWEEP_PAGE_DONE` (R401, R498). -/
def execSweepPageDone (slot : BitVec 10) (s : State) : Out := whileRunning s (fun s => sweepPage s slot.toNat)

/-- `SWEEP_COMPLETE` (R401). -/
def execSweepComplete (slot : BitVec 10) (s : State) : Out := commit s (if s.running then finishAll (sweepDone s slot.toNat) else s)

end Sys2Proof.Machine
end

