-- ==== Sys2Proof/Machine/Link.lean ====
section
/-! DEFINITION. The link layer: cells and their acceptance, GCM on protected ports, departure by class, control words, retransmission,
release of bulk frames, link loss and link up, and lane sparing (R39, R40, R45, R89 to R125, R132, R394 to R396). -/

namespace Sys2Proof.Machine

/-! ## Protection of a port's frames (R394 to R396) -/

/-- The two ends of a port's link as the key sees them: sender's endpoint id and port, and whether this module sends. An endpoint's own
port counts as 0 (log 40). -/
def linkEnd (s : State) (port : Nat) (sends : Bool) : Ep × Nat :=
  if sends then (s.self, port)
  else
    let far := s.alm.cur.topo.links.findSome? (fun l =>
      if l.a = s.self ∧ l.portA = port then some (l.b, l.portB) else if l.b = s.self ∧ l.portB = port then some (l.a, l.portA) else none)
    far.getD ((match s.bind port with | some b => b.ep | none => 0), 0)

/-- Key and IV of a frame on a direction of a link, by its `GCM_CTR` (R394, R395): the Week is this one, or where the key phase is the other
the one before it. -/
def linkCipher (k : LinkKey) (from' : Ep × Nat) (count : Nat) : List Byte × Nat :=
  let week := if count / 2 ^ 63 % 2 = k.week % 2 then k.week else k.week - 1
  let tail := beBytes 2 from'.1.toNat ++ beBytes 2 from'.2 ++ beBytes 8 week
  (hkdfExpand k.secret (ascii "ixa-link" ++ tail) 32, beNat (hkdfExpand k.secret (ascii "ixa-salt" ++ tail) 4) * 2 ^ 64 + count)

/-- Bytes of a frame under its key stream, from a place on: what was plain becomes sealed, and what was sealed plain. -/
def cipherBytes (c : List Byte × Nat) (place : Nat) (bs : List Byte) : List Byte :=
  bs.zipWith (· ^^^ ·) (gcmStream c.1 c.2 place bs.length)

/-- `GCM_CTR` (R395): key phase, stream and counter. -/
def gcmCount (week : Nat) (tc0 : Bool) (ctr : Nat) : Nat := week % 2 * 2 ^ 63 + b2n tc0 * 2 ^ 62 + ctr % 2 ^ 62

/-- The trailer of a protected frame (R395). -/
def gcmTrailer (c : List Byte × Nat) (hdr payload : List Byte) (pcrc : Nat) : List Byte :=
  let sealed := cipherBytes c 0 (payload ++ beBytes 4 pcrc ++ zeros 4)
  beBytes 8 (c.2 % 2 ^ 64) ++ sealed.drop payload.length ++ beBytes 16 (gcmTag c.1 c.2 hdr sealed).toNat

/-- What a receiver makes of the bytes after a header on a protected port: the payload with its `PCRC`, and the counter; none where the
tag or the counter fails (R396). -/
def openFrame (k : LinkKey) (from' : Ep × Nat) (day : Nat) (tc0 : Bool) (hdr body : List Byte) : Option (List Byte × Nat × Nat) :=
  let n := body.length - 32
  let count := beNat ((body.drop n).take 8)
  let phase := count / 2 ^ 63 % 2
  let stream := count / 2 ^ 62 % 2
  let ctr := count % 2 ^ 62
  let old := match k.keptPrev with | some d => decide (day < d ∧ k.week > 0) | none => false
  let c := linkCipher k from' count
  let sealed := body.take n ++ (body.drop (n + 8)).take 8
  if (phase = k.week % 2 ∨ old = true) ∧ body.length ≥ 32 ∧ stream = b2n tc0 ∧ KMap.getD k.rxCtr (stream * 2 + phase) 0 ≤ ctr
      ∧ (gcmTag c.1 c.2 hdr sealed).toNat = beNat (body.drop (n + 16)) then some (cipherBytes c 0 sealed, stream * 2 + phase, ctr)
  else none

/-! ## Cells in arrival (R95 to R102, R119 to R124) -/

/-- Whether a cell's CRC passes: over its 256 bytes and its envelope's bits 95:32 (R95). -/
def cellGood (c : Cell) : Bool := crc32c (padTo 256 c.content ++ Cell.head c) == c.ccrc

/-- Whether a first cell's header passes its own CRC (R68). -/
def headerGood (c : Cell) : Bool := crc32c (c.content.take 60) == .ofNat 32 (beNat ((c.content.drop 60).take 4))

/-- The payload that a frame carries by its header (R69). -/
def carried (h : Header) : Nat := if (h.opcode = 0x10 ∨ h.opcode = 0x11) ∧ h.isResp = false then 0 else h.length.toNat

/-- Count a failure on a link (R415). -/
def linkFailure (s : State) (port : Nat) : State :=
  s.updPort port (fun p => { p with health := { p.health with failures := p.health.failures + 1 } })

/-- The keys of a port. -/
def State.linkKey (s : State) (port : Nat) : LinkKey :=
  KMap.getD s.kp.linkKeys port { secret := [], txCtr := [], rxCtr := [], week := 0, keptPrev := none }

/-- Change the keys of a port. -/
def updLinkKey (s : State) (port : Nat) (f : LinkKey → LinkKey) : State :=
  s.setKp { s.kp with linkKeys := KMap.put s.kp.linkKeys port (f (s.linkKey port)) }

/-- A frame whose cells are all in: unsealed on a protected port; poisoned where a check of its tail fails, with the `PCRC` that it came with
(R97, R121, R124, R396). -/
def wholeFrame (s : State) (port : Nat) (bytes : List Byte) (pcrc : BitVec 32) (poisoned : Bool) : State × Frame :=
  let h := parseHeader (bytes.take 64)
  let body := bytes.drop 64
  let frame (payload : List Byte) (pcrc : BitVec 32) : Frame :=
    if poisoned || payloadCrc payload != pcrc then { hdr := h, payload := payload, poisoned := true, pcrc := some pcrc }
    else { hdr := h, payload := payload, poisoned := false }
  if !sealsPort s port then (s, frame body pcrc)
  else match openFrame (s.linkKey port) (linkEnd s port false) s.day (h.cls == 0) (bytes.take 64) body with
    | some (plain, key, ctr) =>
      let n := plain.length - 8
      (updLinkKey s port (fun k => { k with rxCtr := KMap.put k.rxCtr key (ctr + 1), sure := addOnce k.sure key }),
        frame (plain.take n) (.ofNat 32 (beNat ((plain.drop n).take 4))))
    | none =>
      let s := updLinkKey s port (fun k => { k with sure := [] })
      let bad : Frame := { hdr := h, payload := body.take (carried h), poisoned := true }
      -- a frame that came poisoned need not have a tag that fits
      if poisoned then (s, bad) else (linkFailure (s.updPort port (fun p => { p with gcmFail := satAdd 64 p.gcmFail 1 })) port, bad)

/-- A coded member's place, by its port and the cycle of its first cell (R49, R55). -/
def memberAt (s : State) (port cycle : Nat) (h : Header) : Option (Nat × Nat × Nat) :=
  s.alm.cur.flows.findSome? (fun p => match decodedFlow s p.1 with
    | none => none
    | some f =>
      if f.src = h.src then
        (f.members.findIdx? (fun m => m.1 == port && decide (cycle ≤ m.2 + 4 ∧ m.2 ≤ cycle + 4))).map (fun i =>
          (p.1, i / (f.ecK + 1), i % (f.ecK + 1)))
      else none)

/-- What this module does with a request, or a frame without completion, that is for it. -/
def takeHere (s : State) (r : Req) : State :=
  let op := r.hdr.opcode.toNat
  if op = 0x80 then entryArrives s r
  else if op = 0x81 then takeHeartbeat s r
  else if op = 0x82 then takeReport s r
  else if op = 0x84 then takeNotice s r
  else if op = 0x85 then takeFenceOrder s r
  else if op = 0x71 then
    echo s r.port (wordAt r.payload 1) (if wordAt r.payload 0 = 0 then none else some (16 * (s.now - wordAt r.payload 1)))
  else if op = 0x72 then treeOffer s r.port (wordAt r.payload 0 % 16)
  else if op = 0x73 then startToken s r.port (wordAt r.payload 0)
  else serve s none r

/-- Frames that the first hop itself takes, whatever their `DEST` (R414, R426). -/
def toFirstHop (s : State) (port : Nat) (f : Frame) : Frame :=
  let edge := match s.bind port with | some b => !b.fabric | none => false
  let op := f.hdr.opcode.toNat
  if edge && !f.hdr.isResp && (op == 0x81 || op == 0x85) then toHere s f op else f

/-- A frame comes in as cells: whole, or with its first cell where more of it is to come. -/
def frameIn (s : State) (port : Nat) (lseq : BitVec 16) (f : Frame) : State :=
  let f := toFirstHop s port f
  let s := if f.hdr.opcode = 0x80 ∧ f.hdr.isResp = false then noteAdmission s { port := .ofNat 9 port, frame := f } else s
  arrive s port (some lseq) f takeHere

/-- A scheduled frame has come in whole; `r` is the request that its first cell made of it (R46, R49). -/
def scheduledIn (s : State) (port : Nat) (r : Req) : State :=
  match memberAt s port r.cycle r.hdr, s.bind port with
  | some (flow, group, member), _ => memberArrives s flow group member port r.cycle (reqFrame r) r.mir
  | none, some b => sortFrame s b r takeHere
  | none, none => s

/-- A frame whose first cell was lost goes on without it, with a poisoned tail: its flow is known by the port and the cycle (R102). -/
def headlessIn (s : State) (port : Nat) (r : Req) : State :=
  match r.flow.bind (KMap.find s.alm.cur.flows) with
  | none => misfit s port r.hdr r.mir
  | some f => f.outPorts.foldl (fun s p => store s p (reqFrame r) (reqOrigin r) 0 r.flow 1) s

/-- The flow whose first cell was expected on a port last before a cycle, at most 17 cells of a lane ago. -/
def flowNear (s : State) (port : Nat) : Option (Nat × Flow) :=
  KMap.first? s.alm.cur.flows (fun _ f => f.inPort == port && f.expected.any (fun e => decide (e ≤ s.time.cycle + 4 ∧ s.time.cycle ≤ e + 300)))

/-- A frame's cells on one stream of a link, with a new cell. -/
def OpenFrame.add (o : OpenFrame) (c : Cell) : OpenFrame := { o with bytes := o.bytes ++ c.content.take (Cell.used c), cells := o.cells + 1 }

/-- A frame that begins with a cell. -/
def OpenFrame.start (c : Cell) (name : Nat) : OpenFrame :=
  { bytes := c.content.take (Cell.used c), cells := 1, firstLseq := c.lseq, name := name, req := none, here := false, known := false, count := 0,
    skip := 0, discard := false, poisoned := false }

/-- The frame in arrival on a stream of a port. -/
def PortSt.openFrame (p : PortSt) (tc0 : Bool) : Option OpenFrame := if tc0 then p.openTc0 else p.openOther

/-- Set the frame in arrival on a stream of a port. -/
def setOpen (s : State) (port : Nat) (tc0 : Bool) (o : Option OpenFrame) : State :=
  s.updPort port (fun p => if tc0 then { p with openTc0 := o } else { p with openOther := o })

/-- Payload bytes of a frame in arrival that its cells have brought so far, unsealed under the counter it is taken to have. -/
def OpenFrame.payload (s : State) (port : Nat) (o : OpenFrame) : List Byte :=
  let body := (o.bytes.drop 64).take (carried (parseHeader (o.bytes.take 64)))
  if sealsPort s port then cipherBytes (linkCipher (s.linkKey port) (linkEnd s port false) o.count) 0 body else body

/-- Whether the header of a frame that has begun to arrive is looked up at once (R119), and the counter it is taken to be sealed under: on a
protected port only where the next counter is known, since the trailer brings it last (log 181). A module that has fenced itself stores
Chronicle entries whole. -/
def lookUp (s : State) (port : Nat) (h : Header) : Option Nat :=
  if s.rst.selfFenced && h.opcode == 0x80 then none
  else if !sealsPort s port then some 0
  else
    let k := s.linkKey port
    let key := b2n (h.cls == 0) * 2 + k.week % 2
    if k.sure.contains key then some (gcmCount k.week (h.cls == 0) (KMap.getD k.rxCtr key 0)) else none

/-! ### More of a frame -/

/-- What a frame in arrival has become. -/
structure Grown where
  payload : List Byte
  more : Nat
  rx : Option Nat
  poisoned : Bool
  pcrc : Option (BitVec 32)

/-- A frame with more of it. Where cells of it have been sent that are not those of the whole frame, it ends poisoned (R121, R396). -/
def frameGrown (f : Frame) (g : Grown) (begun : Bool) : Frame :=
  let same := f.payload == g.payload.take f.payload.length
  { f with payload := if begun && !same then f.payload ++ g.payload.drop f.payload.length else g.payload, more := g.more, rx := g.rx,
           poisoned := g.poisoned || (begun && !same), pcrc := if begun && !same then some 0 else g.pcrc }

/-- A request with more of its frame. -/
def Req.grow (r : Req) (g : Grown) : Req :=
  { r with payload := g.payload, more := g.more, rx := g.rx, poisoned := g.poisoned, pcrc := g.pcrc }

/-- A frame in an output queue grows: the cells that it now fills are stored, or it is pushed out (R115, R130). -/
def growQueued (s : State) (id : Nat) (g : Grown) : State :=
  match KMap.find s.xb.queue id with
  | none => s
  | some q =>
    let f := frameGrown q.frame g q.begun.isSome
    let need := storedCells f - q.cells
    let put (s : State) (n : Nat) : State :=
      s.setXb { s.xb with queue := KMap.put s.xb.queue id { q with frame := f, cells := max q.cells (storedCells f), shared := q.shared + n } }
    if q.copy.isSome || f.hdr.cls == 0 || need == 0 then put s 0
    else
      let die := dieOfPort q.port
      let s := roomFor s die f.hdr.cls.toNat need (cellsOf (frameSize f) - q.cells)
      match sharedShare s die need f with
      | some n => put s n
      | none => if q.begun.isSome then put s 0 else pushOut s id

/-- Everything that is made of a frame in arrival grows with it. -/
def growFrame (s : State) (name : Nat) (g : Grown) : State :=
  let mine (f : Frame) : Bool := f.rx == some name
  let req (r : Req) : Req := if r.rx == some name then r.grow g else r
  let s := s.setXb { s.xb with
    flagged := KMap.mapVals s.xb.flagged (fun f => { f with req := req f.req }),
    waiting := KMap.mapVals s.xb.waiting (fun w => { w with req := req w.req }),
    combine := KMap.mapVals s.xb.combine (fun e => { e with members := e.members.map req }),
    copies := KMap.mapVals s.xb.copies (fun c => if mine c.frame then { c with frame := frameGrown c.frame g false } else c) }
  let s := s.setPorts (KMap.mapVals s.ports (fun p =>
    { p with tc6Sent := KMap.mapVals p.tc6Sent (fun x => if mine x.1 then (frameGrown x.1 g false, x.2) else x) }))
  (s.xb.queue.filter (fun q => mine q.2.frame)).foldl (fun s q => growQueued s q.1 g) s

/-- Whether cells of a frame in arrival have gone on. -/
def hasBegun (s : State) (name : Nat) : Bool := s.xb.queue.any (fun q => q.2.frame.rx == some name && q.2.begun.isSome)

/-- The last cell of a frame whose header was looked up has come, or the frame ends here (R81, R120, R121). One that a port cannot carry because
its cells hold another length than its header tells is malformed: where cells of it have gone on it ends poisoned instead. -/
def frameEnds (s : State) (port : Nat) (o : OpenFrame) (w : Frame) : State :=
  let wrong := w.payload.length != carried w.hdr && !w.poisoned
  let edge := match s.bind port with | some b => !b.fabric | none => false
  let s := if wrong && edge then countMalformed s port else s
  match o.req with
  | some r =>
    if wrong && edge && !w.hdr.isResp && !hasBegun s o.name then
      completeStatus (freeReq (dropArrival s o.name) { r with rx := none }) { r with rx := none } 0x10
    else
      let g : Grown := { payload := w.payload, more := 0, rx := none, poisoned := w.poisoned || wrong, pcrc := w.pcrc }
      let s := growFrame s o.name g
      let r := r.grow g
      if !o.here then s
      else if r.hdr.isResp then passCompletion s r
      else if noCompletionOps.contains r.hdr.opcode.toNat then passPlain s r (intact takeHere)
      else admitHere s r (intact takeHere)
  | none => s

/-- The frame in arrival on a stream ends with what its cells have brought. -/
def endOpen (s : State) (port : Nat) (o : OpenFrame) (tc0 : Bool) (pcrc : BitVec 32) (poisoned : Bool) : State :=
  let s := setOpen s port tc0 none
  if o.discard then s
  else
    let (s, f) := wholeFrame s port o.bytes pcrc (o.poisoned || poisoned)
    if tc0 then
      match o.req with
      | none => s
      | some r =>
        let r := r.grow { payload := f.payload, more := 0, rx := none, poisoned := f.poisoned, pcrc := f.pcrc }
        if o.skip = 0 then scheduledIn s port r else headlessIn s port r
    else if o.known then frameEnds s port o f
    else frameIn s port o.firstLseq f

/-- A scheduled frame begins: its flow is judged by its first cell's cycle (R46); `lost` marks one whose first cell was lost (R102). -/
def scheduledBegins (s : State) (port : Nat) (c : Cell) (lost : Bool) : State :=
  match s.bind port with
  | none => s
  | some b =>
    let (id, s) := s.fresh
    let o := OpenFrame.start c id
    if lost then
      let h := parseHeader (zeros 64)
      let r := newReq s { hdr := h, payload := [], poisoned := true } port none false
      let x := flowNear s port
      let h := match x with | some (_, f) => { h with src := f.src, comp := f.comp, dest := f.dst } | none => h
      setOpen s port true (some { o with bytes := zeros 256 ++ (if c.sof then [] else o.bytes), skip := 1, poisoned := true,
                                         req := some { r with hdr := h, flow := x.map (·.1) } })
    else
      let f := toFirstHop s port { hdr := parseHeader (o.bytes.take 64), payload := [], poisoned := false }
      let r := portReq s b port none f
      setOpen (frameHeard s port r.hdr) port true (some { o with req := some r })

/-- A frame of another class begins with more cells to come: where its header can be looked up at once, it goes its way. -/
def frameBegins (s : State) (port : Nat) (c : Cell) : State :=
  let (id, s) := s.fresh
  let o := OpenFrame.start c id
  let h := parseHeader (o.bytes.take 64)
  match lookUp s port h, s.bind port with
  | some n, some b =>
    let o := { o with known := true, count := n }
    let payload := o.payload s port
    let f := toFirstHop s port { hdr := h, payload := payload, poisoned := false, rx := some id, more := carried h - payload.length }
    let s := setOpen s port false (some { o with req := some (portReq s b port (some c.lseq) f) })
    frameIn s port c.lseq f
  | _, _ => setOpen s port false (some o)

/-- A good cell of a stream joins its frame; the last one completes it. -/
def streamCell (s : State) (port : Nat) (c : Cell) : State :=
  let tc0 := c.cls == 0
  let s := match (s.port port).openFrame tc0 with | some o => if c.sof then endOpen s port o tc0 0 true else s | none => s
  match (s.port port).openFrame tc0 with
  | none =>
    if tc0 then
      let s := scheduledBegins s port c (!c.sof)
      (match (s.port port).openTc0 with | some o => if c.eof then endOpen s port o true c.pcrc c.poison else s | none => s)
    else if !c.sof then s
    else if c.eof then
      let (s, f) := wholeFrame s port (c.content.take (Cell.used c)) c.pcrc c.poison
      frameIn s port c.lseq f
    else frameBegins s port c
  | some o =>
    let o := o.add c
    if c.eof then endOpen s port o tc0 c.pcrc c.poison
    else
      let s := setOpen s port tc0 (some o)
      if tc0 || o.discard || !o.known then s
      else
        let payload := o.payload s port
        growFrame s o.name { payload := payload, more := carried (parseHeader (o.bytes.take 64)) - payload.length, rx := some o.name, poisoned := false, pcrc := none }

/-- A TC0 cell that fails is discarded, and the rest of its frame goes on with a poisoned tail (R102); with the last cell lost the frame ends. -/
def tc0Lost (s : State) (port : Nat) (c : Cell) : State :=
  let s := match (s.port port).openTc0 with
    | some o => if c.sof then endOpen s port o true 0 true else setOpen s port true (some { o with poisoned := true, cells := o.cells + 1 })
    | none => s
  let s := if (s.port port).openTc0.isNone then scheduledBegins s port { c with sof := true } true else s
  match (s.port port).openTc0 with
  | some o => if c.eof then endOpen s port o true 0 true else s
  | none => s

/-- Whether a cell is accepted on a non-TC0 stream (R100). -/
def accepts (p : PortSt) (c : Cell) : Bool := cellGood c && c.lseq == p.rxExpect && (!c.sof || headerGood c)

/-- Acknowledge what has come in order up to a cell (R100). -/
def sendAck (s : State) (port : Nat) (lseq : BitVec 16) : State :=
  sendControl (s.updPort port (fun p => { p with lastAck := s.now })) port 1 lseq.toNat

/-- Refuse a cell: a `NAK` names the `LSEQ` expected, when the cell that is expected fails, or once when another one comes before it; and what
has come is still acknowledged every 512 cycles while cells arrive (R100). -/
def refuseCell (s : State) (port : Nat) (c : Cell) : State :=
  let p := s.port port
  let s := if p.nakSent && c.lseq != p.rxExpect then s
    else sendControl (s.updPort port (fun p => { p with nakSent := true })) port 2 p.rxExpect.toNat
  if s.now ≥ p.lastAck + 512 then sendAck s port (p.rxExpect - 1) else s

/-- Acknowledge after an accepted cell: at the end of a frame, and after 512 cycles (R100, log 41). -/
def ackCell (s : State) (port : Nat) (c : Cell) : State :=
  if c.eof ∨ s.now ≥ (s.port port).lastAck + 512 then sendAck s port c.lseq else s

/-- A cell arrives. -/
def cellIn (s : State) (port : Nat) (c : Cell) : State :=
  if !portLive s port then s
  else
    let s := if cellGood c then s else linkFailure s port
    if c.cls = 0 then
      if cellGood c && (!c.sof || headerGood c) then streamCell s port c else tc0Lost s port c
    else if accepts (s.port port) c then
      let s := s.updPort port (fun p => { p with rxExpect := p.rxExpect + 1, nakSent := false })
      streamCell (ackCell s port c) port c
    else refuseCell s port c

/-! ## Departure (R39, R40, R45, R70, R95, R96, R101, R105, R106, R117, R119, R125, R128, R133) -/

/-- The slot of a cycle on a port: a cell time is 17.408 cycles over the lanes (R39, R118). -/
def slotAt (lanes cycle : Nat) : Nat := cycle * lanes * 1000 / 17408

/-- The flow that the template gives the running slot of a port (R41). -/
def slotFlow (s : State) (port lanes : Nat) : Option Nat :=
  let n := slotAt lanes s.time.cycle
  match s.xb.template.bind (KMap.find s.alm.cur.templates) with
  | none => none
  | some t => ((KMap.getD t.runs port []).find? (fun r => decide (r.1 ≤ n ∧ n < r.1 + r.2.1))).map (fun r => r.2.2)

/-- The frames of a port's queues that may begin to leave now, oldest first: a frame that is still arriving only where it is cut through
(R119). -/
def readyFrames (s : State) (port : Nat) : KMap QFrame :=
  s.xb.queue.filter (fun q => q.2.port == port && decide (q.2.notBefore ≤ s.now) && q.2.begun.isNone && (q.2.frame.rx.isNone || q.2.cut))

/-- Whether a queued frame is one of a scheduled flow: as it was found on arrival, or for a frame of the module's own by its composition and
source. -/
def ofFlow (q : QFrame) (id : Nat) (f : Flow) : Bool :=
  q.frame.hdr.cls == 0 && (match q.flow with | some n => n == id | none => q.frame.hdr.comp == f.comp && q.frame.hdr.src == f.src)

/-- The scheduled frame of the running slot, if one is ready and the link's delay has been measured (R32, R43). -/
def scheduledFrame (s : State) (port lanes : Nat) : Option (Nat × QFrame) :=
  match slotFlow s port lanes with
  | none => none
  | some id =>
    match KMap.find s.alm.cur.flows id with
    | none => none
    | some f => if (s.port port).delayValid then (readyFrames s port).find? (fun q => ofFlow q.2 id f) else none

/-- Cells that a class may still send: the partner's initial count and its freed count less the cells sent, modulo 2^24 (R105). -/
def creditLeft (p : PortSt) (cls : Nat) : Nat :=
  (BitVec.ofNat 24 (p.credInit.getD (cls - 1) 0) + KMap.getD p.credFreed cls 0 - KMap.getD p.credSent cls 0).toNat

/-- The cells that a queued frame takes on its port. -/
def txCells (s : State) (port : Nat) (q : QFrame) : Nat := linkCells s port (frameSize q.frame)

/-- The oldest frame of a class, if its cells have credits and room in the retransmission buffer. -/
def headOf (s : State) (port cls : Nat) : Option (Nat × QFrame) :=
  match (readyFrames s port).find? (fun q => q.2.frame.hdr.cls.toNat == cls) with
  | none => none
  | some q =>
    let n := txCells s port q.2
    let p := s.port port
    if n ≤ creditLeft p cls ∧ p.unacked.length + n ≤ 4096 then some q else none

/-- Deficit round robin of TC2 to TC6: the class served, and the deficits after. In each round every class with a frame gets its quantum,
and the classes are served in their order (R117). -/
def drr (s : State) (port : Nat) (fuel : Nat) (d : List Nat) : Option (Nat × QFrame) × List Nat :=
  let heads := (List.range 5).map (fun i => headOf s port (i + 2))
  let d := d.zipIdx.map (fun x => if (readyFrames s port).any (fun q => q.2.frame.hdr.cls.toNat == x.2 + 2) then x.1 else 0)
  match (List.range 5).findSome? (fun i => match heads.getD i none with
      | some q => if txCells s port q.2 ≤ d.getD i 0 then some (i, q) else none
      | none => none) with
  | some (i, q) => (some q, d.set i (d.getD i 0 - txCells s port q.2))
  | none =>
    match fuel with
    | 0 => (none, d)
    | n + 1 =>
      if heads.all (fun h => h.isNone) then (none, d)
      else drr s port n (d.zipIdx.map (fun x => if (heads.getD x.2 none).isSome then x.1 + 17 * s.alm.cur.settings.weights.getD x.2 0 else x.1))

/-- The frame other than TC0 that a port begins next, with the deficits after: TC1, then TC2 to TC6, then TC7 when those are empty (R117). -/
def nextFrame (s : State) (port : Nat) : Option (Nat × QFrame) × List Nat :=
  let d := (s.port port).deficit
  match headOf s port 1 with
  | some q => (some q, d)
  | none =>
    match drr s port 2 d with
    | (some q, d) => (some q, d)
    | (none, d) =>
      let waits := s.xb.queue.any (fun q => q.2.port == port && decide (1 ≤ q.2.frame.hdr.cls.toNat ∧ q.2.frame.hdr.cls.toNat ≤ 6))
      (if waits then none else headOf s port 7, d)

/-- The header that a port sends a frame with: an edge port writes `DEST` from its binding (R128). -/
def wireHeader (s : State) (port : Nat) (h : Header) : Header :=
  match s.bind port with | some b => if b.fabric then h else { h with dest := b.ep } | none => h

/-- The `PCRC` of a frame: the one it came with, else that of its payload (R97). -/
def framePcrc (f : Frame) : BitVec 32 := f.pcrc.getD (payloadCrc f.payload)

/-- The bytes of a frame that can be sent so far: its header and payload, sealed on a protected port, and with the last of it the trailer. -/
def wireBytes (s : State) (port : Nat) (f : Frame) (count : Nat) : List Byte :=
  let h := headerBytes (wireHeader s port f.hdr)
  if !sealsPort s port then h ++ f.payload
  else
    let c := linkCipher (s.linkKey port) (linkEnd s port true) count
    h ++ cipherBytes c 0 f.payload ++ (if f.rx.isNone then gcmTrailer c h f.payload (framePcrc f).toNat else [])

/-- A cell with its CRC (R95). -/
def Cell.sealed (c : Cell) : Cell := { c with ccrc := crc32c (padTo 256 c.content ++ Cell.head c) }

/-- The next cell of a frame that a port sends: none where its bytes have not come yet. A frame that ends with no byte left carries one zero
byte in its last cell (log 182). -/
def nextCell (s : State) (port : Nat) (q : QFrame) (t : TxSt) : Option Cell :=
  let f := q.frame
  let bytes := wireBytes s port f t.count
  let k := q.skip + t.sent
  let rest := bytes.drop (256 * k)
  let last := f.rx.isNone && decide (rest.length ≤ 256)
  if !f.rx.isNone && decide (rest.length < 256 ∨ (rest.length = 256 ∧ f.more = 0)) then none
  else
    let part := if rest.isEmpty then [0] else rest.take 256
    some (Cell.sealed { sof := k == 0, eof := last, cls := f.hdr.cls, bytes := .ofNat 9 (if part.length = 256 then 0 else part.length),
                        lseq := if f.hdr.cls = 0 then 0 else (s.port port).txSeq, poison := last && f.poisoned,
                        pcrc := if last && !sealsPort s port then framePcrc f else 0, ccrc := 0, content := part })

/-- A cell goes on the wire in the running slot. -/
def putWire (s : State) (port slot : Nat) (c : Cell) : State :=
  s.updPort port (fun p => { p with wire := p.wire ++ [(s.now, c)], slotUsed := some slot })

/-- The last cell of a frame has been sent: it leaves its queue, its ingress cells are free, and the link keeps what it may have to send
again. -/
def frameSent (s : State) (port id : Nat) (q : QFrame) (t : TxSt) : State :=
  let f := q.frame
  let s := s.setXb { s.xb with queue := KMap.del s.xb.queue id }
  let s := if q.copy.isNone then freeCredit s q.inPort f.hdr.cls (frameSize f) else s
  let s := mirror s f.hdr (queueOrigin q) (if f.poisoned then 3 else 1) port q.qdepth
  if f.hdr.cls = 0 then releaseShare (s.updPort port (fun p => { p with txTc0 := none })) q.copy port
  else
    s.updPort port (fun p =>
      { p with txOther := none, sent := p.sent ++ [{ frame := f, last := t.first + .ofNat 16 t.sent, inPort := q.inPort, copy := q.copy }] })

/-- Send the next cell of a frame that has begun, if it is here; else the wait for it begins (R125). -/
def sendCell (s : State) (port slot id : Nat) : State :=
  match KMap.find s.xb.queue id with
  | none => s
  | some q =>
    match q.begun with
    | none => s
    | some t =>
      let set (s : State) (t : TxSt) : State := s.setXb { s.xb with queue := KMap.put s.xb.queue id { q with begun := some t } }
      match nextCell s port q t with
      | none => if t.stall.isSome then s else set s { t with stall := some s.now }
      | some c =>
        let s := putWire s port slot c
        let s := if c.cls = 0 then s
          else s.updPort port (fun p =>
            { p with txSeq := p.txSeq + 1, unacked := p.unacked ++ [{ cell := c, resent := 0 }], ackHeard := if p.unacked.isEmpty then s.now else p.ackHeard,
                     credSent := KMap.upd p.credSent c.cls.toNat 0 (fun n => n + 1) })
        if c.eof then frameSent s port id q t else set s { t with sent := t.sent + 1, stall := none }

/-- A port begins a frame: its counter is taken, a completion of the module's own is stamped (R70), a bulk frame is released to the hop it
came from (R106). -/
def beginFrame (s : State) (port id : Nat) (q : QFrame) : State :=
  let f := q.frame
  let tc0 := f.hdr.cls == 0
  let f := if q.inPort = ownPort ∧ f.hdr.isResp = true then { f with hdr := { f.hdr with tstamp := s.stamp } } else f
  let k := s.linkKey port
  let key := b2n tc0 * 2 + k.week % 2
  let ctr := KMap.getD k.txCtr key 0
  let s := if sealsPort s port then updLinkKey s port (fun k => { k with txCtr := KMap.put k.txCtr key (ctr + 1) }) else s
  let first := (s.port port).txSeq
  let t : TxSt := { first := first, sent := 0, count := gcmCount k.week tc0 ctr, stall := none }
  let s := s.setXb { s.xb with queue := KMap.put s.xb.queue id { q with frame := f, begun := some t } }
  let s := if f.hdr.cls = 6 ∧ q.inPort < 512 then (match q.inLseq with | some l => sendControl s q.inPort 4 l.toNat | none => s) else s
  s.updPort port (fun p =>
    { p with txTc0 := if tc0 then some id else p.txTc0, txOther := if tc0 then p.txOther else some id,
             tc6Sent := if f.hdr.cls = 6 then KMap.put p.tc6Sent first.toNat (f, s.now) else p.tc6Sent })

/-- Send a cell again, if one is to be (R101). -/
def resendCell (s : State) (port slot : Nat) : Option State :=
  let p := s.port port
  match p.resendQ with
  | [] => none
  | l :: rest =>
    match p.unacked.find? (fun c => c.cell.lseq == l) with
    | none => some (s.updPort port (fun p => { p with resendQ := rest }))
    | some c =>
      some ((putWire s port slot c.cell).updPort port (fun p =>
        { p with resendQ := rest, unacked := p.unacked.map (fun x => if x.cell.lseq == l then { x with resent := x.resent + 1 } else x) }))

/-- Send one cell in the running slot of a port, if none has been sent in it: of the scheduled frame whose slot it is; else a cell to be sent
again, or the next of the other frame that has begun. Nothing is sent in the Day guard (R40, R45, R96). -/
def pumpPort (s : State) (port : Nat) : State :=
  match s.bind port with
  | none => s
  | some b =>
    let n := slotAt b.lanes s.time.cycle
    let slot := s.day * 4096 + n
    if !portLive s port || decide (n ≥ usableSlots b.lanes) || (s.port port).slotUsed == some slot then s
    else
      let s := match (s.port port).txTc0 with
        | some _ => s
        | none => match scheduledFrame s port b.lanes with | some (id, q) => beginFrame s port id q | none => s
      let mine (id : Nat) : Bool := match KMap.find s.xb.queue id, slotFlow s port b.lanes with
        | some q, some x => (match KMap.find s.alm.cur.flows x with | some f => ofFlow q x f | none => false)
        | _, _ => false
      match (s.port port).txTc0.filter mine with
      | some id => sendCell s port slot id
      | none => match resendCell s port slot with
        | some s => s
        | none => match (s.port port).txOther with | some id => sendCell s port slot id | none => s

/-- Whether a port has cells to send in a cycle without a command. -/
def sending (s : State) (port : Nat) : Bool :=
  let p := s.port port
  p.txTc0.isSome || p.txOther.isSome || !p.resendQ.isEmpty || s.xb.queue.any (fun q => q.2.port == port && q.2.frame.hdr.cls == 0)

/-- Every port sends what its slot of this cycle takes. -/
def pumpAll (s : State) : State := (s.alm.cur.ports.filter (fun p => sending s p.1)).foldl (fun s p => pumpPort s p.1) s

/-- A port begins the frame that its schedulers choose; in no guard slot, and not before the other frame it sends has ended (R40, R96). -/
def depart (s : State) (port : Nat) : State :=
  match s.bind port with
  | none => s
  | some b =>
    if !portLive s port then s
    else if slotAt b.lanes s.time.cycle ≥ usableSlots b.lanes ∨ (s.port port).txOther.isSome = true then pumpPort s port
    else
      let (q, d) := nextFrame s port
      let s := s.updPort port (fun p => { p with deficit := d })
      match q with
      | none => pumpPort s port
      | some (id, q) => pumpPort (beginFrame s port id q) port

/-- A frame that is cut through to a port has stalled for 2,048 cycles: it ends there with a poisoned tail, and its later cells are
discarded (R125). -/
def stallLimit (s : State) (out : Nat) : State :=
  match (s.port out).txOther with
  | none => s
  | some id =>
    match KMap.find s.xb.queue id with
    | none => s
    | some q =>
      match q.begun.bind (fun t => t.stall) with
      | none => s
      | some since =>
        if s.now < since + 2048 then s
        else
          let f := { q.frame with rx := none, more := 0, poisoned := true }
          let gone := linkCells s q.inPort (frameSize q.frame) - linkCells s q.inPort (frameSize f)
          let s := freeCells (discardRest s q.frame.rx) q.inPort f.hdr.cls gone
          let s := s.setXb { s.xb with queue := KMap.put s.xb.queue id { q with frame := f } }
          pumpPort (s.updPort out (fun p => { p with tailPoison := satAdd 64 p.tailPoison 1 })) out

/-! ## Control words (R98, R101, R105, R106) -/

/-- The place of a cell among those not acknowledged. -/
def cellAt (p : PortSt) (lseq : BitVec 16) : Option Nat := p.unacked.findIdx? (fun c => c.cell.lseq == lseq)

/-- An `ACK` covers every cell up to its own: they are freed, and the shares of the copies they complete (R101, R127). -/
def ackCells (s : State) (port : Nat) (lseq : BitVec 16) : State :=
  let p := s.port port
  match cellAt p lseq with
  | none => s
  | some i =>
    let left := p.unacked.drop (i + 1)
    let waits (l : BitVec 16) : Bool := left.any (fun c => c.cell.lseq == l)
    let done := p.sent.filter (fun x => !waits x.last)
    let s := s.updPort port (fun p => { p with unacked := left, sent := p.sent.filter (fun x => waits x.last), resendQ := p.resendQ.filter waits,
                                               ackHeard := s.now })
    done.foldl (fun s x => releaseShare s x.copy port) s

/-- Cells are to be sent again, in order, from a place on (R101). -/
def resendFrom (s : State) (port i : Nat) : State :=
  s.updPort port (fun p => { p with resendQ := (p.unacked.drop i).map (fun c => c.cell.lseq), ackHeard := s.now })

/-- A bulk frame is wanted again: it is queued once more (R106). -/
def resendBulk (s : State) (port : Nat) (lseq : Nat) : State :=
  match KMap.find (s.port port).tc6Sent lseq with
  | none => s
  | some (f, _) => enqueue (s.updPort port (fun p => { p with tc6Sent := KMap.del p.tc6Sent lseq })) port f 0

/-- A `RESEND` is repeated after 2,048 cycles (R106). -/
def repeatResend (s : State) (port : Nat) (lseq : BitVec 16) : State :=
  match KMap.find (s.port port).tc6Wait lseq.toNat with
  | none => s
  | some w =>
    if s.now < w.time + 2048 then s
    else sendControl (s.updPort port (fun p => { p with tc6Wait := KMap.put p.tc6Wait lseq.toNat { w with time := s.now } })) port 5 lseq.toNat

/-- A bulk frame held for a Week is freed (R106). -/
def holdEnds (s : State) (port : Nat) (lseq : BitVec 16) : State :=
  match KMap.find (s.port port).tc6Sent lseq.toNat with
  | none => s
  | some (_, t) => if s.now < t + 4096 * 4096 then s else s.updPort port (fun p => { p with tc6Sent := KMap.del p.tc6Sent lseq.toNat })

/-! ## Link up (R31, R90, R91, R104, R105, R393) -/

/-- Whether a port may carry frames: a protected one has been keyed (R71, R393), and no fence or failed crossing keeps it down (R32, R434). -/
def mayComeUp (s : State) (port : Nat) : Bool :=
  (!sealsPort s port || (KMap.find s.kp.linkKeys port).isSome) && !s.health.portsDown.contains (s.self.toNat * 65536 + port)
    && !s.eqx.stuck.contains port && !(s.eqx.phase != 0 && s.eqx.heldDown.contains port)

/-- A fabric link is back: the module tells its place in the tree there, and may take its parent again (R31, R34). -/
def linkBack (s : State) (port : Nat) (b : PortBind) : State :=
  if b.fabric && (s.port port).up then
    let s := if placed s then sendEqx s port 0x72 (offerFor s port) 0 else s
    parentBack s port
  else s

/-- A fabric link comes up while the phases run: its delay is still to be measured, and its far end is told what it has missed (R31). -/
def linkJoins (s : State) (port : Nat) : State :=
  let s := if placed s && decide (s.eqx.phase ≥ 2) then sendEqx s port 0x72 (offerFor s port) 0 else s
  if s.eqx.phase = 3 then sendEqx s port 0x71 0 s.now else s

/-- A port comes up: its link layer starts afresh with the credits that the partner advertises, its lanes hold lock with the polarity that
training found and the positions that their markers give, and its delay is taken. -/
def bringUp (s : State) (port delay : Nat) (t : Training) : State :=
  match s.bind port with
  | none => s
  | some b =>
    if (s.port port).up || !s.running || !mayComeUp s port then s
    else
      let s := s.updPort port (fun p =>
        { p with up := true, retraining := false, treeExcl := t.asymmetric, txSeq := 0, rxExpect := 0, unacked := [], sent := [], resendQ := [], slotUsed := none,
                 txTc0 := none, txOther := none, nakSent := false, lastCtrl := s.now, lastAck := s.now, ackHeard := s.now, credInit := t.credits.map (·.toNat),
                 advertised := b.credits, credFreed := [], credSent := [], rxFreed := [], withheld := [], tc6Sent := [], tc6Wait := [], openTc0 := none,
                 openOther := none, laneOrder := t.order, deficit := [0, 0, 0, 0, 0], health := PortHealth.init })
      let s := if sealsPort s port then updLinkKey s port (fun k => { k with sure := [] }) else s
      let s := (portLanes port b.lanes ++ b.spares.map (·.1)).foldl (fun s l =>
        let (x, s) := s.free
        s.setLanes (KMap.put s.lanes l { s.lane l with lock := true, polInv := x % 2 == 1 })) s
      if b.fabric && decide (1 ≤ s.eqx.phase ∧ s.eqx.phase ≤ 3) then linkJoins (s.updPort port (fun p => { p with delayValid := false })) port
      else linkBack (setDelay s port delay) port b

/-! ## Lane sparing (R9, R91, R107 to R112) -/

/-- The logical port that a lane carries: its own, or that of the lane it serves. -/
def laneOwner (s : State) (lane : Nat) : Option (Nat × PortBind) :=
  let x := s.lane lane
  let l := if x.role = 2 then x.serves.toNat else lane
  KMap.first? s.alm.cur.ports (fun p b => (portLanes p b.lanes).contains l)

/-- Whether a spare is free to serve for a lane: idle, on its chiplet, and asked for nowhere (R9, R107). -/
def spareFree (s : State) (lane spare : Nat) : Bool :=
  (s.lane spare).role == 1 && spare / 68 == lane / 68 && !(s.lanes.any (fun x => x.2.toSpare == some spare))

/-- A free spare that is bound to a lane's port. -/
def freeSpare (s : State) (b : PortBind) (lane : Nat) : Option Nat := (b.spares.find? (fun x => spareFree s lane x.1)).map (·.1)

/-- The spare of this module that meets one of the partner's, where it is free for a lane (R107). -/
def pairedSpare (s : State) (b : PortBind) (lane partner : Nat) : Option Nat :=
  (b.spares.find? (fun x => x.2 == partner && spareFree s lane x.1)).map (·.1)

/-- Change a lane. -/
def updLane (s : State) (lane : Nat) (f : LaneSt → LaneSt) : State := s.setLanes (KMap.put s.lanes lane (f (s.lane lane)))

/-- No spare is free: the port goes down with reason 3, and its link's penalty is the worst (R112, R415). -/
def noSpare (s : State) (port : Nat) : State :=
  linkLoss (s.updPort port (fun p => { p with health := { p.health with worstToday := 255 } })) port (some 3)

/-- A lane's stream moves to its spare: the lane is retired, the spare serves the lane's place (R110 to R112). -/
def switchLane (s : State) (lane : Nat) : State :=
  match (s.lane lane).toSpare with
  | none => s
  | some sp =>
    let x := s.lane lane
    let place : BitVec 10 := if x.role = 2 then x.serves else .ofNat 10 lane
    let s := updLane s lane (fun x => { x with role := 3, spared := true, toSpare := none, switchDay := none, listening := false, serves := 0 })
    updLane s sp (fun x => { x with role := 2, serves := place, listening := false })

/-- The codewords that made a lane fail are counted in its registers: how many the manual leaves open (R109, R112, log 57). -/
def laneErrors (s : State) (lane : Nat) : State :=
  let (x, s) := s.free
  let (y, s) := s.free
  updLane s lane (fun l => { l with uncorr := satAdd 16 l.uncorr x, corrSym := satAdd 24 l.corrSym y })

/-- The receiver finds a lane failing: it asks its partner for a spare; for a hard trigger it listens there from now on. -/
def laneFails (s : State) (lane : Nat) (hard : Bool) : State :=
  match laneOwner s lane with
  | none => s
  | some (port, b) =>
    if !portLive s port || (s.lane lane).role == 3 || (s.lane lane).role == 1 then s
    else
      let s := laneErrors s lane
      match (s.lane lane).toSpare with
      | some sp =>
        if !hard || (s.lane sp).listening then s
        else sendControl (updLane s sp (fun x => { x with listening := true })) port 7 (lane * 2 ^ 11 + sp * 2 + 1)
      | none =>
        match freeSpare s b lane with
        | none => noSpare s port
        | some sp =>
          let s := updLane s lane (fun x => { x with toSpare := some sp, lock := x.lock && !hard })
          let s := if hard then updLane s sp (fun x => { x with listening := true }) else s
          sendControl s port 7 (lane * 2 ^ 11 + sp * 2 + b2n hard)

/-- The place in its port of a lane that a failing lane of the partner meets: the one whose marker gives the failing lane's place (R91,
log 42). -/
def placeOf (p : PortSt) (place : Nat) : Nat := (p.laneOrder.findIdx? (· == place)).getD place

/-- The sender's lane for a failing lane in the receiver's numbering: the one that meets it, or the spare that serves in its place; for a
failing spare the one that is paired with it. -/
def ownLane (s : State) (port : Nat) (b : PortBind) (failing : Nat) : Option Nat :=
  if failing % 68 ≥ 64 then (b.spares.find? (fun x => x.2 == failing && (s.lane x.1).role == 2)).map (·.1)
  else
    let l := port / 64 * 68 + port % 64 + placeOf (s.port port) (failing % 68 % max b.lanes 1)
    if (s.lane l).role = 3 then (s.lanes.find? (fun x => x.2.role == 2 && x.2.serves == .ofNat 10 l)).map (·.1) else some l

/-- The first Day whose guard begins at least 1,024 cycles from now (R110). -/
def switchDayOf (s : State) (lanes : Nat) : Nat := if s.time.cycle + 1024 ≤ guardStart lanes then s.day else s.day + 1

/-- The partner asks for a spare: at once for a hard trigger, in a named guard for a soft one. -/
def spareAsked (s : State) (port failing spare : Nat) (hard : Bool) : State :=
  match s.bind port with
  | none => s
  | some b =>
    match ownLane s port b failing with
    | none => noSpare s port
    | some l =>
      match (match (s.lane l).toSpare with | some sp => some sp | none => pairedSpare s b l spare) with
      | none => noSpare s port
      | some sp =>
        let d := switchDayOf s b.lanes
        let s := updLane s l (fun x => { x with toSpare := some sp, switchDay := if hard then none else some d })
        let s := if hard then switchLane s l else s
        sendControl s port 8 (failing * 2 ^ 31 + spare * 2 ^ 21 + b2n hard * 2 ^ 20 + (if hard then 0 else d % 2 ^ 20))

/-- A Day from its lower 20 bits: the next one that has them. -/
def fullDay (day lo : Nat) : Nat := day + (lo + 2 ^ 20 - day % 2 ^ 20) % 2 ^ 20

/-- The partner answers: the stream moves at the next codeword, or in the guard of a named Day. -/
def spareGranted (s : State) (failing : Nat) (at' : Option (BitVec 20)) : State :=
  match at' with
  | none => switchLane s failing
  | some d => if (s.lane failing).toSpare.isSome then updLane s failing (fun x => { x with switchDay := some (fullDay s.day d.toNat) }) else s

/-- The guard of the named Day has come. -/
def switchInGuard (s : State) (lane : Nat) : State :=
  match (s.lane lane).switchDay, laneOwner s lane with
  | some d, some (_, b) => if s.day > d ∨ (s.day = d ∧ s.time.cycle ≥ guardStart b.lanes) then switchLane s lane else s
  | _, _ => s

/-! ## Control words in arrival (R98) -/

/-- The contents of the control words, as this module sends them (log 42). -/
def creditWord (cls : BitVec 3) (freed : BitVec 24) : Nat := cls.toNat * 2 ^ 24 + freed.toNat

/-- The content of a `SPARE_REQ`. -/
def askWord (failing spare : BitVec 10) (hard : Bool) : Nat := failing.toNat * 2 ^ 11 + spare.toNat * 2 + b2n hard

/-- The content of a `SPARE_ACK`: with no Day the stream moves at the next codeword. -/
def grantWord (failing spare : BitVec 10) (day : Option (BitVec 20)) : Nat :=
  failing.toNat * 2 ^ 31 + spare.toNat * 2 ^ 21 + (match day with | none => 2 ^ 20 | some d => d.toNat)

/-- What a control word of a type does. A marker's Day and lateness come with its own command. -/
def onWord (s : State) (port type content : Nat) : State :=
  match type with
  | 1 => ackCells s port (.ofNat 16 content)
  | 2 => (match cellAt (s.port port) (.ofNat 16 content) with | some i => resendFrom s port i | none => s)
  | 3 => s.updPort port (fun p => { p with credFreed := KMap.put p.credFreed (content / 2 ^ 24 % 8) (.ofNat 24 content) })
  | 4 => s.updPort port (fun p => { p with tc6Sent := KMap.del p.tc6Sent (content % 2 ^ 16) })
  | 5 => resendBulk s port (content % 2 ^ 16)
  | 7 => spareAsked s port (content / 2 ^ 11 % 1024) (content / 2 % 1024) (content % 2 == 1)
  | 8 => spareGranted s (content / 2 ^ 31 % 1024) (if content / 2 ^ 20 % 2 = 1 then none else some (.ofNat 20 content))
  | 9 => linkLoss s port none
  | _ => s

/-- A control word arrives on a port that is up: one whose CRC fails is discarded (R98, R103). -/
def controlIn (s : State) (port : Nat) (w : BitVec 128) : State :=
  match wordOf w with
  | none => s
  | some (type, content) =>
    if portLive s port then settle (onWord (s.updPort port (fun p => { p with lastCtrl := s.now })) port type content) else s

/-! ## The commands -/

/-- `CELL_RECEIVE` (R100). -/
def execCellReceive (port : PortNo) (cell : Cell) (s : State) : Out := commit s (finish (cellIn s port.toNat cell))

/-- `FRAME_DEPART` (R117). -/
def execFrameDepart (port : PortNo) (s : State) : Out := commit s (settle (depart s port.toNat))

/-- `ACK` (R101). -/
def execAck (port : PortNo) (lseq : BitVec 16) (s : State) : Out := commit s (controlIn s port.toNat (controlWord 1 lseq.toNat))

/-- `NAK` (R101): the cells from the named one on are sent again. -/
def execNak (port : PortNo) (lseq : BitVec 16) (s : State) : Out := commit s (controlIn s port.toNat (controlWord 2 lseq.toNat))

/-- `CREDIT` (R105). -/
def execCredit (port : PortNo) (cls : BitVec 3) (freed : BitVec 24) (s : State) : Out :=
  commit s (controlIn s port.toNat (controlWord 3 (creditWord cls freed)))

/-- `RELEASE` (R106). -/
def execRelease (port : PortNo) (lseq : BitVec 16) (s : State) : Out := commit s (controlIn s port.toNat (controlWord 4 lseq.toNat))

/-- `RESEND` (R106). -/
def execResend (port : PortNo) (lseq : BitVec 16) (s : State) : Out := commit s (controlIn s port.toNat (controlWord 5 lseq.toNat))

/-- `RETX_TIMEOUT` (R101): 2,048 cycles without an `ACK`, with cells outstanding. -/
def execRetxTimeout (port : PortNo) (s : State) : Out :=
  let p := s.port port.toNat
  commit s (if portLive s port.toNat && !p.unacked.isEmpty && decide (s.now ≥ p.ackHeard + 2048) then resendFrom s port.toNat 0 else s)

/-- `RETX_LIMIT` (R103): one cell has been sent again 16 times without an `ACK`. -/
def execRetxLimit (port : PortNo) (s : State) : Out :=
  commit s (if s.running && (s.port port.toNat).unacked.any (fun c => decide (c.resent ≥ 16)) then settle (linkLoss s port.toNat (some 1)) else s)

/-- `LINK_SILENCE_TIMEOUT` (R103): no control word for 4 Days. -/
def execLinkSilenceTimeout (port : PortNo) (s : State) : Out :=
  commit s (if s.running && decide (s.now ≥ (s.port port.toNat).lastCtrl + 4 * 4096) then settle (linkLoss s port.toNat (some 2)) else s)

/-- `LINK_DOWN` (R103): whatever its reason, the link is not used any more. -/
def execLinkDown (port : PortNo) (reason : BitVec 4) (s : State) : Out := commit s (controlIn s port.toNat (controlWord 9 reason.toNat))

/-- `LINK_UP` (R90, R91, R105). -/
def execLinkUp (port : PortNo) (delay : BitVec 16) (training : Training) (s : State) : Out :=
  commit s (settle (bringUp s port.toNat delay.toNat training))

/-- `RESEND_REPEAT` (R106). -/
def execResendRepeat (port : PortNo) (lseq : BitVec 16) (s : State) : Out := whileRunning s (fun s => repeatResend s port.toNat lseq)

/-- `TC6_HOLD_EXPIRY` (R106). -/
def execTc6HoldExpiry (port : PortNo) (lseq : BitVec 16) (s : State) : Out := whileRunning s (fun s => holdEnds s port.toNat lseq)

/-- `CUT_THROUGH_STALL_LIMIT` (R125), named by its egress port. -/
def execCutThroughStallLimit (port : PortNo) (s : State) : Out := commit s (if s.running then finish (stallLimit s port.toNat) else s)

/-- `LANE_HARD_TRIGGER` (R111). -/
def execLaneHardTrigger (lane : BitVec 10) (s : State) : Out := whileRunning s (fun s => laneFails s lane.toNat true)

/-- `LANE_SOFT_TRIGGER` (R109, R110). -/
def execLaneSoftTrigger (lane : BitVec 10) (s : State) : Out := whileRunning s (fun s => laneFails s lane.toNat false)

/-- `SPARE_REQ` (R110, R111). -/
def execSpareReq (port : PortNo) (failing spare : BitVec 10) (hard : Bool) (s : State) : Out :=
  commit s (controlIn s port.toNat (controlWord 7 (askWord failing spare hard)))

/-- `SPARE_ACK` (R110, R111). -/
def execSpareAck (port : PortNo) (failing spare : BitVec 10) (switchDay : Option (BitVec 20)) (s : State) : Out :=
  commit s (controlIn s port.toNat (controlWord 8 (grantWord failing spare switchDay)))

/-- `SPARE_SWITCH_GUARD` (R110). -/
def execSpareSwitchGuard (lane : BitVec 10) (s : State) : Out := whileRunning s (fun s => switchInGuard s lane.toNat)

end Sys2Proof.Machine
end

