-- ==== Sys2Proof/Machine/Keeper.lean ====
section
/-! DEFINITION. The Keeper: signing with its reservation, tokens and trees, attestation, firmware, the owner root, the next identity,
entropy and the mailbox (R378 to R389, R408, R480). -/

namespace Sys2Proof.Machine

/-! ## Draws (R378) -/

/-- A draw of the DRBG. -/
def draw (s : State) : BitVec 512 × Nat × State := (Config.drbg s.kp.drbg, s.kp.drbg, s.setKp { s.kp with drbg := s.kp.drbg + 1 })

/-- A nonce of 32 bytes from a draw. -/
def nonceOf (d : BitVec 512) : List Byte := beBytes 32 (d.toNat % 2 ^ 256)

/-- Whether the Keeper may attest or shake hands: its identity was recovered and is not exhausted (R379, R385). -/
def mayIdentify (k : KeeperSt) : Bool := k.idOk && !k.idFail && !k.exhausted

/-! ## Indices (R382 to R385) -/

/-- Whether a signature can be made now: the tree cache passed, a token is there and the index's tree is built; the last indices serve a
handover only. -/
def maySign (k : KeeperSt) (use : SignUse) : Bool :=
  let k := enterTree k
  let reserve := match use with | .handover _ => true | _ => false
  k.topCacheOk && k.idOk && decide (k.tokens > 0) && decide (k.qNext < 32768) && (reserve || !onlyReserve k)

/-- Take the next index: the reservation is extended first where needed, a token is taken, and a tree that nears its end has its
successor built. -/
def takeIndex (k : KeeperSt) : KeeperSt :=
  let k := enterTree k
  let k := if k.qNext < k.qRes then k else { k with qRes := k.qNext + 64 }
  let k := { k with qNext := k.qNext + 1, tokens := k.tokens - 1 }
  { k with building := k.building || decide (k.qNext ≥ 24576 ∧ k.tree < 32767 ∧ k.nextReady = false), exhausted := onlyReserve k }

/-! ## What is signed -/

/-- The bytes of the running image. -/
def imageBytes (k : KeeperSt) : List Byte := (KMap.find k.fwSlots (b2n k.activeSlot)).getD Config.factoryImage

/-- `KP_SLOT` words with their watermarks zero. -/
def slotWords (k : KeeperSt) : List Nat :=
  (List.range 1024).map (fun i =>
    let x := KMap.getD k.slots i KeySlot.init
    x.state.toNat * 2 ^ 62 + x.gen.toNat * 2 ^ 56 + x.comp.toNat * 2 ^ 44)

/-- The attestation report (R408). -/
def attestReport (s : State) (nonce : BitVec 256) : List Byte :=
  let k := s.kp
  let image := imageBytes k
  let almanac := KMap.getD s.alm.banks (b2n s.alm.curBank) []
  beBytes 4 1 ++ beBytes 4 k.identity.toNat ++ beBytes 32 nonce.toNat ++ beBytes 8 s.now ++ beBytes 8 ((capUnits s.variant).toNat) ++ beBytes 8 ((capMem s.variant).toNat)
    ++ beBytes 8 Config.serial.toNat ++ sha256 image ++ beBytes 4 ((Config.imageSvn image).toNat * 65536 + k.svnFw.toNat) ++ sha256 almanac
    ++ beBytes 8 s.alm.seq ++ beBytes 32 ((k.ownerRoot.getD 0).toNat) ++ beBytes 8 (signaturesLeft k) ++ sha256 (wordsBytes (slotWords k))
    ++ beBytes 8 (kpStatusBits s / 2 ^ 52 * 2 ^ 52) ++ zeros 28

/-- Send a message of a handshake that has no session yet. -/
def sendRaw (s : State) (code : Nat) (status : Nat) (body key : List Byte) : State :=
  let a : Answer := { m := { session := 0, seq := 0 }, code := .ofNat 16 code, status := .ofNat 8 status, reason := 0, body := body, key := key }
  s.setFn { s.fn with out := s.fn.out ++ [a] }

/-- The device secret's bytes (R379). -/
def deviceBytes : List Byte := beBytes 32 Config.deviceSecret.toNat

/-- A signature of a message under an index, from the seeds that R380 derives. -/
def signWith (k : KeeperSt) (msg : List Byte) : List Byte :=
  let i := enterTree k
  Config.hssSign (topSeed deviceBytes k.identity) (bottomSeed deviceBytes k.identity i.tree) i.tree i.qNext msg

/-- Finish what a signature was for (R386, R391, R393, R408); `k` is the Keeper before the index was taken. -/
def finishUse (s : State) (k : KeeperSt) (use : SignUse) : State :=
  match use with
  | .attest m nonce =>
    let r := attestReport s nonce
    answer s m 0 0 (r ++ signWith k (sha256 r) ++ Config.ownChain k.identity)
  | .offer h =>
    match KMap.find s.kp.handshakes h with
    | none => s
    | some x =>
      let offer := x.offer ++ signWith k (sha256 (x.hello ++ x.offer))
      sendRaw (s.setKp { s.kp with handshakes := KMap.put s.kp.handshakes h { x with offer := offer } }) 2 0 offer []
  | .link port =>
    match KMap.find s.kp.linkHs port.toNat with
    | none => s
    | some x =>
      let body := x.own ++ signWith k (sha256 (x.transcript ++ x.own))
      let s := s.setKp { s.kp with linkHs := KMap.put s.kp.linkHs port.toNat { x with transcript := x.transcript ++ body, own := [], m := none } }
      match x.m with | some m => answer s m 0 0 body | none => s
  | .handover m =>
    let i := k.identity + 1
    let statement := Config.hssPublic (topSeed deviceBytes i)
    let s := s.setKp { s.kp with identity := i, tree := 0, qNext := 0, qRes := 0, nextReady := false, building := false, exhausted := false }
    answer s m 0 0 (statement ++ signWith k (sha256 statement))

/-- Sign for a use that waits, if it can be now. -/
def signNow (s : State) (use : SignUse) : State :=
  let k := s.kp
  if !k.signQueue.contains use || !maySign k use then s
  else keeperNote (finishUse (s.setKp { takeIndex k with signQueue := removeOne k.signQueue use }) k use)

/-- A use joins those that wait for a signature. -/
def askSign (s : State) (use : SignUse) : State := s.setKp { s.kp with signQueue := s.kp.signQueue ++ [use] }

/-- The Keeper runs while main power is there and the dies are not in a power-on or package reset. -/
def keeperOn (s : State) : Bool := railsUp s && (match s.rst.running with | some (.package, _) => false | _ => true)

/-! ## Commands of the control node -/

/-- `ATTEST` (R379, R385, R408). -/
def attestFor (s : State) (m : CmdRef) (nonce : BitVec 256) : State :=
  if mayIdentify s.kp then askSign s (.attest m nonce) else answer s m 0x11 0 []

/-- `FW_STAGE` (R389): a piece is written into the slot that does not run. -/
def stageFirmware (s : State) (m : CmdRef) (offset : Nat) (piece : List Byte) : State :=
  if piece.length > 65536 ∨ offset + piece.length > 2 ^ 26 then answer s m 0x10 0 []
  else
    let i := b2n (!s.kp.activeSlot)
    let old := KMap.getD s.kp.fwSlots i []
    let new := overlay (padTo (max old.length (offset + piece.length)) old) offset piece
    answer (s.setKp { s.kp with fwSlots := KMap.put s.kp.fwSlots i new, bootOther := false }) m 0 0 []

/-- `FW_ACTIVATE` (R388, R389): the whole slot is verified. -/
def activateFirmware (s : State) (m : CmdRef) : State :=
  let bs := KMap.getD s.kp.fwSlots (b2n (!s.kp.activeSlot)) []
  if Config.hssVerify Config.vendorRoot bs bs && decide ((Config.imageSvn bs).toNat ≥ s.kp.svnFw.toNat) then
    answer (s.setKp { s.kp with bootOther := true }) m 0 0 []
  else answer s m 0x10 0 []

/-- `FW_COMMIT` (R389). -/
def commitFirmware (s : State) (m : CmdRef) : State :=
  let svn := max s.kp.svnFw.toNat (Config.imageSvn (imageBytes s.kp)).toNat
  answer (keeperNote (s.setKp { s.kp with svnFw := .ofNat 16 svn, fwPending := false })) m 0 0 []

/-- `OWNER_ENROL` (R387): only while the owner root is empty. -/
def enrolOwner (s : State) (m : CmdRef) (root : BitVec 256) : State :=
  match s.kp.ownerRoot with
  | some _ => answer s m 0x10 0 []
  | none => answer (keeperNote (s.setKp { s.kp with ownerRoot := some root })) m 0 0 []

/-- `OWNER_TRANSFER` (R387): signed under the current root. -/
def transferOwner (s : State) (m : CmdRef) (root : BitVec 256) (statement : List Byte) : State :=
  match s.kp.ownerRoot with
  | some r =>
    if Config.hssVerify r (beBytes 32 root.toNat) statement then answer (s.setKp { s.kp with ownerRoot := some root }) m 0 0 []
    else answer s m 0x10 0 []
  | none => answer s m 0x10 0 []

/-- `ID_ROLL` (R386): identity 3 cannot roll. -/
def rollIdentity (s : State) (m : CmdRef) : State :=
  if s.kp.idFail || !s.kp.idOk then answer s m 0x11 0 []
  else if s.kp.identity = 3 then answer s m 0x10 0 []
  else askSign s (.handover m)

/-! ## The mailbox (R15, R480) -/

/-- The command, the code and the request bytes of what the Den relays. -/
def KeeperAsk.parts (a : KeeperAsk) : CmdRef × Nat × Nat :=
  match a with
  | .attest m _ => (m, 0x50, 32)
  | .fwStage m _ piece => (m, 0x51, 4 + piece.length)
  | .fwActivate m => (m, 0x52, 0)
  | .fwCommit m => (m, 0x53, 0)
  | .ownerEnrol m _ => (m, 0x54, 32)
  | .ownerTransfer m _ statement => (m, 0x55, 32 + statement.length)
  | .idRoll m => (m, 0x56, 0)

/-- The Den writes a relayed command into the mailbox: a request of its code runs (log 143). -/
def mailed (s : State) (a : KeeperAsk) : State :=
  s.setKp { s.kp with mboxBusy := true, mboxCode := .ofNat 16 a.parts.2.1, mboxLen := min 4096 a.parts.2.2, relay := some a.parts.1 }

/-- What the Keeper does for a relayed command. -/
def runAsk (s : State) (a : KeeperAsk) : State :=
  match a with
  | .attest m nonce => attestFor s m nonce
  | .fwStage m offset piece => stageFirmware s m offset.toNat piece
  | .fwActivate m => activateFirmware s m
  | .fwCommit m => commitFirmware s m
  | .ownerEnrol m root => enrolOwner s m root
  | .ownerTransfer m root statement => transferOwner s m root statement
  | .idRoll m => rollIdentity s m

/-- A request of the mailbox ends with a status and at most 4,096 bytes of answer. -/
def mboxEnd (s : State) (status : BitVec 8) (body : List Byte) : State :=
  let bs := body.take 4096
  s.setKp { s.kp with mboxBusy := false, mboxDone := true, mboxRlen := bs.length, mboxStatus := status,
                      mboxBuf := overlay (padTo 4096 s.kp.mboxBuf) 0 bs, relay := none }

/-- Whether a command still waits for its signature. -/
def awaitsSign (k : KeeperSt) (m : CmdRef) : Bool :=
  k.signQueue.any (fun u => match u with | .attest n _ => n == m | .handover n => n == m | _ => false)

/-- The request of a relayed command ends once its command has been answered. -/
def relayDone (s : State) : State :=
  match s.kp.relay with
  | none => s
  | some m =>
    if awaitsSign s.kp m then s
    else match ((s.fn.out ++ s.fn.stored).filter (fun a => a.m == m)).getLast? with
      | some a => mboxEnd s a.status a.body
      | none => mboxEnd s 0 []

/-- The mailbox takes a relayed command. -/
def startAsk (s : State) (a : KeeperAsk) : State := relayDone (runAsk (mailed s a) a)

/-- A command for the Keeper: it waits while the mailbox is busy. -/
def askKeeper (s : State) (a : KeeperAsk) : State :=
  if s.kp.mboxBusy then s.setKp { s.kp with asks := s.kp.asks ++ [a] } else startAsk s a

/-- Commands that waited for the mailbox are taken in order while it is free. -/
def takeAsks (s : State) : State :=
  s.kp.asks.foldl (fun s a => if s.kp.mboxBusy then s else startAsk (s.setKp { s.kp with asks := s.kp.asks.drop 1 }) a) s

/-- After a signature: the request that waited for it ends, and the next is taken. -/
def afterSign (s : State) : State :=
  match s.kp.relay with
  | none => s
  | some _ => let s := relayDone s; if s.kp.mboxBusy then s else takeAsks s

/-- A command of the Finug firmware group runs even where no image passed (R388). -/
def firmwareRow (s : State) (m : CmdRef) (code : Nat) (f : State → State) : Out :=
  let up := railsUp s && s.rst.running.isNone
  commit s (if up then (if s.kp.noImage then onCommand s m code f else finishAll (onCommand s m code f)) else s)

/-! ## The commands -/

/-- `KEEPER_SIGN` (R382). -/
def execKeeperSign (use : SignUse) (s : State) : Out := commit s (if keeperOn s then afterSign (signNow s use) else s)

/-- `SIGN_TOKEN_REFILL` (R384): a token each second; a signature that waited for one proceeds. -/
def execSignTokenRefill (s : State) : Out :=
  let waits := decide (s.kp.tokens = 0)
  let s' := s.setKp { s.kp with tokens := min 1024 (s.kp.tokens + 1) }
  commit s (if keeperOn s then (match s.kp.signQueue with | u :: _ => if waits then afterSign (signNow s' u) else s' | [] => s') else s)

/-- `BOTTOM_TREE_BUILT` (R383). -/
def execBottomTreeBuilt (s : State) : Out :=
  commit s (if keeperOn s && s.kp.building then keeperNote (s.setKp { s.kp with building := false, nextReady := true }) else s)

/-- `ENTROPY_FAIL` (R378). -/
def execEntropyFail (s : State) : Out := commit s (if keeperOn s then keeperNote (s.setKp { s.kp with entropyFail := true }) else s)

/-- `ENTROPY_TESTS_PASS` (R378). -/
def execEntropyTestsPass (s : State) : Out := commit s (if keeperOn s then makeAllReady (keeperNote (s.setKp { s.kp with entropyFail := false })) else s)

/-- `TOP_TREE_CACHE_REBUILT` (R383). -/
def execTopTreeCacheRebuilt (s : State) : Out := commit s (if keeperOn s && s.kp.idOk then s.setKp { s.kp with topCacheOk := true } else s)

/-- `KP_MBOX_CMD` (R480). -/
def execKpMboxCmd (value : W64) (s : State) : Out := commit s (if s.running then mboxStart s value.toNat else s)

/-- `KP_MBOX_DONE_CLEAR` (R480). -/
def execKpMboxDoneClear (value : W64) (s : State) : Out := commit s (if s.running then mboxClear s value.toNat else s)

/-- `KEEPER_REQUEST_DONE` (R480): a request of the Den's own ends. A relayed command's ends with its answer. -/
def execKeeperRequestDone (status : BitVec 8) (answer : List Byte) (s : State) : Out :=
  commit s (if keeperOn s && s.kp.mboxBusy && s.kp.relay.isNone then takeAsks (mboxEnd s status answer) else s)

/-- `ATTEST` (R408). -/
def execAttest (m : CmdRef) (nonce : BitVec 256) (s : State) : Out := commandRow s m 0x50 (fun s => askKeeper s (.attest m nonce))

/-- `FW_STAGE` (R389). -/
def execFwStage (m : CmdRef) (offset : BitVec 32) (piece : List Byte) (s : State) : Out :=
  firmwareRow s m 0x51 (fun s => askKeeper s (.fwStage m offset piece))

/-- `FW_ACTIVATE` (R389). -/
def execFwActivate (m : CmdRef) (s : State) : Out := firmwareRow s m 0x52 (fun s => askKeeper s (.fwActivate m))

/-- `FW_COMMIT` (R389). -/
def execFwCommit (m : CmdRef) (s : State) : Out := firmwareRow s m 0x53 (fun s => askKeeper s (.fwCommit m))

/-- `OWNER_ENROL` (R387). -/
def execOwnerEnrol (m : CmdRef) (root : BitVec 256) (s : State) : Out := commandRow s m 0x54 (fun s => askKeeper s (.ownerEnrol m root))

/-- `OWNER_TRANSFER` (R387). -/
def execOwnerTransfer (m : CmdRef) (root : BitVec 256) (statement : List Byte) (s : State) : Out :=
  commandRow s m 0x55 (fun s => askKeeper s (.ownerTransfer m root statement))

/-- `ID_ROLL` (R386). -/
def execIdRoll (m : CmdRef) (s : State) : Out := commandRow s m 0x56 (fun s => askKeeper s (.idRoll m))

end Sys2Proof.Machine
end

