-- ==== Sys2Proof/Machine/Finug.lean ====
section
/-! DEFINITION. The Finug port: link frames and messages, control-node sessions, the keying of fabric links, telemetry, and what
happens in a cycle without a command (R391 to R393, R459 to R466). -/

namespace Sys2Proof.Machine

/-! ## Link frames (R459 to R461) -/

/-- A link frame: type, place in its message, number, message number, offset and payload. -/
def linkFrame (type pos seq msg ofs : Nat) (payload : List Byte) : List Byte :=
  let bs := wordsBytes [type * 2 ^ 60 + pos * 2 ^ 58 + payload.length * 2 ^ 45 + seq, msg * 2 ^ 32 + ofs] ++ payload
  bs ++ beBytes 4 (crc32c bs).toNat

/-- The port is on: main rails are up and no reset runs (R483). -/
def finugOn (s : State) : Bool := railsUp s && s.rst.running.isNone

/-- Whether a number in a cycle of 2^32 is at or before another. -/
def upTo (k n : Nat) : Bool := decide ((n + 2 ^ 32 - k % 2 ^ 32) % 2 ^ 32 < 2 ^ 31)

/-- The lane of a frame: the two in turn by number, or the one that holds its lock (R459). -/
def laneOf (s : State) (seq : Nat) : Bool := if s.fn.lane0 && s.fn.lane1 then decide (seq % 2 = 1) else s.fn.lane1

/-- Put frames on the lanes. -/
def transmit (s : State) (l : List (Nat × List Byte)) : State :=
  if s.fn.lane0 || s.fn.lane1 then s.setFn { s.fn with wire := s.fn.wire ++ l.map (fun f => (laneOf s f.1, f.2)) } else s

/-- Answer with an `ACK` or a `NAK`. -/
def finugControl (s : State) (isNak : Bool) (seq : BitVec 32) : State :=
  transmit (s.setFn { s.fn with control := s.fn.control ++ [(isNak, seq)] }) [(seq.toNat, linkFrame (if isNak then 2 else 1) 3 seq.toNat 0 0 [])]

/-- Unacknowledged frames from a number on, in order. -/
def framesFrom (s : State) (seq : Nat) : List (Nat × List Byte) :=
  sortBy (fun a b => upTo a.1 b.1) (s.fn.unacked.filter (fun f => upTo seq f.1))

/-- Send frames again, in order: counted in `RETX` (R461). -/
def resendFrames (s : State) (l : List (Nat × List Byte)) : State :=
  transmit (s.setFn { s.fn with retx := satAdd 16 s.fn.retx l.length, ackHeard := s.now }) l

/-- An `ACK` frees every frame up to its number; a `NAK` has the frames from its number on sent again. -/
def takeAck (s : State) (isNak : Bool) (seq : BitVec 32) : State :=
  if isNak then resendFrames s (framesFrom s seq.toNat)
  else s.setFn { s.fn with unacked := s.fn.unacked.filter (fun f => !upTo f.1 seq.toNat), ackHeard := s.now }

/-! ## Messages (R392, R462, R464) -/

/-- The codes of the commands that a control node sends (R464), the first three messages of a handshake apart. -/
def finugCodes : List Nat :=
  [5, 6, 0x10, 0x11, 0x12, 0x20, 0x21, 0x22, 0x23, 0x24, 0x25, 0x30, 0x31, 0x32, 0x33, 0x34, 0x38, 0x39, 0x3A, 0x3B, 0x3C, 0x40, 0x41, 0x42, 0x48, 0x49,
   0x50, 0x51, 0x52, 0x53, 0x54, 0x55, 0x56, 0x58, 0x60, 0x61]

/-- The tag of a command or an answer. -/
def messageTag (key : List Byte) (m : CmdRef) (bytes : List Byte) : List Byte := hmac key (beBytes 4 m.session.toNat ++ beBytes 8 m.seq.toNat ++ bytes)

/-- A whole message has come in (log 43): a command whose tag and number are good waits for the Den under its code; another is discarded
and counted; an unknown code is answered `ABSENT`. Messages of a handshake carry no tag, and the commands of that name bring them. -/
def messageIn (s : State) (bs : List Byte) : State :=
  let w := wordAt bs
  let code := bits 63 48 (w 0)
  let len := bits 63 32 (w 2)
  let m : CmdRef := { session := .ofNat 32 (bits 31 0 (w 0)), seq := .ofNat 64 (w 1) }
  if code = 1 ∨ code = 2 ∨ code = 3 then s
  else if s.kp.noImage ∧ ¬ (0x51 ≤ code ∧ code ≤ 0x53) then s
  else
    let n := bs.length - 32
    let key := match KMap.find s.kp.sessions m.session.toNat with | some x => x.kCmd | none => []
    let good := (KMap.find s.kp.sessions m.session.toNat).isSome && decide (bs.length ≥ 64) && bs.drop n == messageTag key m (bs.take n)
    if !good then discardCommand s m.session.toNat
    else match acceptCommand s m with
      | (s, false) => s
      | (s, true) =>
        let s := s.setFn { s.fn with codes := s.fn.codes.filter (fun c => c.1 != m) ++ [(m, .ofNat 16 code)] }
        if finugCodes.contains code ∧ n = 32 + len ∧ len ≤ 69632 then
          s.setFn { s.fn with inbox := s.fn.inbox ++ [(m, code, (bs.drop 32).take len)] }
        else answer s m 0x10 0 []

/-- A piece of a message in order. -/
def pieceIn (s : State) (pos ofs : Nat) (payload : List Byte) : State :=
  let before := if pos / 2 = 1 then [] else s.fn.partialMsg
  let all := before ++ payload
  if ofs ≠ before.length ∨ all.length > 69632 + 64 then s.setFn { s.fn with partialMsg := [] }
  else if pos % 2 = 1 then messageIn (s.setFn { s.fn with partialMsg := [] }) all
  else s.setFn { s.fn with partialMsg := all }

/-- A link frame arrives: one that fails its CRC or leaves a gap is refused with the number expected. -/
def linkFrameIn (s : State) (bs : List Byte) : State :=
  let n := bs.length - 4
  let s := s.setFn { s.fn with lastFrame := s.now }
  let w := wordAt bs 0
  let good := decide (bs.length ≥ 20) && crc32c (bs.take n) == .ofNat 32 (beNat (bs.drop n)) && bits 57 45 w + 20 == bs.length
  if !good then finugControl (s.setFn { s.fn with crcErr := satAdd 16 s.fn.crcErr 1 }) true s.fn.rxExpect
  else
    let seq : BitVec 32 := .ofNat 32 w
    match bits 63 60 w with
    | 0 =>
      if seq = s.fn.rxExpect then
        let s := finugControl (s.setFn { s.fn with rxExpect := seq + 1 }) false seq
        pieceIn s (bits 59 58 w) (bits 31 0 (wordAt bs 1)) ((bs.take n).drop 16)
      else finugControl s true s.fn.rxExpect
    | 1 => takeAck s false seq
    | 2 => takeAck s true seq
    | _ => s

/-! ## What goes out -/

/-- The bytes of an answer or a note: header, body, and its tag (R462). -/
def messageBytes (code : BitVec 16) (m : CmdRef) (status : BitVec 8) (reason : BitVec 16) (body key : List Byte) : List Byte :=
  let bs := wordsBytes [code.toNat * 2 ^ 48 + 2 ^ 47 + status.toNat * 2 ^ 32 + m.session.toNat, m.seq.toNat, body.length * 2 ^ 32 + reason.toNat * 2 ^ 16, 0]
    ++ body
  if key.isEmpty then bs else bs ++ messageTag key m bs

/-- The next message to send: an answer first, then a note. -/
def nextMessage (s : State) : Option (List Byte × State) :=
  match s.fn.out with
  | a :: rest => some (messageBytes a.code a.m a.status a.reason a.body a.key, s.setFn { s.fn with out := rest })
  | [] =>
    match s.fn.notes.find? (fun q => !q.2.isEmpty) with
    | none => none
    | some (id, l) =>
      match l with
      | [] => none
      | n :: rest =>
        let key := match KMap.find s.kp.sessions id with | some x => x.kRsp | none => []
        let body := wordsBytes ([KMap.getD s.fn.dropped id 0 % 2 ^ 32 * 2 ^ 32 + n.stream, n.time] ++ n.body.map (·.toNat))
        some (messageBytes 0x62 { session := .ofNat 32 id, seq := .ofNat 64 n.seq } 0 0 body key,
              s.setFn { s.fn with notes := KMap.put s.fn.notes id rest, dropped := KMap.put s.fn.dropped id 0 })

/-- Send the next message as link frames, where the retransmission buffer has room for it (R461). -/
def finugPump (s : State) : State :=
  if !finugOn s || !(s.fn.lane0 || s.fn.lane1) then s
  else match nextMessage s with
    | none => s
    | some (bs, t) =>
      let parts := chunksOf 4096 bs.length bs
      if s.fn.unacked.length + parts.length > 4096 then s
      else
        let t := if t.fn.unacked.isEmpty then t.setFn { t.fn with ackHeard := t.now } else t
        let t := parts.zipIdx.foldl (fun t x =>
          let pos := (if x.2 = 0 then 2 else 0) + (if x.2 + 1 = parts.length then 1 else 0)
          let f := linkFrame 0 pos t.fn.txSeq.toNat t.fn.txMsg.toNat (4096 * x.2) x.1
          let n := t.fn.txSeq.toNat
          transmit (t.setFn { t.fn with unacked := KMap.put t.fn.unacked n f, txSeq := t.fn.txSeq + 1 }) [(n, f)]) t
        t.setFn { t.fn with txMsg := t.fn.txMsg + 1 }

/-- A cycle with no command waiting: the ports send what their slots take, the count goes on, reads are sampled, work that may go on does, and the Finug port sends (log 23). -/
def tick (s : State) : Out := commit s (finugPump (settle (sampleReads (idle (pumpAll s)))))

/-- The port is down: every session on it ends, and its link starts afresh (R461). -/
def finugLost (s : State) : State :=
  let s := s.kp.sessions.foldl (fun s x => endSession s x.1) s
  let s := s.setKp { s.kp with handshakes := [], signQueue := s.kp.signQueue.filter (fun u => match u with | .offer _ => false | _ => true) }
  s.setFn { s.fn with rxExpect := 0, txSeq := 0, txMsg := 0, unacked := [], control := [], partialMsg := [], out := [] }

/-! ## Sessions (R391, R392) -/

/-- A handshake is over. -/
def dropHandshake (s : State) (h : Nat) : State :=
  s.setKp { s.kp with handshakes := KMap.del s.kp.handshakes h, signQueue := s.kp.signQueue.filter (fun u => u != .offer h) }

/-- A control node opens a handshake: its certificate is judged at once; the offer waits for a signature. -/
def hello (s : State) (version : Byte) (nonce : BitVec 256) (chain : List Byte) : State :=
  if !mayIdentify s.kp then sendRaw s 2 0x11 [] []
  else match s.kp.ownerRoot.bind (fun r => provenBy s r .control chain) with
    | none => s
    | some ident =>
      if version ≠ 1 ∨ s.kp.sessions.length ≥ 4 ∨ s.kp.entropyFail = true then s
      else
        let (d, _, s) := draw s
        let (_, k, s) := draw s
        let (id, s) := s.fresh
        let x : Handshake := { openDay := s.day, hello := [version] ++ beBytes 32 nonce.toNat ++ chain,
                               offer := nonceOf d ++ Config.ownChain s.kp.identity ++ Config.kemPublic k, ident := ident, decapsKey := k }
        askSign (s.setKp { s.kp with handshakes := KMap.put s.kp.handshakes id x }) (.offer id)

/-- A session of the same control node takes the answers that wait (R463). -/
def takeStored (s : State) (ident : BitVec 256) (key : List Byte) : State :=
  let mine (a : Answer) : Bool := KMap.getD s.fn.storedIdent a.m.session.toNat 0 == ident && (KMap.find s.fn.storedIdent a.m.session.toNat).isSome
  s.setFn { s.fn with out := s.fn.out ++ (s.fn.stored.filter mine).map (fun a => { a with key := key }), stored := s.fn.stored.filter (fun a => !mine a) }

/-- The accept of a handshake: the keys are derived and the session opens under a new id (log 44). -/
def accept (s : State) (h : Nat) (ciphertext signature : List Byte) : State :=
  match KMap.find s.kp.handshakes h with
  | none => s
  | some x =>
    if s.kp.signQueue.contains (.offer h) then s
    else
      let s := dropHandshake s h
      let part := x.hello ++ x.offer ++ ciphertext
      let h2 := sha256 part
      if !Config.hssVerify x.ident h2 signature ∨ s.kp.sessions.length ≥ 4 ∨ s.day ≥ x.openDay + 2 ^ 22 then s
      else
        let prk := hkdfExtract h2 (Config.kemDecaps x.decapsKey ciphertext)
        let (n, s) := s.fresh
        let id := n % (2 ^ 32 - 1) + 1
        let y : Session := { ident := x.ident, kCmd := hkdfExpand prk (ascii "ixa-cmd") 32, kRsp := hkdfExpand prk (ascii "ixa-rsp") 32, lastSeq := 0,
                             discards := 0, commands := 0, openDay := s.day, unanswered := [], streams := 0, rateLog2 := 10, samples := [] }
        let s := keeperNote (s.setKp { s.kp with sessions := KMap.put s.kp.sessions id y })
        let fin := hmac (hkdfExpand prk (ascii "ixa-fin") 32) (sha256 (part ++ signature))
        takeStored (sendRaw s 4 0 (beBytes 4 id ++ fin) y.kRsp) x.ident y.kRsp

/-- `KX_CLOSE`: answered, and the session ends. -/
def closeSession (s : State) (m : CmdRef) : State :=
  let s := endSession (answer s m 0 0 []) m.session.toNat
  s.setFn { s.fn with out := s.fn.out ++ s.fn.stored.filter (fun a => a.m == m), stored := s.fn.stored.filter (fun a => a.m != m) }

/-! ## Keying a fabric link (R393) -/

/-- The protected port to a peer that a message is about: the first that is not keyed (log 45). -/
def portToKey (s : State) (peer : Ep) : Option Nat :=
  (KMap.first? s.alm.cur.ports (fun p b => (b.fabric || b.edgeGcm) && b.ep == peer && (KMap.find s.kp.linkKeys p).isNone)).map (·.1)

/-- What a message says before its signature: nonce, certificate chain, and a value of 1,568 bytes; the signature is the last 4,340. -/
def lxParts (body : List Byte) : List Byte × List Byte × List Byte × List Byte :=
  let n := body.length - 4340
  let unsigned := body.take n
  ((unsigned.drop 32).take (n - 32 - 1568), unsigned.drop (n - 1568), unsigned, body.drop n)

/-- Whether a message of a peer holds: its certificate names the peer under its root and its signature covers the transcript (R387). -/
def lxHolds (s : State) (port : Nat) (peer : Ep) (before body : List Byte) : Bool :=
  let (chain, _, unsigned, sig) := lxParts body
  let fabric := match s.bind port with | some b => b.fabric | none => true
  let ident := if fabric then Config.certIdentity Config.vendorRoot .device chain else s.kp.ownerRoot.bind (fun r => provenBy s r .endpoint chain)
  match ident with
  | some i => Config.certEndpoint chain == peer && Config.hssVerify i (sha256 (before ++ unsigned)) sig && decide (body.length ≥ 32 + 1568 + 4340)
  | none => false

/-- Install the key of a link. -/
def keyLink (s : State) (port : Nat) (secret : List Byte) : State :=
  s.setKp { s.kp with linkHs := KMap.del s.kp.linkHs port,
                      linkKeys := KMap.put s.kp.linkKeys port { secret := secret, txCtr := [], rxCtr := [], week := s.day / 4096, keptPrev := none } }

/-- The link secret of a transcript up to the accept's signature, and the finish over the whole of it. -/
def linkSecret (upto whole shared : List Byte) : List Byte × List Byte :=
  let prk := hkdfExtract (sha256 upto) shared
  (prk, hmac (hkdfExpand prk (ascii "ixa-fin") 32) (sha256 whole))

/-- A message of a link handshake: kind 0 asks the lower end to begin, 1 is an offer, 2 an accept, 3 a finish (log 45). -/
def linkMessage (s : State) (m : CmdRef) (peer : Ep) (kind : Nat) (body : List Byte) : State :=
  let refuse (s : State) : State := answer s m 0x10 0 []
  let k := s.kp
  if !mayIdentify k then answer s m 0x11 0 []
  else match portToKey s peer with
    | none => refuse s
    | some port =>
      let put (s : State) (x : LinkHs) : State := s.setKp { s.kp with linkHs := KMap.put s.kp.linkHs port x }
      let drop (s : State) : State :=
        s.setKp { s.kp with linkHs := KMap.del s.kp.linkHs port, signQueue := s.kp.signQueue.filter (fun u => u != .link (.ofNat 9 port)) }
      let begun := (KMap.find k.linkHs port).filter (fun x => x.peer == peer && x.m.isNone)
      match kind, begun with
      | 0, _ =>
        if s.self.toNat < peer.toNat ∧ k.entropyFail = false then
          let (d, _, s) := draw (drop s)
          let (_, dk, s) := draw s
          askSign (put s { peer := peer, m := some m, own := nonceOf d ++ Config.ownChain k.identity ++ Config.kemPublic dk, transcript := [], decapsKey := dk,
                           secret := [] }) (.link (.ofNat 9 port))
        else refuse s
      | 1, _ =>
        if peer.toNat < s.self.toNat ∧ lxHolds s port peer [] body = true ∧ k.entropyFail = false then
          let (d, n, s) := draw (drop s)
          let (_, ek, _, _) := lxParts body
          let (ct, shared) := Config.kemEncaps ek n
          askSign (put s { peer := peer, m := some m, own := nonceOf d ++ Config.ownChain k.identity ++ ct, transcript := body, decapsKey := 0, secret := shared })
            (.link (.ofNat 9 port))
        else refuse s
      | 2, some x =>
        if s.self.toNat < peer.toNat ∧ lxHolds s port peer x.transcript body = true then
          let (_, ct, unsigned, _) := lxParts body
          let (secret, fin) := linkSecret (x.transcript ++ unsigned) (x.transcript ++ body) (Config.kemDecaps x.decapsKey ct)
          answer (keyLink s port secret) m 0 0 fin
        else refuse (drop s)
      | 3, some x =>
        let (secret, fin) := linkSecret (x.transcript.take (x.transcript.length - 4340)) x.transcript x.secret
        if peer.toNat < s.self.toNat ∧ body = fin then answer (keyLink s port secret) m 0 0 [] else refuse (drop s)
      | _, _ => refuse s

/-! ## Telemetry (R465, R466) -/

/-- Change a session. -/
def updSession (s : State) (id : Nat) (f : Session → Session) : State :=
  match KMap.find s.kp.sessions id with
  | some x => s.setKp { s.kp with sessions := KMap.put s.kp.sessions id (f x) }
  | none => s

/-- `SUBSCRIBE`: samples every 2^10 to 2^24 Days of up to 64 registers. -/
def subscribe (s : State) (m : CmdRef) (mask : BitVec 7) (rate : Nat) (samples : List (BitVec 48)) : State :=
  if mask.getLsbD 3 && (decide (rate < 10 ∨ rate > 24 ∨ samples.length > 64)) then answer s m 0x10 0 []
  else answer (updSession s m.session.toNat (fun x =>
    { x with streams := x.streams ||| mask, rateLog2 := if mask.getLsbD 3 then rate else x.rateLog2,
             samples := if mask.getLsbD 3 then samples else x.samples })) m 0 0 []

/-- A sample of a session's registers, on every 2^n-th Day. -/
def sample (s : State) (id : Nat) : State :=
  match KMap.find s.kp.sessions id with
  | none => s
  | some x =>
    if x.streams.getLsbD 3 && decide (s.day % 2 ^ x.rateLog2 = 0) then noteTo s id 3 (x.samples.map (fun a => readReg s a.toNat)) else s

/-! ## The commands -/

/-- `FINUG_FRAME` (R461). -/
def execFinugFrame (bytes : List Byte) (s : State) : Out := commit s (if finugOn s then linkFrameIn s bytes else s)

/-- `FINUG_ACK` (R461). -/
def execFinugAck (isNak : Bool) (seq : BitVec 32) (s : State) : Out := commit s (if finugOn s then takeAck s isNak seq else s)

/-- `FINUG_RETX_TIMEOUT` (R461): 10 µs, 17,000 cycles, without an `ACK`. -/
def execFinugRetxTimeout (s : State) : Out :=
  commit s (if finugOn s && !s.fn.unacked.isEmpty && decide (s.now ≥ s.fn.ackHeard + 17000) then
    resendFrames s (sortBy (fun a b => upTo a.1 b.1) s.fn.unacked) else s)

/-- `FINUG_PORT_DOWN` (R461): 100 ms, 1.7 × 10^8 cycles, without a frame. -/
def execFinugPortDown (s : State) : Out := commit s (if finugOn s && decide (s.now ≥ s.fn.lastFrame + 170000000) then finugLost s else s)

/-- Set a lane's lock. -/
def setLane (s : State) (lane up : Bool) : State := s.setFn (if lane then { s.fn with lane1 := up } else { s.fn with lane0 := up })

/-- `FINUG_LANE_LOSS` (R459). -/
def execFinugLaneLoss (lane : Bool) (s : State) : Out := commit s (if finugOn s then setLane s lane false else s)

/-- `FINUG_LANE_LOCK` (R459). -/
def execFinugLaneLock (lane : Bool) (s : State) : Out := commit s (if finugOn s then setLane s lane true else s)

/-- `KX_HELLO` (R391). -/
def execKxHello (version : Byte) (nonce : BitVec 256) (chain : List Byte) (s : State) : Out :=
  commit s (if finugOn s then hello s version nonce chain else s)

/-- `KX_ACCEPT` (R391). -/
def execKxAccept (handshake : Nat) (ciphertext : List Byte) (signature : List Byte) (s : State) : Out :=
  commit s (if finugOn s then accept s handshake ciphertext signature else s)

/-- `KX_CLOSE` (R392). -/
def execKxClose (m : CmdRef) (s : State) : Out := commit s (if finugOn s then onCommand s m 5 (fun s => closeSession s m) else s)

/-- `HANDSHAKE_TIMEOUT` (R391): not finished within 2^22 Days. -/
def execHandshakeTimeout (handshake : Nat) (s : State) : Out :=
  commit s (match KMap.find s.kp.handshakes handshake with
    | some x => if s.day ≥ x.openDay + 2 ^ 22 then dropHandshake s handshake else s
    | none => s)

/-- `SESSION_LIFETIME_END` (R392): 2^30 Days, or 2^24 commands. -/
def execSessionLifetimeEnd (session : BitVec 32) (s : State) : Out :=
  commit s (match KMap.find s.kp.sessions session.toNat with
    | some x => if s.day ≥ x.openDay + 2 ^ 30 ∨ x.commands ≥ 2 ^ 24 then endSession s session.toNat else s
    | none => s)

/-- `LX_MSG` (R393). -/
def execLxMsg (m : CmdRef) (peer : Ep) (kind : BitVec 2) (body : List Byte) (s : State) : Out :=
  commandRow s m 6 (fun s => linkMessage s m peer kind.toNat body)

/-- `SUBSCRIBE` (R465). -/
def execSubscribe (m : CmdRef) (mask : BitVec 7) (rateLog2 : BitVec 5) (samples : List (BitVec 48)) (s : State) : Out :=
  commandRow s m 0x60 (fun s => subscribe s m mask rateLog2.toNat samples)

/-- `UNSUBSCRIBE` (R465). -/
def execUnsubscribe (m : CmdRef) (mask : BitVec 7) (s : State) : Out :=
  commandRow s m 0x61 (fun s => answer (updSession s m.session.toNat (fun x => { x with streams := x.streams &&& ~~~mask })) m 0 0 [])

/-- `TELEMETRY_SAMPLE` (R465). -/
def execTelemetrySample (session : BitVec 32) (s : State) : Out := commit s (if s.running then sample s session.toNat else s)

end Sys2Proof.Machine
end

