-- ==== Sys2Proof/Machine/Gathers.lean ====
section
/-! DEFINITION. The commands of the Gather engines and the deadlines of their work (R326 to R344). -/

namespace Sys2Proof.Machine

/-- `GE_GATHER` (R329, R330). -/
def execGeGather (a : Arrival) (s : State) : Out := commit s (arriveReq s a 0x50)

/-- `GE_SCATTER` (R331). -/
def execGeScatter (a : Arrival) (s : State) : Out := commit s (arriveReq s a 0x51)

/-- `GE_BAG` (R332, R333). -/
def execGeBag (a : Arrival) (s : State) : Out := commit s (arriveReq s a 0x52)

/-- `GE_KVASM` (R334 to R336). -/
def execGeKvasm (a : Arrival) (s : State) : Out := commit s (arriveReq s a 0x53)

/-- `GE_WALK` (R337 to R342). -/
def execGeWalk (a : Arrival) (s : State) : Out := commit s (arriveReq s a 0x54)

/-- The deadline of a request that waits or runs (R295, R323, R343). -/
def execRequestDeadline (work : Nat) (s : State) : Out := commit s (settle (deadlineComes s work))

end Sys2Proof.Machine
end

