-- ==== Sys2Proof/Machine/MapCommands.lean ====
section
/-! DEFINITION. The commands of the control node that change a map, each an entry of the Chronicle, and the ordered Harvest (R196 to
R205, R264, R283, R352, R366, R400, R426, R428, R464, R504). -/

namespace Sys2Proof.Machine

/-- A map command: its entry is proposed for the Day it asks for, and it is answered when the entry's effect has come (R352, R463). -/
def mapCommand (s : State) (m : CmdRef) (c : BitVec 12) (b : EntryBody) (day : Nat) : State := submit s { comp := c, body := b, day := day, m := some m }

/-- Order a Harvest at the partition's home (R283); the answer comes at its flip. -/
def orderHarvest (s : State) (m : CmdRef) (key : Nat) : State :=
  if (KMap.find s.eng.parts key).isNone then answer s m 0x10 0 []
  else startHarvest (s.setEng { s.eng with ordered := KMap.upd s.eng.ordered key [] (fun l => l ++ [m]) }) key

/-- Whether a device may be admitted, as far as this module knows it: good link scores for 4,096 Days on every port here, and its own
alignment (R428). -/
def mayAdmit (s : State) (device : Ep) : Bool :=
  (s.alm.cur.ports.filter (fun p => p.2.ep == device)).all (fun p => decide ((s.port p.1).health.linkDays ≥ 4096))
    && (device != s.self || s.time.aligned)

/-- The entry that admits a device, as active or as a spare (R425, R428). -/
def admission (s : State) (device : Ep) (c : BitVec 12) (asSpare : Bool) : EntryBody :=
  .fence { fenceOf device (if isModule s device then 1 else 0) (if asSpare then 6 else 5) 0 2 s.day with comp := c }

/-- `EXT_GRANT` (R504). -/
def execExtGrant (m : CmdRef) (comp : BitVec 12) (body : ExtBody) (day : BitVec 48) (s : State) : Out :=
  commandRow s m 0x30 (fun s => mapCommand s m comp (.grant body) day.toNat)

/-- `EXT_TAKE` (R366, R504). -/
def execExtTake (m : CmdRef) (comp : BitVec 12) (body : ExtBody) (day : BitVec 48) (s : State) : Out :=
  commandRow s m 0x31 (fun s => mapCommand s m comp (.take body) day.toNat)

/-- `EXT_MODE` (R504). -/
def execExtMode (m : CmdRef) (comp : BitVec 12) (body : ExtBody) (day : BitVec 48) (s : State) : Out :=
  commandRow s m 0x32 (fun s => mapCommand s m comp (.mode body) day.toNat)

/-- `KEY_REVOKE` (R400). -/
def execKeyRevoke (m : CmdRef) (comp : BitVec 12) (slot : BitVec 10) (gen : BitVec 6) (destroy : Bool) (day : BitVec 48) (s : State) : Out :=
  commandRow s m 0x33 (fun s => mapCommand s m comp (.keyRevoke slot gen destroy) day.toNat)

/-- `LEND_GRANT` (R204, R205). -/
def execLendGrant (m : CmdRef) (lender : Ep) (base : W64) (pages : BitVec 32) (home : Ep) (s : State) : Out :=
  commandRow s m 0x34 (fun s => mapCommand s m 0 (.lend lender base pages home) 0)

/-- `PUB_REGION` (R196). -/
def execPubRegion (m : CmdRef) (comp : BitVec 12) (region : BitVec 32) (anchor : W64) (s : State) : Out :=
  commandRow s m 0x38 (fun s => mapCommand s m comp (.pubRegion region anchor) 0)

/-- `PUBLISH` (R197): the freeze entry comes first. -/
def execPublish (m : CmdRef) (comp : BitVec 12) (region version : BitVec 32) (base : W64) (extents : BitVec 16) (s : State) : Out :=
  commandRow s m 0x39 (fun s => mapCommand s m comp (.freeze region version base extents) 0)

/-- `PROMOTE` (R200). -/
def execPromote (m : CmdRef) (comp : BitVec 12) (region version : BitVec 32) (s : State) : Out :=
  commandRow s m 0x3A (fun s => mapCommand s m comp (.promote region version) 0)

/-- `RETIRE` (R203). -/
def execRetire (m : CmdRef) (comp : BitVec 12) (region version : BitVec 32) (s : State) : Out :=
  commandRow s m 0x3B (fun s => mapCommand s m comp (.retire region version) 0)

/-- `PIN_CLEAR` (R203). -/
def execPinClear (m : CmdRef) (comp : BitVec 12) (region version : BitVec 32) (count : BitVec 56) (s : State) : Out :=
  commandRow s m 0x3C (fun s => mapCommand s m comp (.pinClear region version count) 0)

/-- `WARREN_CREATE` (R264, R265). -/
def execWarrenCreate (m : CmdRef) (spec : WarrenSpec) (s : State) : Out := commandRow s m 0x40 (fun s => mapCommand s m spec.comp (.warren spec) 0)

/-- `WARREN_DISSOLVE` (R264). -/
def execWarrenDissolve (m : CmdRef) (comp : BitVec 12) (warren : BitVec 24) (s : State) : Out :=
  commandRow s m 0x41 (fun s => mapCommand s m comp (.warrenEnd warren) 0)

/-- `HARVEST` (R283). -/
def execHarvest (m : CmdRef) (comp : BitVec 12) (warren : BitVec 24) (part : BitVec 16) (s : State) : Out :=
  commandRow s m 0x42 (fun s => orderHarvest s m (partKey comp warren part.toNat))

/-- `FENCE` (R426): by the control node; a reserved action breaks the body's format. -/
def execFence (m : CmdRef) (body : FenceBody) (day : BitVec 48) (s : State) : Out :=
  commandRow s m 0x48 (fun s => if body.action = 7 then answer s m 0x10 0 [] else mapCommand s m 0 (.fence { body with by_ := 2 }) day.toNat)

/-- `ADMIT` (R428). -/
def execAdmission (m : CmdRef) (device : Ep) (comp : BitVec 12) (asSpare : Bool) (s : State) : Out :=
  commandRow s m 0x49 (fun s => if mayAdmit s device then mapCommand s m 0 (admission s device comp asSpare) 0 else answer s m 0x10 0 [])

end Sys2Proof.Machine
end

