-- ==== Sys2Proof/Machine/Memory.lean ====
section
/-! DEFINITION. The commands of loads, stores, atomics, combining, copies and counters: one meaning each, over the shared arrival
of Ingress and the service of Home and Copy. -/

namespace Sys2Proof.Machine

/-- `RD` (R86, R140, R177): the request is admitted, checked in order and served from the page's tier. -/
def execRd (a : Arrival) (s : State) : Out := commit s (arriveReq s a 0x10)

/-- `RD_OWN` (R142): the line is granted in O once no other holder is left. -/
def execRdOwn (a : Arrival) (s : State) : Out := commit s (arriveReq s a 0x11)

/-- `WR` (R140, R176, R177, R187, R188). -/
def execWr (a : Arrival) (s : State) : Out := commit s (arriveReq s a 0x14)

/-- `WR_APPEND` (R306 to R309). -/
def execWrAppend (a : Arrival) (s : State) : Out := commit s (arriveReq s a 0x15)

/-- A `BINV` completion (R142). -/
def execBinvCompletion (a : Arrival) (s : State) : Out := commit s (arriveResp s a)

/-- `AT_FADD_I32` (R145, R146, R167). -/
def execAtFaddI32 (a : Arrival) (s : State) : Out := commit s (arriveReq s a 0x20)

/-- `AT_FADD_I64` (R145, R146, R167, R201). -/
def execAtFaddI64 (a : Arrival) (s : State) : Out := commit s (arriveReq s a 0x21)

/-- `AT_FADD_F32` (R60, R145, R146). -/
def execAtFaddF32 (a : Arrival) (s : State) : Out := commit s (arriveReq s a 0x22)

/-- `AT_FADD_BF16` (R60, R145, R146). -/
def execAtFaddBf16 (a : Arrival) (s : State) : Out := commit s (arriveReq s a 0x23)

/-- `AT_MIN` (R77, R146). -/
def execAtMin (a : Arrival) (s : State) : Out := commit s (arriveReq s a 0x24)

/-- `AT_MAX` (R77, R146). -/
def execAtMax (a : Arrival) (s : State) : Out := commit s (arriveReq s a 0x25)

/-- `AT_SWAP` (R77, R146). -/
def execAtSwap (a : Arrival) (s : State) : Out := commit s (arriveReq s a 0x26)

/-- `AT_CAS64` (R146). -/
def execAtCas64 (a : Arrival) (s : State) : Out := commit s (arriveReq s a 0x27)

/-- `AT_CAS128` (R146). -/
def execAtCas128 (a : Arrival) (s : State) : Out := commit s (arriveReq s a 0x28)

/-- `AT_AND` (R146). -/
def execAtAnd (a : Arrival) (s : State) : Out := commit s (arriveReq s a 0x29)

/-- `AT_OR` (R146). -/
def execAtOr (a : Arrival) (s : State) : Out := commit s (arriveReq s a 0x2A)

/-- `AT_XOR` (R146). -/
def execAtXor (a : Arrival) (s : State) : Out := commit s (arriveReq s a 0x2B)

/-- A combined fetch-add at its home (R151, R152): the frame keeps the fetch-add opcode it carries. -/
def execCombinedFetchAdd (a : Arrival) (s : State) : Out :=
  commit s (arriveReq s a (if isFadd a.frame.hdr.opcode.toNat then a.frame.hdr.opcode.toNat else 0x21))

/-- The window of a combine entry ends (R148, R150). -/
def execCombineWindowClose (entry : Nat) (s : State) : Out := commit s (settle (windowEnds s entry))

/-- The reply to a combined request is split among the members (R148, R153). -/
def execCombinedReply (a : Arrival) (s : State) : Out := commit s (arriveResp s a)

/-- `CP_START` (R154 to R156). -/
def execCpStart (a : Arrival) (s : State) : Out := commit s (arriveReq s a 0x30)

/-- `CP_DATA` (R156, R157). -/
def execCpData (a : Arrival) (s : State) : Out := commit s (arriveReq s a 0x31)

/-- The completion of a copy's piece (R156, R157). -/
def execCpPieceComplete (a : Arrival) (s : State) : Out := commit s (arriveResp s a)

/-- `CTR_ARM` (R158). -/
def execCtrArm (a : Arrival) (s : State) : Out := commit s (arriveReq s a 0x32)

/-- An armed wait whose deadline has come: `TIMEOUT`, and its counter's page is held no more (R155, R158). -/
def waitEnds (s : State) (id : Nat) : State :=
  match KMap.find s.home.waits id with
  | none => s
  | some w =>
    if s.day < w.deadline then s
    else
      let s := s.setHome { s.home with waits := KMap.del s.home.waits id }
      completeStatus (addHold s (w.counter / 2 ^ 30) (w.counter / 65536 % 2 ^ 14) false) w.req 0x50

/-- The deadline of an armed wait (R158). -/
def execCtrArmDeadline (wait : Nat) (s : State) : Out := commit s (settle (waitEnds s wait))

end Sys2Proof.Machine
end

