-- ==== Sys2Proof/Machine/Vector.lean ====
section
/-! DEFINITION. The commands of vector search: searches, warren updates, scans and Harvests (R263 to R299). -/

namespace Sys2Proof.Machine

/-- The frame of an `SE_SEARCH` of one kind: bits 63:62 of its first word (R288). -/
def searchArrival (kind : Nat) (a : Arrival) : Arrival := { a with frame := withKind 63 62 kind a.frame }

/-- `SE_SEARCH` (R288, R291 to R295). -/
def execSeSearch (a : Arrival) (s : State) : Out := commit s (arriveReq s (searchArrival 0 a) 0x48)

/-- An insert into a warren (R275, R276, R289). -/
def execWarrenInsert (a : Arrival) (s : State) : Out := commit s (arriveReq s (searchArrival 1 a) 0x48)

/-- A delete from a warren (R275, R277, R289). -/
def execWarrenDelete (a : Arrival) (s : State) : Out := commit s (arriveReq s (searchArrival 2 a) 0x48)

/-- A partition scan starts (R281). -/
def execPartitionScanStart (scan : Nat) (s : State) : Out := commit s (settle (startScan s scan))

/-- A module's scan ends: its lists go to the merge (R272, R294). -/
def execPartitionScanEnd (scan : Nat) (s : State) : Out := commit s (settle (endScan s scan))

/-- An update still held 1,024 Days after its admission completes `TIMEOUT`; the items applied stay applied (R278). -/
def updateTimeout (s : State) (id : Nat) : State :=
  match KMap.find s.eng.updates id with
  | none => s
  | some u =>
    if s.day < u.day + 1024 then s
    else completeStatus (s.setEng { s.eng with updates := KMap.del s.eng.updates id }) u.req 0x50

/-- `WARREN_UPDATE_TIMEOUT` (R278). -/
def execWarrenUpdateTimeout (update : Nat) (s : State) : Out := commit s (settle (updateTimeout s update))

/-- A Harvest starts (R283, R284). -/
def execHarvestStart (comp : BitVec 12) (warren : BitVec 24) (part : BitVec 16) (s : State) : Out :=
  commit s (settle (startHarvest s (partKey comp warren part.toNat)))

/-- A Harvest's copy ends (R284). -/
def execHarvestCopyEnd (die : Bool) (s : State) : Out := commit s (settle (harvestCopied s (b2n die)))

/-- The old extent of a flipped partition becomes the spare (R284). -/
def execHarvestOldRelease (die : Bool) (s : State) : Out := commit s (settle (harvestRelease s (b2n die)))

/-- A fault during a Harvest (R285). -/
def execHarvestFault (die : Bool) (s : State) : Out := commit s (settle (harvestAgain s (b2n die)))

end Sys2Proof.Machine
end

