-- ==== Sys2Proof/Machine/Dispatch.lean ====
section
/-! DEFINITION. One arm per command: the meaning that serves it, or its rejection by name. -/

namespace Sys2Proof.Machine

/-- The effect of a command on everything but the queue. -/
def exec (i : Instr) (s : State) : Host.Outcome State Fault Refusal :=
  match i with
  | .rd a => Sys2Proof.Machine.execRd a s
  | .rdOwn a => Sys2Proof.Machine.execRdOwn a s
  | .wr a => Sys2Proof.Machine.execWr a s
  | .wrAppend a => Sys2Proof.Machine.execWrAppend a s
  | .binvCompletion a => Sys2Proof.Machine.execBinvCompletion a s
  | .atFaddI32 a => Sys2Proof.Machine.execAtFaddI32 a s
  | .atFaddI64 a => Sys2Proof.Machine.execAtFaddI64 a s
  | .atFaddF32 a => Sys2Proof.Machine.execAtFaddF32 a s
  | .atFaddBf16 a => Sys2Proof.Machine.execAtFaddBf16 a s
  | .atMin a => Sys2Proof.Machine.execAtMin a s
  | .atMax a => Sys2Proof.Machine.execAtMax a s
  | .atSwap a => Sys2Proof.Machine.execAtSwap a s
  | .atCas64 a => Sys2Proof.Machine.execAtCas64 a s
  | .atCas128 a => Sys2Proof.Machine.execAtCas128 a s
  | .atAnd a => Sys2Proof.Machine.execAtAnd a s
  | .atOr a => Sys2Proof.Machine.execAtOr a s
  | .atXor a => Sys2Proof.Machine.execAtXor a s
  | .combinedFetchAdd a => Sys2Proof.Machine.execCombinedFetchAdd a s
  | .combineWindowClose entry => Sys2Proof.Machine.execCombineWindowClose entry s
  | .combinedReply a => Sys2Proof.Machine.execCombinedReply a s
  | .cpStart a => Sys2Proof.Machine.execCpStart a s
  | .cpData a => Sys2Proof.Machine.execCpData a s
  | .cpPieceComplete a => Sys2Proof.Machine.execCpPieceComplete a s
  | .ctrArm a => Sys2Proof.Machine.execCtrArm a s
  | .ctrArmDeadline wait => Sys2Proof.Machine.execCtrArmDeadline wait s
  | .reContrib a => Sys2Proof.Machine.execReContrib a s
  | .chunkDeadline chunk => Sys2Proof.Machine.execChunkDeadline chunk s
  | .chunkRecordExpiry record => Sys2Proof.Machine.execChunkRecordExpiry record s
  | .engineQueueRoom kind engine => Sys2Proof.Machine.execEngineQueueRoom kind engine s
  | .reResult a => Sys2Proof.Machine.execReResult a s
  | .reCmd a => Sys2Proof.Machine.execReCmd a s
  | .seSearch a => Sys2Proof.Machine.execSeSearch a s
  | .warrenInsert a => Sys2Proof.Machine.execWarrenInsert a s
  | .warrenDelete a => Sys2Proof.Machine.execWarrenDelete a s
  | .partitionScanStart scan => Sys2Proof.Machine.execPartitionScanStart scan s
  | .partitionScanEnd scan => Sys2Proof.Machine.execPartitionScanEnd scan s
  | .warrenUpdateTimeout update => Sys2Proof.Machine.execWarrenUpdateTimeout update s
  | .harvestStart comp warren part => Sys2Proof.Machine.execHarvestStart comp warren part s
  | .harvestCopyEnd die => Sys2Proof.Machine.execHarvestCopyEnd die s
  | .harvestOldRelease die => Sys2Proof.Machine.execHarvestOldRelease die s
  | .harvestFault die => Sys2Proof.Machine.execHarvestFault die s
  | .seAttn a => Sys2Proof.Machine.execSeAttn a s
  | .kvCreate a => Sys2Proof.Machine.execKvCreate a s
  | .kvFork a => Sys2Proof.Machine.execKvFork a s
  | .kvTruncate a => Sys2Proof.Machine.execKvTruncate a s
  | .kvTruncateApply held => Sys2Proof.Machine.execKvTruncateApply held s
  | .kvRelease a => Sys2Proof.Machine.execKvRelease a s
  | .kvScanStart scan => Sys2Proof.Machine.execKvScanStart scan s
  | .kvScanEnd scan => Sys2Proof.Machine.execKvScanEnd scan s
  | .kvHeldTimeout held => Sys2Proof.Machine.execKvHeldTimeout held s
  | .sePartial a => Sys2Proof.Machine.execSePartial a s
  | .geGather a => Sys2Proof.Machine.execGeGather a s
  | .geScatter a => Sys2Proof.Machine.execGeScatter a s
  | .geBag a => Sys2Proof.Machine.execGeBag a s
  | .geKvasm a => Sys2Proof.Machine.execGeKvasm a s
  | .geWalk a => Sys2Proof.Machine.execGeWalk a s
  | .ecMemberArrival flow group member a => Sys2Proof.Machine.execEcMemberArrival flow group member a s
  | .ecDecodeCycle flow group => Sys2Proof.Machine.execEcDecodeCycle flow group s
  | .eqxEcho port roundTrip => Sys2Proof.Machine.execEqxEcho port roundTrip s
  | .eqxTree port hops => Sys2Proof.Machine.execEqxTree port hops s
  | .eqxStart port startCycle => Sys2Proof.Machine.execEqxStart port startCycle s
  | .equinoxDayZero localCount => Sys2Proof.Machine.execEquinoxDayZero localCount s
  | .equinoxPhaseAdvance => Sys2Proof.Machine.execEquinoxPhaseAdvance s
  | .equinoxPhaseTimeout subject => Sys2Proof.Machine.execEquinoxPhaseTimeout subject s
  | .runningFabricJoin port day cycle => Sys2Proof.Machine.execRunningFabricJoin port day cycle s
  | .chEntry a => Sys2Proof.Machine.execChEntry a s
  | .voteReq a => Sys2Proof.Machine.execVoteReq a s
  | .chVote a => Sys2Proof.Machine.execChVote a s
  | .leaderNop => Sys2Proof.Machine.execLeaderNop s
  | .electionTimeout => Sys2Proof.Machine.execElectionTimeout s
  | .candidateTimeout => Sys2Proof.Machine.execCandidateTimeout s
  | .entryResend module index => Sys2Proof.Machine.execEntryResend module index s
  | .settleQueryTimeout index => Sys2Proof.Machine.execSettleQueryTimeout index s
  | .dayBoundary => Sys2Proof.Machine.execDayBoundary s
  | .funcDrainDeadline drain => Sys2Proof.Machine.execFuncDrainDeadline drain s
  | .graceEnd comp => Sys2Proof.Machine.execGraceEnd comp s
  | .softVerdictRepeat port peer => Sys2Proof.Machine.execSoftVerdictRepeat port peer s
  | .hbLost subject => Sys2Proof.Machine.execHbLost subject s
  | .verdictResend subject => Sys2Proof.Machine.execVerdictResend subject s
  | .heartbeat a => Sys2Proof.Machine.execHeartbeat a s
  | .faultReport a => Sys2Proof.Machine.execFaultReport a s
  | .fenceDevice a => Sys2Proof.Machine.execFenceDevice a s
  | .lendNotice a => Sys2Proof.Machine.execLendNotice a s
  | .lendDrainComplete lend => Sys2Proof.Machine.execLendDrainComplete lend s
  | .lendDeadline lend => Sys2Proof.Machine.execLendDeadline lend s
  | .completionReturn a => Sys2Proof.Machine.execCompletionReturn a s
  | .trayCompletion a => Sys2Proof.Machine.execTrayCompletion a s
  | .trayResend fetch => Sys2Proof.Machine.execTrayResend fetch s
  | .trayTimeout fetch => Sys2Proof.Machine.execTrayTimeout fetch s
  | .binvResend line ep => Sys2Proof.Machine.execBinvResend line ep s
  | .binvTimeout line => Sys2Proof.Machine.execBinvTimeout line s
  | .flaggedStoreTimeout store => Sys2Proof.Machine.execFlaggedStoreTimeout store s
  | .noPathTimeout request => Sys2Proof.Machine.execNoPathTimeout request s
  | .pathUpForward request => Sys2Proof.Machine.execPathUpForward request s
  | .ledgerRecordExpiry src seq => Sys2Proof.Machine.execLedgerRecordExpiry src seq s
  | .allocationWaitTimeout held => Sys2Proof.Machine.execAllocationWaitTimeout held s
  | .t1FrameFree => Sys2Proof.Machine.execT1FrameFree s
  | .denMoveDecision homeExt page dest tray trayPage => Sys2Proof.Machine.execDenMoveDecision homeExt page dest tray trayPage s
  | .t1FloorDemotion => Sys2Proof.Machine.execT1FloorDemotion s
  | .prefetchCursorAdvance comp => Sys2Proof.Machine.execPrefetchCursorAdvance comp s
  | .moveStart order => Sys2Proof.Machine.execMoveStart order s
  | .movePassEnd move => Sys2Proof.Machine.execMovePassEnd move s
  | .moveSourceFree move => Sys2Proof.Machine.execMoveSourceFree move s
  | .teQueueRoom engine => Sys2Proof.Machine.execTeQueueRoom engine s
  | .publicationHashDone publication => Sys2Proof.Machine.execPublicationHashDone publication s
  | .revocationDeadline comp ext => Sys2Proof.Machine.execRevocationDeadline comp ext s
  | .revocationComplete comp ext => Sys2Proof.Machine.execRevocationComplete comp ext s
  | .scrubPageDone engine => Sys2Proof.Machine.execScrubPageDone engine s
  | .scrubItemDone => Sys2Proof.Machine.execScrubItemDone s
  | .sweepPageDone slot => Sys2Proof.Machine.execSweepPageDone slot s
  | .sweepComplete slot => Sys2Proof.Machine.execSweepComplete slot s
  | .cellReceive port cell => Sys2Proof.Machine.execCellReceive port cell s
  | .frameDepart port => Sys2Proof.Machine.execFrameDepart port s
  | .ack port lseq => Sys2Proof.Machine.execAck port lseq s
  | .nak port lseq => Sys2Proof.Machine.execNak port lseq s
  | .credit port cls freed => Sys2Proof.Machine.execCredit port cls freed s
  | .release port lseq => Sys2Proof.Machine.execRelease port lseq s
  | .resend port lseq => Sys2Proof.Machine.execResend port lseq s
  | .dayMarker port dayLo late => Sys2Proof.Machine.execDayMarker port dayLo late s
  | .spareReq port failing spare hard => Sys2Proof.Machine.execSpareReq port failing spare hard s
  | .spareAck port failing spare switchDay => Sys2Proof.Machine.execSpareAck port failing spare switchDay s
  | .spareSwitchGuard lane => Sys2Proof.Machine.execSpareSwitchGuard lane s
  | .linkDown port reason => Sys2Proof.Machine.execLinkDown port reason s
  | .retxTimeout port => Sys2Proof.Machine.execRetxTimeout port s
  | .retxLimit port => Sys2Proof.Machine.execRetxLimit port s
  | .linkSilenceTimeout port => Sys2Proof.Machine.execLinkSilenceTimeout port s
  | .resendRepeat port lseq => Sys2Proof.Machine.execResendRepeat port lseq s
  | .tc6HoldExpiry port lseq => Sys2Proof.Machine.execTc6HoldExpiry port lseq s
  | .cutThroughStallLimit port => Sys2Proof.Machine.execCutThroughStallLimit port s
  | .laneHardTrigger lane => Sys2Proof.Machine.execLaneHardTrigger lane s
  | .laneSoftTrigger lane => Sys2Proof.Machine.execLaneSoftTrigger lane s
  | .alignmentLoss => Sys2Proof.Machine.execAlignmentLoss s
  | .settSample r => Sys2Proof.Machine.execSettSample r s
  | .throttleLower => Sys2Proof.Machine.execThrottleLower s
  | .leakN => Sys2Proof.Machine.execLeakN s
  | .denWatchdogExpiry core => Sys2Proof.Machine.execDenWatchdogExpiry core s
  | .channelRetire stack channel => Sys2Proof.Machine.execChannelRetire stack channel s
  | .channelFailure stack channel => Sys2Proof.Machine.execChannelFailure stack channel s
  | .stackLoss stack => Sys2Proof.Machine.execStackLoss stack s
  | .engineNoProgress kind engine => Sys2Proof.Machine.execEngineNoProgress kind engine s
  | .t0CarveError slice => Sys2Proof.Machine.execT0CarveError slice s
  | .unitResetEnd kind engine => Sys2Proof.Machine.execUnitResetEnd kind engine s
  | .warmResetEnd => Sys2Proof.Machine.execWarmResetEnd s
  | .packageResetEnd => Sys2Proof.Machine.execPackageResetEnd s
  | .inputTurnOn => Sys2Proof.Machine.execInputTurnOn s
  | .railFail => Sys2Proof.Machine.execRailFail s
  | .undervoltage => Sys2Proof.Machine.execUndervoltage s
  | .overvoltage => Sys2Proof.Machine.execOvervoltage s
  | .porN => Sys2Proof.Machine.execPorN s
  | .wakeN => Sys2Proof.Machine.execWakeN s
  | .pwrEn high => Sys2Proof.Machine.execPwrEn high s
  | .s3RealignRetry neighbour => Sys2Proof.Machine.execS3RealignRetry neighbour s
  | .keeperSign use => Sys2Proof.Machine.execKeeperSign use s
  | .signTokenRefill => Sys2Proof.Machine.execSignTokenRefill s
  | .bottomTreeBuilt => Sys2Proof.Machine.execBottomTreeBuilt s
  | .entropyFail => Sys2Proof.Machine.execEntropyFail s
  | .kpMboxCmd value => Sys2Proof.Machine.execKpMboxCmd value s
  | .kpMboxDoneClear value => Sys2Proof.Machine.execKpMboxDoneClear value s
  | .stWdogKick core => Sys2Proof.Machine.execStWdogKick core s
  | .portRetrain port => Sys2Proof.Machine.execPortRetrain port s
  | .stThreshWrite value => Sys2Proof.Machine.execStThreshWrite value s
  | .xbMirCtrlWrite value => Sys2Proof.Machine.execXbMirCtrlWrite value s
  | .xbMirRuleWrite rule word value => Sys2Proof.Machine.execXbMirRuleWrite rule word value s
  | .skewAlarmClear => Sys2Proof.Machine.execSkewAlarmClear s
  | .registerWriteOther addr value fromDen => Sys2Proof.Machine.execRegisterWriteOther addr value fromDen s
  | .finugFrame bytes => Sys2Proof.Machine.execFinugFrame bytes s
  | .finugAck isNak seq => Sys2Proof.Machine.execFinugAck isNak seq s
  | .finugRetxTimeout => Sys2Proof.Machine.execFinugRetxTimeout s
  | .finugPortDown => Sys2Proof.Machine.execFinugPortDown s
  | .finugLaneLoss lane => Sys2Proof.Machine.execFinugLaneLoss lane s
  | .kxHello version nonce chain => Sys2Proof.Machine.execKxHello version nonce chain s
  | .kxAccept handshake ciphertext signature => Sys2Proof.Machine.execKxAccept handshake ciphertext signature s
  | .kxClose m => Sys2Proof.Machine.execKxClose m s
  | .handshakeTimeout handshake => Sys2Proof.Machine.execHandshakeTimeout handshake s
  | .sessionLifetimeEnd session => Sys2Proof.Machine.execSessionLifetimeEnd session s
  | .lxMsg m peer kind body => Sys2Proof.Machine.execLxMsg m peer kind body s
  | .regRead m addrs => Sys2Proof.Machine.execRegRead m addrs s
  | .regWrite m pairs => Sys2Proof.Machine.execRegWrite m pairs s
  | .carveRead m slice offset length => Sys2Proof.Machine.execCarveRead m slice offset length s
  | .alBegin m txn participants => Sys2Proof.Machine.execAlBegin m txn participants s
  | .alStage m offset piece => Sys2Proof.Machine.execAlStage m offset piece s
  | .alSeal m => Sys2Proof.Machine.execAlSeal m s
  | .alCommit m txn day => Sys2Proof.Machine.execAlCommit m txn day s
  | .almanacPrepare txn => Sys2Proof.Machine.execAlmanacPrepare txn s
  | .almanacCommitEntry txn flipDay => Sys2Proof.Machine.execAlmanacCommitEntry txn flipDay s
  | .almanacRollbackEntry txn flipDay => Sys2Proof.Machine.execAlmanacRollbackEntry txn flipDay s
  | .alRollback m txn => Sys2Proof.Machine.execAlRollback m txn s
  | .txnTimeout => Sys2Proof.Machine.execTxnTimeout s
  | .txnVoteTimeout module => Sys2Proof.Machine.execTxnVoteTimeout module s
  | .alRead m bank offset length => Sys2Proof.Machine.execAlRead m bank offset length s
  | .extGrant m comp body day => Sys2Proof.Machine.execExtGrant m comp body day s
  | .extTake m comp body day => Sys2Proof.Machine.execExtTake m comp body day s
  | .extMode m comp body day => Sys2Proof.Machine.execExtMode m comp body day s
  | .keyRevoke m comp slot gen destroy day => Sys2Proof.Machine.execKeyRevoke m comp slot gen destroy day s
  | .lendGrant m lender base pages home => Sys2Proof.Machine.execLendGrant m lender base pages home s
  | .pubRegion m comp region anchor => Sys2Proof.Machine.execPubRegion m comp region anchor s
  | .publish m comp region version base extents => Sys2Proof.Machine.execPublish m comp region version base extents s
  | .promote m comp region version => Sys2Proof.Machine.execPromote m comp region version s
  | .retire m comp region version => Sys2Proof.Machine.execRetire m comp region version s
  | .pinClear m comp region version count => Sys2Proof.Machine.execPinClear m comp region version count s
  | .warrenCreate m spec => Sys2Proof.Machine.execWarrenCreate m spec s
  | .warrenDissolve m comp warren => Sys2Proof.Machine.execWarrenDissolve m comp warren s
  | .harvest m comp warren part => Sys2Proof.Machine.execHarvest m comp warren part s
  | .fence m body day => Sys2Proof.Machine.execFence m body day s
  | .admission m device comp asSpare => Sys2Proof.Machine.execAdmission m device comp asSpare s
  | .attest m nonce => Sys2Proof.Machine.execAttest m nonce s
  | .fwStage m offset piece => Sys2Proof.Machine.execFwStage m offset piece s
  | .fwActivate m => Sys2Proof.Machine.execFwActivate m s
  | .fwCommit m => Sys2Proof.Machine.execFwCommit m s
  | .ownerEnrol m root => Sys2Proof.Machine.execOwnerEnrol m root s
  | .ownerTransfer m root statement => Sys2Proof.Machine.execOwnerTransfer m root statement s
  | .idRoll m => Sys2Proof.Machine.execIdRoll m s
  | .resetUnit m kind engine => Sys2Proof.Machine.execResetUnit m kind engine s
  | .resetWarm m => Sys2Proof.Machine.execResetWarm m s
  | .resetPackage m => Sys2Proof.Machine.execResetPackage m s
  | .resetPowerOn m => Sys2Proof.Machine.execResetPowerOn m s
  | .enterS1 m => Sys2Proof.Machine.execEnterS1 m s
  | .enterS3 m => Sys2Proof.Machine.execEnterS3 m s
  | .leaveS1 m => Sys2Proof.Machine.execLeaveS1 m s
  | .subscribe m mask rateLog2 samples => Sys2Proof.Machine.execSubscribe m mask rateLog2 samples s
  | .unsubscribe m mask => Sys2Proof.Machine.execUnsubscribe m mask s
  | .telemetrySample session => Sys2Proof.Machine.execTelemetrySample session s
  | .linkUp port delay training => Sys2Proof.Machine.execLinkUp port delay training s
  | .dayMarkerSend port => Sys2Proof.Machine.execDayMarkerSend port s
  | .requestDeadline work => Sys2Proof.Machine.execRequestDeadline work s
  | .entropyTestsPass => Sys2Proof.Machine.execEntropyTestsPass s
  | .topTreeCacheRebuilt => Sys2Proof.Machine.execTopTreeCacheRebuilt s
  | .keeperRequestDone status answer => Sys2Proof.Machine.execKeeperRequestDone status answer s
  | .finugLaneLock lane => Sys2Proof.Machine.execFinugLaneLock lane s

end Sys2Proof.Machine
end

