-- ==== Sys2Proof/Safety.lean ====
section
/-! DEFINITION. What counts as a safe state, and the terms in which statements are made: storage in its one canonical form, a
module with no work waiting, a command that is accepted. -/

namespace Sys2Proof.Machine

/-- Storage is in its canonical form. -/
abbrev State.memOk (s : State) : Prop := Memory.wf s.mem = true

/-- An outcome is a next state of which a property holds, a fault or a refusal being none. -/
def Completes (o : Host.Outcome State Fault Refusal) (p : State → Prop) : Prop := ∃ t, o = .next t ∧ p t

/-- No work waits in the module: nothing sent to itself, no request, scan, search or update that could go on, no held store, no
withheld credits and none that should be. What follows a command then changes nothing. -/
def Quiet (s : State) : Bool :=
  s.xb.loop.isEmpty && s.xb.flagged.isEmpty && s.xb.waiting.isEmpty && s.xb.leases.isEmpty
    && s.xb.outstanding.all (fun p => decide (p.2.length < 16384))
    && s.eng.queue.isEmpty && s.eng.searches.isEmpty && s.eng.attns.isEmpty && s.eng.updates.isEmpty && s.eng.kvHeld.isEmpty
    && s.eng.kvScans.isEmpty && s.eng.parked.isEmpty && s.home.held.isEmpty && s.home.fetched.isEmpty
    && s.ports.all (fun p => p.2.withheld.isEmpty) && decide (s.power.step < 4)

/-- The Chronicle and the Almanac wait for nothing either: no vote to count, no command of the control node to answer. -/
def QuietAll (s : State) : Bool := Quiet s && s.ch.inbox.isEmpty && s.ch.waiting.isEmpty

/-- The answer to a command whose own effect makes `u` of `s`: a next state, in which the work that may now go on has gone on. -/
def After (s u : State) : Out := commit s (settle u)

/-- The same of a command of the Chronicle: votes that have come back are counted too. -/
def AfterEntry (s u : State) : Out := commit s (finish u)

/-- The same of a command of the control node: commands whose time has come are answered too. -/
def AfterAll (s u : State) : Out := commit s (finishAll u)

/-- A session `x` accepts the command `m` (R392, R463): the Den can handle commands, the number is above every one accepted, and fewer
than 64 commands wait for an answer. -/
def Accepts (s : State) (m : CmdRef) (x : Session) : Prop :=
  denUp s = true ∧ s.fn.inbox = [] ∧ KMap.find s.kp.sessions m.session.toNat = some x ∧ x.lastSeq < m.seq.toNat ∧ x.unanswered.length < 64

/-- What acceptance leaves: the session's highest number, its count and its open commands, and the code that the answer will carry. -/
def accepted (s : State) (m : CmdRef) (code : Nat) (x : Session) : State :=
  let x := { x with lastSeq := m.seq.toNat, commands := x.commands + 1, unanswered := x.unanswered ++ [m.seq] }
  (s.setKp { s.kp with sessions := KMap.put s.kp.sessions m.session.toNat x }).setFn
    { s.fn with codes := s.fn.codes.filter (fun c => c.1 != m) ++ [(m, .ofNat 16 code)] }

/-- What the first hop notes of a request of an edge port that goes on. -/
def goesOut (s : State) (r : Req) : State :=
  if isStoreOp r.hdr.opcode.toNat then withholdPort (noteOut s r) r.port
  else if leased r then
    let (id, s) := s.fresh
    withholdPort (noteOut (s.setXb { s.xb with leases := KMap.put s.xb.leases id { req := r, pool := r.hdr.dest } }) r) r.port
  else noteOut s r

/-- A whole request row of `TC1` to `TC7` comes in on a live port, passes the checks of R86 on its admission, and this module is its destination:
`u` is the state in which it is served, `r` the request as it is served. From a fabric port it is as it came; from an edge port it is well
formed, its extent gives this module as its home, and neither store order nor an older lease holds it back. -/
def Reaches (s : State) (a : Arrival) (op : Nat) (u : State) (r : Req) : Prop :=
  ∃ b, s.bind a.port.toNat = some b ∧
    let q := portReq s b a.port.toNat none (asRequest op a.frame)
    let t := markSource (frameHeard s a.port.toNat q.hdr) q
    portLive s a.port.toNat = true ∧ q.hdr.cls ≠ 0 ∧ q.rx = none ∧ (op < 0x70 ∨ q.poisoned = false) ∧ earlyCheck t q.edge q.hdr = none
      ∧ (q.edge && mergeFields q) = false
      ∧ u = freeReq (if b.fabric then t else goesOut t r) r
      ∧ ((b.fabric = true ∧ q.hdr.dest = s.self ∧ r = q)
        ∨ (b.fabric = false ∧ formatOk (frameHeard s a.port.toNat q.hdr) b q.hdr (reqSize q) = true ∧ r = { q with hdr := { q.hdr with dest := s.self } }
            ∧ (if addressRouted op then targetOf t q = some s.self ∧ isFenced t s.self = false else q.hdr.dest = s.self)
            ∧ s.xb.flagged = [] ∧ heldHere s r = false ∧ (outOf s r.hdr.src).contains (outKey r) = false
            ∧ (r.hdr.isFence = true → storesOut s r.hdr.src = []) ∧ s.xb.leases = []))

/-- A whole frame `f` of `TC1` to `TC7` without completion comes in on a live port, well formed where that is an edge port, and this module takes it:
`u` is the state in which it is taken, `r` the frame as it is taken. A result (0x41) is taken by the node that it passes, and sent on from
there. -/
def Lands (s : State) (port : Nat) (f : Frame) (u : State) (r : Req) : Prop :=
  ∃ b, s.bind port = some b ∧ portLive s port = true ∧ r = portReq s b port none f ∧ r.hdr.cls ≠ 0 ∧ r.rx = none
    ∧ (r.hdr.opcode.toNat < 0x70 ∨ r.poisoned = false)
    ∧ (b.fabric = true ∨ formatOk (frameHeard s port r.hdr) b r.hdr (reqSize r) = true)
    ∧ (r.hdr.opcode = 0x41 ∨ r.hdr.dest = s.self ∨ r.hdr.dest = 0)
    ∧ u = if r.hdr.opcode = 0x41 then frameHeard s port r.hdr else doneWith (frameHeard s port r.hdr) r

/-- A whole completion comes in on a live fabric port for this module itself: `u` is the state in which it is taken, `f` the frame. -/
def Returns (s : State) (a : Arrival) (u : State) (f : Frame) : Prop :=
  ∃ b, s.bind a.port.toNat = some b ∧ b.fabric = true ∧ portLive s a.port.toNat = true ∧ f = asCompletion a.frame ∧ f.rx = none ∧ f.hdr.dest = s.self
    ∧ u = doneWith (frameHeard s a.port.toNat f.hdr) (portReq s b a.port.toNat none f)

/-- A running module with no work waiting, its storage in canonical form. -/
def Calm (s : State) : Prop := s.running = true ∧ Quiet s = true ∧ s.memOk

end Sys2Proof.Machine
end

