-- ==== Sys2Proof/Certificates/Slice0/Obligations.lean ====
section
/-! DEFINITION. The statements about the machine. In them `commit`, `After`, `AfterEntry` and `AfterAll` stand for an answer that is
a next state: the state that is given, with the work that may now go on done where the name says so. -/

section Statements

open Sys2Proof Sys2Proof.Machine

/-! ## Trays, lenders and back-invalidates that do not answer (R144, R191, R509) -/

/-- R191: a frame to a tray or lender without an answer for 64 Days goes again with the same `SEQ` and with `RETRY` set; R144: the
same of a back-invalidate, until 1,024 Days have passed since the first. -/
def Obligations.SilentPeersAskedAgain : Prop :=
  (∀ (s : State) (id : Nat) (f : Fetch), s.running = true → KMap.find s.home.fetches id = some f → f.lastDay + 64 ≤ s.day →
    exec (.trayResend id) s =
      (let t := s.setHome { s.home with fetches := KMap.put s.home.fetches id { f with lastDay := s.day } }
       let o : OwnReq := { why := .fetch id, dest := f.ep, opcode := f.frame.hdr.opcode, addr := f.frame.hdr.addr, etag := f.frame.hdr.etag }
       After s (sendRequest (t.setXb { t.xb with own := KMap.put t.xb.own (pairKey f.ep f.frame.hdr.seq) o })
         { f.frame with hdr := { f.frame.hdr with flags := f.frame.hdr.flags ||| flagRetry } })))
  ∧ (∀ (s : State) (line : Nat) (ep : Ep) (b : BinvSt), s.running = true → KMap.find s.home.binv line = some b → ep ∈ b.await →
    b.lastDay + 64 ≤ s.day → s.day < b.firstDay + 1024 →
    exec (.binvResend line ep) s =
      After s (b.await.foldl (fun s e => repeatBinv s b.comp line e)
        (s.setHome { s.home with binv := KMap.put s.home.binv line { b with lastDay := s.day } })))

/-- R191: a read whose tray or lender has not answered for 192 Days completes `TIMEOUT` (0x50), and the module reports the store.
R144: what waits on a line whose back-invalidate has had no completion for 1,024 Days completes `TIMEOUT`, the endpoints are reported,
and the line keeps its directory state. -/
def Obligations.SilentPeersTimeOut : Prop :=
  (∀ (s : State) (id : Nat) (f : Fetch) (r : Req), s.running = true → KMap.find s.home.fetches id = some f → f.firstDay + 192 ≤ s.day →
    f.why = .read r →
    ∃ kind, (kind = 5 ∨ kind = 6) ∧ exec (.trayTimeout id) s =
      (let t := report s f.ep 0 kind 0x0D 0xFF
       After s (completeStatus (accessEnds (t.setHome { t.home with fetches := KMap.del t.home.fetches id }) f) r 0x50)))
  ∧ (∀ (s : State) (line : Nat) (b : BinvSt), s.running = true → KMap.find s.home.binv line = some b → b.firstDay + 1024 ≤ s.day →
    s.home.held = [] → s.eng.searches = [] → s.eng.attns = [] →
    exec (.binvTimeout line) s =
      After s (b.await.foldl (fun s e => report s e 0 0 0x09 0xFF) (s.setHome { s.home with binv := KMap.del s.home.binv line })))

/-! ## Requests that wait too long (R158, R163, R166, R176, R189, R506) -/

/-- Requests held at a first hop or a home complete `TIMEOUT` (0x50) at their deadlines: a flagged store after 4,096 Days (R163), a
request without a path after 64 (R506), an armed wait at the deadline it names (R158), and a request that waits 1,024 Days for a
frame of T1 (R176, R189). R166: two Weeks (8,192 Days) after it was made a ledger record goes, and the expired mark of its source rises to its `SEQ`. R506: a request that waited goes out on the port that its path now has, and waits no more. -/
def Obligations.WaitsEnd : Prop :=
  ((∀ (s : State) (id : Nat) (f : FlagHeld), s.running = true → KMap.find s.xb.flagged id = some f → f.flagged = true → f.day + 4096 ≤ s.day →
    exec (.flaggedStoreTimeout id) s =
      After s (completeStatus (freeReq (s.setXb { s.xb with flagged := KMap.del s.xb.flagged id }) f.req) f.req 0x50))
  ∧ (∀ (s : State) (id : Nat) (w : PathWait), s.running = true → KMap.find s.xb.waiting id = some w → w.day + 64 ≤ s.day →
    nextPort s w.req.hdr.src w.req.hdr.dest w.req.hdr.cls = none → w.req.hdr.isResp = false → w.req.hdr.src ≠ s.self →
    exec (.noPathTimeout id) s =
      After s (completeStatus (freeReq (s.setXb { s.xb with waiting := KMap.del s.xb.waiting id }) w.req) w.req 0x50))
  ∧ (∀ (s : State) (id : Nat) (w : ArmedWait), KMap.find s.home.waits id = some w → w.deadline ≤ s.day →
    exec (.ctrArmDeadline id) s =
      (let t := s.setHome { s.home with waits := KMap.del s.home.waits id }
       After s (completeStatus (addHold t (w.counter / 2 ^ 30) (w.counter / 65536 % 2 ^ 14) false) w.req 0x50)))
  ∧ (∀ (s : State) (id : Nat) (h : HeldReq), s.running = true → s.home.held = [(id, h)] → h.why = .alloc → h.day + 1024 ≤ s.day →
    moveOf s h.homeExt h.page = none → allocFrames s (moveUnits (s.extCodec h.homeExt).1) = none →
    exec (.allocationWaitTimeout id) s =
      After s (failWork (s.setHome { s.home with orders := KMap.keep s.home.orders (fun _ o =>
        !(o.homeExt == h.homeExt && o.page == h.page && o.kind == .promote)) }) h.req 0x50)))
  ∧ (∀ (s : State) (src : Ep) (seq : BitVec 32) (l : LedgerRec), s.running = true → KMap.find s.home.ledger (pairKey src seq) = some l →
    l.day + 8192 ≤ s.day → markOf s src = none →
    exec (.ledgerRecordExpiry src seq) s =
      After s (s.setHome { s.home with ledger := KMap.del s.home.ledger (pairKey src seq), marks := KMap.put s.home.marks src.toNat (.at_ seq) }))
  ∧ (∀ (s : State) (id : Nat) (w : PathWait) (p : Nat), s.running = true → s.xb.waiting = [(id, w)] → w.req.edge = false → w.req.hdr.cls ≠ 0 →
    w.req.hdr.isResp = false → w.req.hdr.noCombine = true → s.xb.combine = [] → nextPort s w.req.hdr.src w.req.hdr.dest w.req.hdr.cls = some p →
    exec (.pathUpForward id) s = After s (forwardReq (s.setXb { s.xb with waiting := [] }) w.req p))

/-! ## Tiers and lends (R181 to R195, R207, R208, R226) -/

/-- R207: when the last page of a withdrawn lend has flipped and no access to it is left, the lend ends and its release goes to the
lender. R208: a lend that is still open 65,536 Days after its notice ends. -/
def Obligations.LendsEnd : Prop :=
  (∀ (s : State) (id : BitVec 8) (l : Lend), s.running = true → KMap.find s.home.lends id.toNat = some l → l.ended = false →
    l.notice.isSome = true → pagesAt s (inLend id.toNat) = [] → fetchesIn s l = [] → s.home.olds = [] →
    exec (.lendDrainComplete id) s = After s (sendRelease (endLend s id.toNat l) id.toNat l.lender))
  ∧ (∀ (s : State) (id : BitVec 8) (l : Lend) (d : Nat), s.running = true → KMap.find s.home.lends id.toNat = some l → l.ended = false →
    l.notice = some d → d + 65536 ≤ s.day → pagesAt s (inLend id.toNat) = [] → fetchesIn s l = [] →
    exec (.lendDeadline id) s = After s (endLend s id.toNat l))

/-- R181, R184, R189: the Den's decision becomes an order for the page; a free frame of T1 starts the promotion that waits for one; a
shortage of free T1 frames orders the demotion of the coldest page that may go. -/
def Obligations.MovesAreOrdered : Prop :=
  (∀ (s : State) (he : BitVec 20) (page : BitVec 14) (dest : Tier) (tray : Ep) (trayPage : BitVec 40), s.running = true →
    (s.homeExt he.toNat).isSome = true → dest ≠ .t2 →
    exec (.denMoveDecision he page dest tray trayPage) s =
      After s (orderMove s { homeExt := he.toNat, page := page.toNat, dest := dest, ep := 0, trayPage := trayPage.toNat, kind := .den }))
  ∧ (∀ (s : State) (id : Nat) (o : MoveOrder), s.running = true → s.home.orders = [(id, o)] → o.kind = .promote →
    exec .t1FrameFree s = After s (startMove s id))
  ∧ (∀ (s : State) (he page : Nat) (x : HomeExt) (p : Pte), s.running = true → s.home.exts = [(he, x)] → x.pages = [(page, p)] →
    p.state = .resident → p.loc.tier = .t1 → p.pin = false → p.written = false → p.anchor = false → p.hold = 0 →
    isF p.codec.toNat = false → s.home.orders = [] → freeFrames s < s.alm.cur.settings.t1FreeFloor → pickLend s x.comp (moveUnits (s.pte he page).codec.toNat) = none →
    exec .t1FloorDemotion s = After s (orderMove s { homeExt := he, page := page, dest := .t2, ep := 0, trayPage := 0, kind := .den }))

/-- R185: an ordered move starts when none of a higher precedence could; a pass that left more than 32 dirty lines is followed by
another, up to four in all, and then the flip. R186: the source is freed once no access is translated to it. -/
def Obligations.MovesRun : Prop :=
  (∀ (s : State) (id : Nat) (o : MoveOrder), s.running = true → s.home.orders = [(id, o)] →
    exec (.moveStart id) s = After s (startMove s id))
  ∧ (∀ (s : State) (id : Nat) (m : MoveRec), s.running = true → KMap.find s.home.moves id = some m →
    (moveGroup s m).any (fun x => moveWaits s x.1) = false → (m.src.lower = false ∨ m.dst.lower = false ∨ m.passes ≠ 0) →
    exec (.movePassEnd id) s = After s
      (if m.dirty.length > 32 ∧ m.passes < 3 then
        s.setHome { s.home with moves := KMap.put s.home.moves id { m with passes := m.passes + 1, dirty := [] } }
       else flipGroup s (moveGroup s m)))
  ∧ (∀ (s : State) (id : Nat) (o : OldSource), s.running = true → KMap.find s.home.olds id = some o → o.accesses = 0 →
    exec (.moveSourceFree id) s = After s (dropLoc (s.setHome { s.home with olds := KMap.del s.home.olds id }) o.loc o.units))

/-- R194, R195: an advance of a prefetch cursor pins the page its window holds. R226: a Tier engine that takes a block has one block
fewer in its queue. -/
def Obligations.TierQueuesAdvance : Prop :=
  (∀ (s : State) (c : BitVec 12) (p : Prefetch) (v : Nat) (later : List Nat) (e : W64 × W64) (q : Nat × Nat), s.running = true →
    (s.compEntry c).bind (·.prefetch) = some p → KMap.find s.home.cursor c.toNat = some (v :: later) → p.entries = [e] → p.lead = 0 → p.keep = 0 →
    prefetchPages s c (pfEntry e) = [q] →
    (let u := s.setHome { s.home with cursor := KMap.put s.home.cursor c.toNat later }
     let t := u.updPte q.1 q.2 (fun x => { x with pin := true })
     (t.pte q.1 q.2).state = .resident → (t.pte q.1 q.2).loc.tier = (if (pfEntry e).2.2 then .t0 else .t1) →
     exec (.prefetchCursorAdvance c) s = After s t))
  ∧ (∀ (s : State) (n : BitVec 4), s.running = true →
    exec (.teQueueRoom n) s = After s (s.updTe n.toNat (fun t => { t with queue := t.queue - 1 })))

/-! ## Scrubs, sweeps, revocations and publications (R198, R370, R401, R403, R498) -/

/-- R403: a Scrub engine in service, below throttle step 3, finishes the first page of the first item of the queue; the page is unmapped,
its place is freed and the page is counted. R370, R403: an item with nothing left is finished: a key-lost extent is clean, and a
revoked extent's completion is proposed to the Chronicle. -/
def Obligations.ScrubsProceed : Prop :=
  (∀ (s : State) (e : BitVec 2) (id p : Nat) (i : ScrubItem) (rest : List Nat), s.running = true → firstItem s = some (id, i) →
    i.begun = true → i.pages = p :: rest → s.home.fetches = [] → s.power.step < 3 → (s.engine .scrub e.toNat).state = .service →
    exec (.scrubPageDone e) s =
      After s ((scrubbedPage (s.setScrub (KMap.put s.scrub id { i with pages := i.pages.filter (· != p) })) i.homeExt p).updEngine .scrub e.toNat
        (fun x => { x with c0 := satAdd 32 x.c0 1 })))
  ∧ (∀ (s : State) (id : Nat) (i : ScrubItem), s.running = true → firstItem s = some (id, i) → i.pages = [] → i.trayFrames = 0 →
    s.home.fetches = [] →
    (i.kind = .keyLost → exec .scrubItemDone s = AfterAll s ((s.setScrub (KMap.del s.scrub id)).updExt i.homeExt extentClean))
    ∧ (i.kind = .extent → exec .scrubItemDone s = AfterAll s (propose (s.setScrub (KMap.del s.scrub id)) i.comp (.done (.ofNat 20 i.idx)) 0)))

/-- R401, R498: a page of a sweep in T1 is rewritten into a free frame of its stack, its place switched and the watermark passed in one
step; when no page is left the older key is destroyed. -/
def Obligations.SweepsProceed : Prop :=
  (∀ (s : State) (slot : BitVec 10) (w : Sweep) (k : KeySlot) (he page stack frame f : Nat) (rest : List (Nat × Nat)), s.running = true →
    KMap.find s.sweeps slot.toNat = some w → KMap.find s.kp.slots slot.toNat = some k → s.scrub = [] → s.power.step < 3 →
    pagesAhead s k = (he, page) :: rest → (s.pte he page).state = .resident → (s.pte he page).loc = .t1 stack frame →
    isF (s.pte he page).codec.toNat = false → freeRunFrom s stack 1 (frameFuel s stack 1) 0 = some f →
    exec (.sweepPageDone slot) s =
      (let t := takeFrames s stack f 1
       let u := t.setMem (Memory.writeBytes t.mem (t1Base + (stack * 786432 + f) * 65536) (Memory.readBytes t.mem (t1Base + (stack * 786432 + frame) * 65536) 65536))
       After s (sweepSwitch u slot.toNat { w with pagesLeft := (he, page) :: rest } he page (.t1 stack f))))
  ∧ (∀ (s : State) (slot : BitVec 10) (w : Sweep) (k : KeySlot), s.running = true → KMap.find s.sweeps slot.toNat = some w →
    KMap.find s.kp.slots slot.toNat = some k → pagesAhead s k = [] →
    exec (.sweepComplete slot) s =
      (let k : KeySlot := { k with state := 1, keys := KMap.keep k.keys (fun g _ => g == k.gen.toNat), sweepExt := 0, sweepPage := 0 }
       AfterAll s ((s.setKp { s.kp with slots := KMap.put s.kp.slots slot.toNat k }).setSweeps (KMap.del s.sweeps slot.toNat))))

/-- R370: 4,096 Days after a revocation the home stops what is still in flight; with nothing in flight the extent's mapped pages go to the
Scrub engines. R199: a frozen version that is hashed and has no store left is proposed to the Chronicle. -/
def Obligations.RevocationsAndPublicationsProceed : Prop :=
  (∀ (s : State) (c : BitVec 12) (e : BitVec 20) (r : RevSt), s.running = true → KMap.find (s.comp c).rev e.toNat = some r → r.home = s.self →
    r.revDay + 4096 ≤ s.day →
    (r.stopped = false → exec (.revocationDeadline c e) s =
      After s ((stopExtent s c e.toNat).updComp c (fun x => { x with rev := KMap.put x.rev e.toNat { r with stopped := true } })))
    ∧ (∀ x : HomeExt, s.homeExt r.homeExt = some x → r.scrubbing = false → inFlight s c e.toNat = 0 → exec (.revocationComplete c e) s =
        (let pages := (x.pages.filter (fun p => p.2.state != .unmapped)).map (·.1)
         let i : ScrubItem := { kind := .extent, homeExt := r.homeExt, comp := c, idx := e.toNat, pages := pages, trayFrames := 0, begun := false }
         let t := s.setNextId (s.nextId + 1)
         After s ((t.setScrub (KMap.put t.scrub s.nextId i)).updComp c (fun x => { x with rev := KMap.put x.rev e.toNat { r with scrubbing := true } })))))
  ∧ (∀ (s : State) (id : Nat) (v : Publication), s.running = true → KMap.find s.home.pubs id = some v → v.hashed = false →
    storesLeft s v = false → blocksToHash s v = [] → (ownExtent s v.comp (v.base / 2 ^ 30)).isSome = true →
    ∃ h : BitVec 256, exec (.publicationHashDone id) s =
      (let t := (contentHash s v).2
       let w := { v with hashed := true, hash := h, blocks := [] }
       AfterAll s (propose (t.setHome { t.home with pubs := KMap.put t.home.pubs id w }) v.comp (.publication v.region v.version h (.ofNat 64 v.base) false) 0)))

/-! ## Resets (R484, R493, R495 to R497) -/

/-- R493: an engine that makes no progress gets a unit reset at the next Day; an error in a carve of T0 a package reset. R484: the control
node's `RESET` commands of classes 0x1 to 0x3 order the same. -/
def Obligations.ResetsAreOrdered : Prop :=
  (∀ (s : State) (k : EngineKind) (n : BitVec 6), s.running = true → enginePresent s k n.toNat = true → (s.engine k n.toNat).state = .service →
    KMap.find s.rst.units (engKey k n.toNat) = none →
    exec (.engineNoProgress k n) s = commit s (s.setRst { s.rst with units := KMap.put s.rst.units (engKey k n.toNat) (s.day, none) }))
  ∧ (∀ (s : State) (n : BitVec 9), s.running = true → n.toNat < slicesOf s.variant →
    exec (.t0CarveError n) s = commit s (s.setRst { s.rst with order := some .package }))
  ∧ (∀ (s : State) (m : CmdRef) (x : Session) (k : EngineKind) (n : BitVec 6), Accepts s m x → enginePresent s k n.toNat = true →
    (s.engine k n.toNat).state = .service → KMap.find s.rst.units (engKey k n.toNat) = none →
    exec (.resetUnit m k n) s =
      AfterAll s ((accepted s m 0x58 x).setRst { s.rst with units := KMap.put s.rst.units (engKey k n.toNat) (s.day, some m) }))
  ∧ (∀ (s : State) (m : CmdRef) (x : Session), Accepts s m x → s.rst.order = none →
    exec (.resetWarm m) s = AfterAll s ((accepted s m 0x58 x).setRst { s.rst with order := some .warm, answerTo := some m })
    ∧ exec (.resetPackage m) s = AfterAll s ((accepted s m 0x58 x).setRst { s.rst with order := some .package, answerTo := some m }))

/-- R495: a unit reset ends 16 Days after it was asserted: the engine is in service again, or, after its third in one Week, retired. R496, R497: a warm reset ends after 40 ms and a package reset after 1.30 s: the dies run again, a package reset's tables are rebuilt,
what came due is taken, and the module holds itself fenced. -/
def Obligations.ResetsEnd : Prop :=
  (∀ (s : State) (k : EngineKind) (n : BitVec 6) (d : Nat), s.running = true → KMap.find s.rst.units (engKey k n.toNat) = some (d, none) →
    d + 17 ≤ s.day → (s.engine k n.toNat).state = .held → s.eng.chunks = [] →
    exec (.unitResetEnd k n) s =
      After s ((s.setRst { s.rst with units := KMap.del s.rst.units (engKey k n.toNat) }).updEngine k n.toNat
        (fun e => { e with state := if 3 ≤ (s.engine k n.toNat).weekResets then .retired else .service })))
  ∧ ((∀ (s : State) (d : Nat), s.rst.running = some (.warm, d) → d ≤ s.day →
    exec .warmResetEnd s = AfterAll s (answerReset (holdFenced (answerUnits (dueActions (coreStarts s))))))
  ∧ (∀ (s : State) (d : Nat), s.rst.running = some (.package, d) → d ≤ s.day →
    exec .packageResetEnd s = AfterAll s (answerReset (holdFenced (dueActions (rebuildTables (coreStarts (s.setScrub []))))))))

/-! ## The Sett: samples, throttling, power states and shutdowns (R481 to R494) -/

/-- R486, R488: a sample of the Sett below `T_SHUTDOWN` goes into the filters and decides the throttle step: a raw current above 2,000 W
at the input voltage takes it to 4 at once, a temperature or power limit raises it by one, else it stays. A full 1 ms below the limits
lowers it by one. -/
def Obligations.ThrottleFollowsSamples : Prop :=
  (∀ (s : State) (r : SettReading), s.power.inputOn = true → (takeSample s.power r).tMax < 110 → r.wakeLow = false →
    exec (.settSample r) s =
      (let p := takeSample s.power r
       After s (setStep (s.setPower p)
         (if r.currentMA.toNat * r.voltageMV.toNat > 2000000000 then 4
          else if p.tMax ≥ p.tThrottle ∨ p.pNow ≥ p.pLimit * 65536 then min 4 (p.step + 1) else p.step))))
  ∧ (∀ s : State, s.power.inputOn = true → 100 ≤ s.power.okSamples → 0 < s.power.step →
    exec .throttleLower s = After s (setStep (s.setPower { s.power with okSamples := 0 }) (s.power.step - 1)))

/-- R481, R490, R491: a leak, a rail that fails and an undervoltage leave a module whose rails are up in S3, unaligned, with
`THERMTRIP_N` low after the leak alone and `SB_ALERT_N` low after the rail; an overvoltage leaves it Off. -/
def Obligations.ShutdownsCutPower : Prop :=
  (∀ s : State, s.power.inputOn = true → railsUp s = true →
    Completes (exec .leakN s) (fun t => t.power.pstate = .s3 ∧ t.power.thermtripLow = true ∧ t.time.aligned = false ∧ t.time.hasCount = false))
  ∧ (∀ s : State, s.power.inputOn = true → railsUp s = true →
    Completes (exec .railFail s) (fun t => t.power.pstate = .s3 ∧ t.power.thermtripLow = false ∧ t.power.alertLow = true ∧ t.time.aligned = false))
  ∧ (∀ s : State, railsUp s = true →
    Completes (exec .undervoltage s) (fun t => t.power.pstate = .s3 ∧ t.time.aligned = false ∧ t.time.hasCount = false))
  ∧ (∀ s : State, s.power.inputOn = true →
    Completes (exec .overvoltage s) (fun t => t.power.pstate = .off ∧ t.power.inputOn = false))

/-- R485, R491, R493: the power-up sequence runs when the input turns on, on `POR_N` and on a rising `PWR_EN` in S3, and leaves the module
in P0 where `PWR_EN` is high; `WAKE_N` leaves S1 for P0, unaligned, and runs the sequence from S3. -/
def Obligations.PowerUpEndsInP0 : Prop :=
  (∀ s : State, s.power.inputOn = false → s.power.pwrEn = true → Completes (exec .inputTurnOn s) (fun t => t.power.pstate = .p0 ∧ t.eqx.phase = 1))
  ∧ (∀ s : State, s.power.inputOn = true → s.power.pwrEn = true → Completes (exec .porN s) (fun t => t.power.pstate = .p0 ∧ t.eqx.phase = 1))
  ∧ (∀ s : State, s.power.inputOn = true → s.power.pstate = .s1 →
    Completes (exec .wakeN s) (fun t => t.power.pstate = .p0 ∧ t.time.aligned = false ∧ t.time.hasCount = false ∧ t.mem = Memory.canon s.mem))
  ∧ (∀ s : State, s.power.inputOn = true → s.power.pstate = .s3 → s.power.pwrEn = true →
    Completes (exec .wakeN s) (fun t => t.power.pstate = .p0 ∧ t.power.thermtripLow = false))
  ∧ (∀ s : State, s.power.inputOn = true → s.power.pstate = .s3 → s.power.pwrEn = false →
    Completes (exec (.pwrEn true) s) (fun t => t.power.pstate = .p0 ∧ t.power.pwrEn = true))
  ∧ (∀ s : State, exec (.pwrEn false) s = commit s (s.setPower { s.power with pwrEn := false }))

/-- R484, R485: `RESET` classes 0x4 to 0x7: a power-on reset that answers `OK`; S1 and S3 of a fenced module, answered just before entry;
and S1 left for P0. -/
def Obligations.PowerCommandsAct : Prop :=
  (∀ (s : State) (m : CmdRef) (x : Session), Accepts s m x →
    exec (.resetPowerOn m) s = AfterAll s (answer (powerOnReset (accepted s m 0x58 x)) m 0 0 []))
  ∧ (∀ (s : State) (m : CmdRef) (x : Session), Accepts s m x → fencedSelf s = true →
    (s.power.pstate = .p0 → exec (.enterS1 m) s = AfterAll s (enterS1 (answer (accepted s m 0x58 x) m 0 0 [])))
    ∧ exec (.enterS3 m) s = AfterAll s (sleep (answer (accepted s m 0x58 x) m 0 0 [])))
  ∧ (∀ (s : State) (m : CmdRef) (x : Session), Accepts s m x → s.power.pstate = .s1 →
    exec (.leaveS1 m) s = AfterAll s (answer (leaveS1 (accepted s m 0x58 x)) m 0 0 []))

/-- R412, R413, R442: a channel that is retired, a channel or stack that fails, and a core whose watchdog expires are noted in the state
and reported: a retired channel's pages are ordered to move, and a core is retired at its third expiry of a Week. -/
def Obligations.FailingPartsAreReported : Prop :=
  (∀ (s : State) (k : BitVec 4) (c : BitVec 5), s.running = true → k.toNat ∈ stacksOf s.variant →
    KMap.find s.home.stackSt k.toNat = none → stackOut s k.toNat = false → s.home.exts = [] →
    exec (.channelRetire k c) s = After s (report (updStack (eccEvents s k.toNat) k.toNat (fun x =>
      notePenalty { x with retired := x.retired ||| BitVec.ofNat 32 (2 ^ c.toNat) } c.toNat 128)) s.self k.toNat 4 5 0xFF))
  ∧ (∀ (s : State) (k : BitVec 4) (c : BitVec 5), s.running = true → k.toNat ∈ stacksOf s.variant → KMap.find s.home.stackSt k.toNat = none →
    stackOut s k.toNat = false → exec (.channelFailure k c) s = After s (report (updStack s k.toNat (fun x =>
      notePenalty { x with failed := x.failed ||| BitVec.ofNat 32 (2 ^ c.toNat) } c.toNat 255)) s.self k.toNat 4 6 0xFF)
    ∧ exec (.stackLoss k) s = After s (report (updStack s k.toNat (fun x => notePenalty { x with lost := true } 0 255)) s.self k.toNat 4 7 0xFF))
  ∧ (∀ (s : State) (c : BitVec 6), s.running = true → c.toNat < 48 → s.den.coreUp.getLsbD c.toNat = true →
    KMap.getD s.den.lastKick c.toNat 0 + 256 ≤ s.day → KMap.getD s.den.weekExpiries c.toNat 0 = 0 → 24 ≤ coresLeft s.den →
    exec (.denWatchdogExpiry c) s =
      (let d := { s.den with expired := satAdd 8 s.den.expired 1, weekExpiries := KMap.put s.den.weekExpiries c.toNat 1,
                             lastKick := KMap.put s.den.lastKick c.toNat s.day }
       After s (report (s.setDen d) s.self 0 1 0x0A 0xFF)))

/-! ## Registers (R3, R470 to R480) -/

/-- R472, R479, R442, R474: register writes take effect: a threshold outside its range takes the nearer bound, a core's kick is noted at
the Day, the skew alarm clears, a mirror rule word is stored, and a write of the mirror control keeps its writable bits. R90: a write of `RETRAIN` takes an edge port that is up down, tells the other end, and leaves it retraining; the cause is 4. -/
def Obligations.RegisterWritesAct : Prop :=
  ((∀ (s : State) (v : W64), s.running = true → exec (.stThreshWrite v) s = commit s (s.setPower
    { s.power with tThrottle := max 85 (min 105 (bits 63 56 v.toNat)), pLimit := max 600 (min 1800 (bits 47 36 v.toNat)) }))
  ∧ (∀ (s : State) (c : BitVec 6), s.running = true → c.toNat < 48 → s.den.coreUp.getLsbD c.toNat = true →
    exec (.stWdogKick c) s = commit s (s.setDen { s.den with lastKick := KMap.put s.den.lastKick c.toNat s.day }))
  ∧ (∀ s : State, s.running = true → exec .skewAlarmClear s = commit s (s.setTime { s.time with skewAlarm := false }))
  ∧ (∀ (s : State) (i : BitVec 4) (w : BitVec 2) (v : W64), s.running = true →
    exec (.xbMirRuleWrite i w v) s = commit s (s.setXb { s.xb with mirRules := KMap.put s.xb.mirRules (i.toNat * 4 + w.toNat) v }))
  ∧ (∀ (s : State) (v : W64), s.running = true →
    Completes (exec (.xbMirCtrlWrite v) s) (fun t => t.xb.mirCtrl = v &&& (BitVec.allOnes 64 <<< 28)))
  ∧ (∀ (s : State) (a : BitVec 48) (v : W64) (den : Bool), s.running = true →
    exec (.registerWriteOther a v den) s = After s (match decodeReg a.toNat with | some r => writeReg s r v den | none => s)))
  ∧ (∀ (s : State) (p : PortNo) (b : PortBind), s.running = true → s.bind p.toNat = some b → b.fabric = false → (s.port p.toNat).up = true →
    exec (.portRetrain p) s = After s ((sendControl (portOut s p.toNat) p.toNat 9 4).updPort p.toNat
      (fun x => { x with retraining := true, delayValid := false })))

/-- R464, R469, R471, R472: a register read or write of valid addresses is admitted and waits for the sample cycle of the next Day; a read of
a T0 carve within its slice is answered with its bytes. -/
def Obligations.RegisterCommandsAreAdmitted : Prop :=
  (∀ (s : State) (m : CmdRef) (x : Session) (l : List (BitVec 48)), Accepts s m x → l.length ≤ 512 → (∀ a ∈ l, inWindow a.toNat = true) →
    exec (.regRead m l) s =
      (let u := accepted s m 0x10 x
       let r : ReadWait := { m := m, addrs := l, day := s.day, clears := true }
       AfterAll s ((u.setNextId (s.nextId + 1)).setFn { u.fn with reads := KMap.put u.fn.reads s.nextId r })))
  ∧ (∀ (s : State) (m : CmdRef) (x : Session) (l : List (BitVec 48 × W64)), Accepts s m x → l.length ≤ 512 →
    (∀ p ∈ l, inWindow p.1.toNat = true) →
    exec (.regWrite m l) s =
      (let u := accepted s m 0x11 x
       let r : ReadWait := { m := m, addrs := l.map (·.1), day := s.day, clears := false }
       AfterAll s (((u.setXb { s.xb with regWrites := s.xb.regWrites ++ l.map (fun p => (p.1, p.2, false)) }).setNextId (s.nextId + 1)).setFn
         { u.fn with reads := KMap.put u.fn.reads s.nextId r })))
  ∧ (∀ (s : State) (m : CmdRef) (x : Session) (slice : BitVec 9) (off : BitVec 24) (len : BitVec 17), Accepts s m x → len.toNat ≤ 65536 →
    off.toNat + len.toNat ≤ 2 ^ 24 → slice.toNat < slicesOf s.variant →
    exec (.carveRead m slice off len) s =
      (let r := carveBytes (accepted s m 0x12 x) slice.toNat off.toNat len.toNat
       AfterAll s (answer r.2 m 0 0 r.1)))

/-! ## The Day and the Equinox (R22, R28, R31, R32, R35, R36, R38, R98) -/

/-- R22, R28, R493: cycle 0 of a Day begins the next Day; a module that does not run only counts, and in one that runs with no reset
decided the actions of the Day, the services, health, the Chronicle and the control node follow in this order. R36, R98: a Day marker of the timing parent is measured and ends free running; each link that is up sends its own with the low bits of
the Day. R38: after 16 Days beyond 4 cycles the module is unaligned, stops scheduled traffic and reports itself. -/
def Obligations.DaysAndMarkers : Prop :=
  ((∀ t : TimeSt, (nextDay t).day = t.day + 1)
  ∧ (∀ s : State, s.power.inputOn = true → s.running = false → s.fn.reads = [] →
    exec .dayBoundary s = commit s (s.setTime (nextDay { s.time with cycle := max 2048 s.time.cycle })))
  ∧ (∀ s : State, s.power.inputOn = true → s.running = true → s.fn.reads = [] → s.rst.units = [] → s.rst.order = none →
    exec .dayBoundary s =
      (let u := s.setTime (nextDay { s.time with cycle := max 2048 s.time.cycle })
       AfterAll s (leaderWatch (resubmit (retryOwn (sendHeartbeats (sentinelDay (serviceDay (dayActions u))))))))))
  ∧ ((∀ (s : State) (p : PortNo) (d : BitVec 20) (late : BitVec 16), (s.port p.toNat).up = true → s.eqx.parent = some p.toNat → s.time.root = false →
    s.time.hasCount = true → exec (.dayMarker p d late) s =
      commit s ((s.updPort p.toNat (fun x => { x with lastCtrl := s.now })).setTime { takeDiff s.time late.toInt with freeRun := false }))
  ∧ (∀ (s : State) (p : PortNo), s.running = true → (s.port p.toNat).up = true → s.time.hasCount = true →
    exec (.dayMarkerSend p) s = commit s (sendControl s p.toNat 6 (s.day % 2 ^ 20)))
  ∧ (∀ s : State, s.running = true → s.time.aligned = true → 16 ≤ s.time.over4 →
    exec .alignmentLoss s =
      (let u := (s.setTime { s.time with aligned := false }).setRst { s.rst with unaligned := true }
       After s (report (selectTemplate u) s.self 0 1 0x08 0xFF))))

/-- R31, R32: the phases of an Equinox: a neighbour's echo is answered and this module's own are counted, an offer of the timing tree is
taken, the start cycle of the parent is noted and passed on, the phase advances when every link has done it, Day 0 begins when the local
count reaches the start, and a link that is not up when phase 1 ends is held down. -/
def Obligations.EquinoxProceeds : Prop :=
  (∀ (s : State) (p : PortNo), (s.port p.toNat).up = true → (fabricPorts s).contains p.toNat = true →
    exec (.eqxEcho p none) s = After s (sendEqx s p.toNat 0x71 1 0))
  ∧ (∀ (s : State) (p : PortNo) (t : BitVec 20), (s.port p.toNat).up = true → (fabricPorts s).contains p.toNat = true → s.eqx.phase = 3 →
    s.eqx.unmeasured = [] → (s.port p.toNat).delayValid = false → (KMap.getD s.eqx.echoes p.toNat []).length < 255 →
    exec (.eqxEcho p (some t)) s =
      (let l := KMap.getD s.eqx.echoes p.toNat [] ++ [t.toNat]
       After s (sendEqx (s.setEqx { s.eqx with echoes := KMap.put s.eqx.echoes p.toNat l }) p.toNat 0x71 0 s.now)))
  ∧ (∀ (s : State) (p : PortNo) (h : BitVec 4), (s.port p.toNat).up = true → (fabricPorts s).contains p.toNat = true → isRoot s = false →
    s.eqx.phase = 2 →
    exec (.eqxTree p h) s =
      (let u := noteOffer s p.toNat h.toNat
       let t := takeParent u (bestOffer (u.eqx.offers.filter (canLead u)))
       After s (if t.eqx.parent = s.eqx.parent ∧ t.time.treeDepth = s.time.treeDepth then t else tellPlace t)))
  ∧ (∀ (s : State) (p : PortNo) (c : BitVec 60), s.eqx.phase = 5 → s.eqx.out = false → s.eqx.parent = some p.toNat → s.eqx.startCycle = none →
    exec (.eqxStart p c) s = After s ((childLinks s).foldl (fun s q => sendEqx s q 0x73 c.toNat 0)
      (s.setEqx { s.eqx with startCycle := some c.toNat })))
  ∧ (∀ s : State, phaseDone s = true → s.eqx.phase < 5 → exec .equinoxPhaseAdvance s = After s (enterPhase s))
  ∧ (∀ (s : State) (n : BitVec 60) (c : Nat), s.eqx.startCycle = some c → s.eqx.phase = 5 → s.time.hasCount = false → 16 * c ≤ 16 * n.toNat + parentDelay s →
    exec (.equinoxDayZero n) s =
       After s (selectTemplate ((s.setTime (s.time.startAt 0 0)).setEqx { s.eqx with phase := 0, startCycle := none, done := true })))
  ∧ (∀ (s : State) (p : PortNo), s.eqx.phase = 4 →
    exec (.equinoxPhaseTimeout (.port p)) s = After s (portFails (s.setEqx { s.eqx with stuck := addOnce s.eqx.stuck p.toNat }) p.toNat))
  ∧ (∀ s : State, s.eqx.phase = 4 → exec (.equinoxPhaseTimeout .bridge) s = After s (selfFence (s.setEqx { s.eqx with bridgeDown := true })))

/-- R35, R485: a module without a Day count that joins a running fabric takes its neighbour's count less the measured delay, aligned, and
then what came due; one that has a count keeps it. -/
def Obligations.JoiningTakesTheCount : Prop :=
  ∀ (s : State) (p : PortNo) (d : BitVec 48) (c : BitVec 12), s.running = true → (fabricPorts s).contains p.toNat = true →
    treeLink s p.toNat = true → 4 ≤ s.eqx.phase →
    (let n := d.toNat * 4096 + c.toNat - (s.port p.toNat).delay.toNat / 16
     (s.time.hasCount = false →
      (takeCount s p.toNat d.toNat c.toNat).time.day = n / 4096 ∧ (takeCount s p.toNat d.toNat c.toNat).time.cycle = n % 4096
      ∧ (takeCount s p.toNat d.toNat c.toNat).time.aligned = true
      ∧ exec (.runningFabricJoin p d c) s = After s (applyDue (bankFlip (takeCount s p.toNat d.toNat c.toNat)))
      ∧ exec (.s3RealignRetry (some (p, d, c))) s = After s (applyDue (bankFlip (takeCount s p.toNat d.toNat c.toNat))))
     ∧ (s.time.hasCount = true → exec (.runningFabricJoin p d c) s = After s s ∧ exec (.s3RealignRetry (some (p, d, c))) s = After s s))

/-! ## The link layer (R98 to R112, R117) -/

/-- R101, R105, R106: control words that arrive on a live port: an `ACK` frees every cell up to its own, a `NAK` has the cells from its `LSEQ` on sent
again in order, a `CREDIT` sets what the partner has freed of a class, a `RELEASE` frees a bulk frame, and a `RESEND` queues it once more. -/
def Obligations.ControlWordsAct : Prop :=
  ∀ (s : State) (p : PortNo), portLive s p.toNat = true →
    (let u := s.updPort p.toNat (fun x => { x with lastCtrl := s.now })
     (∀ (l : BitVec 16) (i : Nat), cellAt (s.port p.toNat) l = some i → (s.port p.toNat).sent = [] →
       exec (.ack p l) s = After s (u.updPort p.toNat (fun x =>
         { x with unacked := x.unacked.drop (i + 1), sent := [], ackHeard := s.now,
                  resendQ := x.resendQ.filter (fun k => (x.unacked.drop (i + 1)).any (fun c => c.cell.lseq == k)) })))
     ∧ (∀ (l : BitVec 16) (i : Nat), cellAt (s.port p.toNat) l = some i →
       exec (.nak p l) s = After s (u.updPort p.toNat (fun x =>
         { x with resendQ := (x.unacked.drop i).map (fun c => c.cell.lseq), ackHeard := s.now })))
     ∧ (∀ (c : BitVec 3) (n : BitVec 24),
       exec (.credit p c n) s = After s (u.updPort p.toNat (fun x => { x with credFreed := KMap.put x.credFreed c.toNat n })))
     ∧ (∀ l : BitVec 16, exec (.release p l) s = After s (u.updPort p.toNat (fun x => { x with tc6Sent := KMap.del x.tc6Sent l.toNat })))
     ∧ (∀ (l : BitVec 16) (f : Frame) (t : Nat), KMap.find (s.port p.toNat).tc6Sent l.toNat = some (f, t) →
       exec (.resend p l) s =
         After s (enqueue (u.updPort p.toNat (fun x => { x with tc6Sent := KMap.del x.tc6Sent l.toNat })) p.toNat f 0)))

/-- R101, R103: cells that nothing has acknowledged for 2,048 cycles are sent again, the oldest first; a link one of whose cells was resent 16
times, that has sent no control word for 4 Days, or whose other end says so, is lost. R31, R90, R104, R105: a bound port that may come up does so: its
link layer starts afresh with the credits that the partner advertises, and its delay is taken; a link whose delay exceeds 400 ns stays out of
service. On a fabric port in phases 1 to 3 of an Equinox the delay is still to be measured. -/
def Obligations.LinksFailAndComeUp : Prop :=
  ((∀ (s : State) (p : PortNo), portLive s p.toNat = true → (s.port p.toNat).unacked ≠ [] → (s.port p.toNat).ackHeard + 2048 ≤ s.now →
    exec (.retxTimeout p) s = commit s (s.updPort p.toNat (fun x =>
      { x with resendQ := x.unacked.map (fun c => c.cell.lseq), ackHeard := s.now })))
  ∧ (∀ (s : State) (p : PortNo), s.running = true →
    ((∃ c ∈ (s.port p.toNat).unacked, 16 ≤ c.resent) → exec (.retxLimit p) s = After s (linkLoss s p.toNat (some 1)))
    ∧ ((s.port p.toNat).lastCtrl + 16384 ≤ s.now → exec (.linkSilenceTimeout p) s = After s (linkLoss s p.toNat (some 2)))
    ∧ (∀ why, portLive s p.toNat = true →
      exec (.linkDown p why) s = After s (linkLoss (s.updPort p.toNat (fun x => { x with lastCtrl := s.now })) p.toNat none))))
  ∧ (∀ (s : State) (p : PortNo) (b : PortBind) (d : BitVec 16) (t : Training), s.running = true → s.bind p.toNat = some b →
    (s.port p.toNat).up = false → mayComeUp s p.toNat = true →
    ∃ u : State, exec (.linkUp p d t) s = After s u
      ∧ (u.port p.toNat).txSeq = 0 ∧ (u.port p.toNat).rxExpect = 0 ∧ (u.port p.toNat).unacked = []
      ∧ (u.port p.toNat).credInit = t.credits.map (·.toNat) ∧ (u.port p.toNat).advertised = b.credits ∧ (u.port p.toNat).laneOrder = t.order
      ∧ ((b.fabric = false ∨ s.eqx.phase = 0 ∨ 3 < s.eqx.phase) →
        (u.port p.toNat).up = decide (d.toNat ≤ 10880) ∧ (u.port p.toNat).delayValid = decide (d.toNat ≤ 10880) ∧ (u.port p.toNat).delay = d)
      ∧ (b.fabric = true → 1 ≤ s.eqx.phase → s.eqx.phase ≤ 3 → (u.port p.toNat).up = true ∧ (u.port p.toNat).delayValid = false))

/-- R106: a `RESEND` without its frame is repeated after 2,048 cycles, and a bulk frame is held for a Week and then freed. -/
def Obligations.BulkFramesAreHeld : Prop :=
  (∀ (s : State) (p : PortNo) (l : BitVec 16) (w : ResendWait), s.running = true → KMap.find (s.port p.toNat).tc6Wait l.toNat = some w →
    w.time + 2048 ≤ s.now →
    exec (.resendRepeat p l) s = After s (sendControl (s.updPort p.toNat (fun x =>
      { x with tc6Wait := KMap.put x.tc6Wait l.toNat { w with time := s.now } })) p.toNat 5 l.toNat))
  ∧ (∀ (s : State) (p : PortNo) (l : BitVec 16) (f : Frame) (t : Nat), s.running = true →
    KMap.find (s.port p.toNat).tc6Sent l.toNat = some (f, t) → t + 16777216 ≤ s.now →
    exec (.tc6HoldExpiry p l) s = After s (s.updPort p.toNat (fun x => { x with tc6Sent := KMap.del x.tc6Sent l.toNat })))

/-- R109 to R111: a failing lane asks its partner for its first free spare, at once where it fails hard; a partner that is asked grants the
spare that meets it and names the Day of the switch, or switches at once and names none where the lane fails hard; the switch is made when it is
granted or in the named guard. Model's choice, log 57: how many codewords the failing lane's counters then show (`laneErrors`). -/
def Obligations.LanesAreSpared : Prop :=
  (∀ (s : State) (l : BitVec 10) (p sp : Nat) (b : PortBind), s.running = true → laneOwner s l.toNat = some (p, b) → portLive s p = true →
    (s.lane l.toNat).role ≠ 3 → (s.lane l.toNat).role ≠ 1 → (s.lane l.toNat).toSpare = none → freeSpare (laneErrors s l.toNat) b l.toNat = some sp →
    exec (.laneSoftTrigger l) s =
      After s (sendControl (updLane (laneErrors s l.toNat) l.toNat (fun x => { x with toSpare := some sp })) p 7 (l.toNat * 2 ^ 11 + sp * 2))
    ∧ exec (.laneHardTrigger l) s =
      After s (sendControl (updLane (updLane (laneErrors s l.toNat) l.toNat (fun x => { x with toSpare := some sp, lock := false })) sp
        (fun x => { x with listening := true })) p 7 (l.toNat * 2 ^ 11 + sp * 2 + 1)))
  ∧ (∀ (s : State) (p : PortNo) (b : PortBind) (f spare : BitVec 10) (l sp : Nat), portLive s p.toNat = true → s.bind p.toNat = some b →
    (let u := s.updPort p.toNat (fun x => { x with lastCtrl := s.now })
     ownLane u p.toNat b f.toNat = some l → (s.lane l).toSpare = none → pairedSpare u b l spare.toNat = some sp →
     exec (.spareReq p f spare false) s =
       (let d := switchDayOf s b.lanes
        After s (sendControl (updLane u l (fun x => { x with toSpare := some sp, switchDay := some d })) p.toNat 8
          (f.toNat * 2 ^ 31 + spare.toNat * 2 ^ 21 + d % 2 ^ 20)))
     ∧ exec (.spareReq p f spare true) s =
       After s (sendControl (switchLane (updLane u l (fun x => { x with toSpare := some sp, switchDay := none })) l) p.toNat 8
         (f.toNat * 2 ^ 31 + spare.toNat * 2 ^ 21 + 2 ^ 20))))
  ∧ (∀ (s : State) (p : PortNo) (f spare : BitVec 10), portLive s p.toNat = true →
    exec (.spareAck p f spare none) s = After s (switchLane (s.updPort p.toNat (fun x => { x with lastCtrl := s.now })) f.toNat))
  ∧ (∀ (s : State) (l : BitVec 10) (p d : Nat) (b : PortBind), s.running = true → (s.lane l.toNat).switchDay = some d →
    laneOwner s l.toNat = some (p, b) → (d < s.day ∨ (d = s.day ∧ guardStart b.lanes ≤ s.time.cycle)) →
    exec (.spareSwitchGuard l) s = After s (switchLane s l.toNat))

/-- R100, R102, R117, R125: a good cell with the expected `LSEQ` goes into its frame and the next is expected; any other is refused with one
`NAK` that names the expected one; outside the guard a port that is sending none begins the frame its schedulers choose; and a frame that is cut
through and has stalled for 2,048 cycles ends there with a poisoned tail, its later cells discarded. -/
def Obligations.CellsAndFramesMove : Prop :=
  (∀ (s : State) (p : PortNo) (c : Cell), portLive s p.toNat = true → c.cls ≠ 0 → cellGood c = true → c.lseq = (s.port p.toNat).rxExpect →
    (c.sof = true → headerGood c = true) →
    exec (.cellReceive p c) s =
      (let u := s.updPort p.toNat (fun x => { x with rxExpect := x.rxExpect + 1, nakSent := false })
       AfterEntry s (streamCell (ackCell u p.toNat c) p.toNat c)))
  ∧ (∀ (s : State) (p : PortNo) (c : Cell), portLive s p.toNat = true → c.cls ≠ 0 → cellGood c = true → c.lseq ≠ (s.port p.toNat).rxExpect →
    (s.port p.toNat).nakSent = false → s.now < (s.port p.toNat).lastAck + 512 →
    exec (.cellReceive p c) s =
      AfterEntry s (sendControl (s.updPort p.toNat (fun x => { x with nakSent := true })) p.toNat 2 (s.port p.toNat).rxExpect.toNat))
  ∧ (∀ (s : State) (p : PortNo) (b : PortBind) (id : Nat) (q : QFrame) (d : List Nat), portLive s p.toNat = true → s.bind p.toNat = some b →
    slotAt b.lanes s.time.cycle < usableSlots b.lanes → (s.port p.toNat).txOther = none → nextFrame s p.toNat = (some (id, q), d) →
    exec (.frameDepart p) s =
      After s (pumpPort (beginFrame (s.updPort p.toNat (fun x => { x with deficit := d })) p.toNat id q) p.toNat))
  ∧ (∀ (s : State) (p : PortNo) (id since : Nat) (q : QFrame) (x : TxSt), s.running = true → (s.port p.toNat).txOther = some id →
    KMap.find s.xb.queue id = some q → q.begun = some x → x.stall = some since → since + 2048 ≤ s.now →
    exec (.cutThroughStallLimit p) s =
      (let f := { q.frame with rx := none, more := 0, poisoned := true }
       let t := freeCells (discardRest s q.frame.rx) q.inPort f.hdr.cls (linkCells s q.inPort (frameSize q.frame) - linkCells s q.inPort (frameSize f))
       let t := t.setXb { t.xb with queue := KMap.put t.xb.queue id { q with frame := f } }
       AfterEntry s (pumpPort (t.updPort p.toNat (fun y => { y with tailPoison := satAdd 64 y.tailPoison 1 })) p.toNat)))

/-! ## The Keeper (R378 to R389, R408, R480) -/

/-- R382, R384: a signature takes the next index once the reservation covers it and a token is there; a token comes back each second, up to
1,024, and a signature that waited for one proceeds. R383: a built tree is ready, and the cache of top trees may be rebuilt. -/
def Obligations.KeeperSigns : Prop :=
  (∀ (s : State) (u : SignUse), keeperOn s = true → u ∈ s.kp.signQueue → maySign s.kp u = true →
    exec (.keeperSign u) s =
      commit s (afterSign (keeperNote (finishUse (s.setKp { takeIndex s.kp with signQueue := removeOne s.kp.signQueue u }) s.kp u))))
  ∧ (∀ k : KeeperSt, k.qNext < 32768 → (takeIndex k).qNext = k.qNext + 1 ∧ (takeIndex k).qNext ≤ (takeIndex k).qRes ∧ (takeIndex k).tokens = k.tokens - 1
      ∧ (takeIndex k).tree = k.tree)
  ∧ (∀ s : State, keeperOn s = true → s.kp.signQueue = [] →
    exec .signTokenRefill s = commit s (s.setKp { s.kp with tokens := min 1024 (s.kp.tokens + 1) }))
  ∧ (∀ (s : State) (u : SignUse) (r : List SignUse), keeperOn s = true → s.kp.signQueue = u :: r → s.kp.tokens = 0 →
    exec .signTokenRefill s = commit s (afterSign (signNow (s.setKp { s.kp with tokens := 1 }) u)))
  ∧ (∀ s : State, keeperOn s = true → s.kp.building = true →
    exec .bottomTreeBuilt s = commit s (keeperNote (s.setKp { s.kp with building := false, nextReady := true })))
  ∧ (∀ s : State, keeperOn s = true → s.kp.idOk = true → exec .topTreeCacheRebuilt s = commit s (s.setKp { s.kp with topCacheOk := true }))

/-- R378, R480: a failing entropy source is flagged until its tests pass, when the keys that waiting entries need are generated; a mailbox command starts a request, or only sets the overrun
flag while one runs, its end gives the answer, and the flags clear as written. -/
def Obligations.KeeperFlagsAndMailbox : Prop :=
  (∀ s : State, keeperOn s = true →
    exec .entropyFail s = commit s (keeperNote (s.setKp { s.kp with entropyFail := true }))
    ∧ exec .entropyTestsPass s = commit s (makeAllReady (keeperNote (s.setKp { s.kp with entropyFail := false }))))
  ∧ (∀ (s : State) (v : W64), s.running = true →
    (s.kp.mboxBusy = false → exec (.kpMboxCmd v) s =
      commit s (s.setKp { s.kp with mboxBusy := true, mboxCode := .ofNat 16 (bits 63 48 v.toNat), mboxLen := min 4096 (bits 47 35 v.toNat) }))
    ∧ (s.kp.mboxBusy = true → exec (.kpMboxCmd v) s = commit s (s.setKp { s.kp with mboxOverrun := true }))
    ∧ exec (.kpMboxDoneClear v) s = commit s (s.setKp
        { s.kp with mboxDone := s.kp.mboxDone && !bit 62 v.toNat, mboxOverrun := s.kp.mboxOverrun && !bit 61 v.toNat }))
  ∧ (∀ (s : State) (st : BitVec 8) (bs : List Byte), keeperOn s = true → s.kp.mboxBusy = true → s.kp.relay = none → s.kp.asks = [] →
    Completes (exec (.keeperRequestDone st bs) s) (fun t => t.kp.mboxBusy = false ∧ t.kp.mboxDone = true ∧ t.kp.mboxStatus = st
      ∧ t.kp.mboxRlen = (bs.take 4096).length ∧ t.fn = s.fn ∧ t.xb = s.xb ∧ t.home = s.home))

/-- R15, R386 to R389, R408: the Den puts a command for the Keeper into the mailbox where that is free (`mailed`, `relayDone`: log 143). An attestation
and a roll of the identity ask for a signature, a piece of an image goes into the slot that does not run, an image that verifies is marked for the
next boot, a committed image raises the security version, and an owner root is enrolled while there is none and transferred under the one there is. -/
def Obligations.KeeperCommandsAct : Prop :=
  ∀ (s : State) (m : CmdRef) (x : Session), Accepts s m x → s.kp.mboxBusy = false →
    (∀ n : BitVec 256, mayIdentify s.kp = true →
      exec (.attest m n) s = AfterAll s (askSign (mailed (accepted s m 0x50 x) (.attest m n)) (.attest m n)))
    ∧ (s.kp.idOk = true → s.kp.idFail = false → s.kp.identity ≠ 3 →
      exec (.idRoll m) s = AfterAll s (askSign (mailed (accepted s m 0x56 x) (.idRoll m)) (.handover m)))
    ∧ (∀ root : BitVec 256, s.kp.ownerRoot = none →
      exec (.ownerEnrol m root) s =
        (let u := mailed (accepted s m 0x54 x) (.ownerEnrol m root)
         AfterAll s (relayDone (answer (keeperNote (u.setKp { u.kp with ownerRoot := some root })) m 0 0 []))))
    ∧ (∀ (old root : BitVec 256) (sig : List Byte), s.kp.ownerRoot = some old → Config.hssVerify old (beBytes 32 root.toNat) sig = true →
      exec (.ownerTransfer m root sig) s =
        (let u := mailed (accepted s m 0x55 x) (.ownerTransfer m root sig)
         AfterAll s (relayDone (answer (u.setKp { u.kp with ownerRoot := some root }) m 0 0 []))))
    ∧ ((∀ (o : BitVec 32) (piece : List Byte), piece.length ≤ 65536 → o.toNat + piece.length ≤ 2 ^ 26 →
        exec (.fwStage m o piece) s =
          (let u := mailed (accepted s m 0x51 x) (.fwStage m o piece)
           let old := KMap.getD s.kp.fwSlots (b2n (!s.kp.activeSlot)) []
           let new := overlay (padTo (max old.length (o.toNat + piece.length)) old) o.toNat piece
           AfterAll s (relayDone (answer (u.setKp { u.kp with fwSlots := KMap.put s.kp.fwSlots (b2n (!s.kp.activeSlot)) new, bootOther := false }) m 0 0 []))))
      ∧ ((let bs := KMap.getD s.kp.fwSlots (b2n (!s.kp.activeSlot)) []
          Config.hssVerify Config.vendorRoot bs bs = true ∧ s.kp.svnFw.toNat ≤ (Config.imageSvn bs).toNat) →
        exec (.fwActivate m) s =
          (let u := mailed (accepted s m 0x52 x) (.fwActivate m)
           AfterAll s (relayDone (answer (u.setKp { u.kp with bootOther := true }) m 0 0 []))))
      ∧ exec (.fwCommit m) s =
          (let u := mailed (accepted s m 0x53 x) (.fwCommit m)
           let svn := max s.kp.svnFw.toNat (Config.imageSvn (imageBytes s.kp)).toNat
           AfterAll s (relayDone (answer (keeperNote (u.setKp { u.kp with svnFw := .ofNat 16 svn, fwPending := false })) m 0 0 []))))

/-! ## The Finug port (R391 to R393, R459 to R466) -/

/-- R459, R461: a link frame that fails its check is counted and refused with the number expected; frames without an `ACK` for 10 µs are sent
again and counted; a lane's lock is as the port finds it; and a port without a frame for 100 ms is down: its sessions end. -/
def Obligations.FinugLinkRecovers : Prop :=
  (∀ (s : State) (bs : List Byte), finugOn s = true → bs.length < 20 →
    exec (.finugFrame bs) s =
      commit s (finugControl (s.setFn { s.fn with lastFrame := s.now, crcErr := satAdd 16 s.fn.crcErr 1 }) true s.fn.rxExpect))
  ∧ (∀ s : State, finugOn s = true → s.fn.unacked ≠ [] → s.fn.ackHeard + 17000 ≤ s.now →
    exec .finugRetxTimeout s = commit s (resendFrames s (sortBy (fun a b => upTo a.1 b.1) s.fn.unacked)))
  ∧ (∀ (s : State) (n : BitVec 32), finugOn s = true →
    exec (.finugAck false n) s = commit s (s.setFn { s.fn with unacked := s.fn.unacked.filter (fun f => !upTo f.1 n.toNat), ackHeard := s.now })
    ∧ exec (.finugAck true n) s = commit s (resendFrames s (framesFrom s n.toNat)))
  ∧ (∀ s : State, finugOn s = true →
    Completes (exec (.finugLaneLoss false) s) (fun t => t.fn.lane0 = false ∧ t.fn.lane1 = s.fn.lane1)
    ∧ Completes (exec (.finugLaneLoss true) s) (fun t => t.fn.lane1 = false ∧ t.fn.lane0 = s.fn.lane0)
    ∧ Completes (exec (.finugLaneLock false) s) (fun t => t.fn.lane0 = true ∧ t.fn.lane1 = s.fn.lane1)
    ∧ Completes (exec (.finugLaneLock true) s) (fun t => t.fn.lane1 = true ∧ t.fn.lane0 = s.fn.lane0))
  ∧ (∀ s : State, finugOn s = true → s.fn.lastFrame + 170000000 ≤ s.now → s.kp.sessions = [] →
    Completes (exec .finugPortDown s) (fun t => t.fn.out = [] ∧ t.fn.unacked = [] ∧ t.fn.txSeq = 0 ∧ t.fn.rxExpect = 0 ∧ t.kp.handshakes = []))

/-- R391, R392: a control node whose certificate is proven under the owner root opens a handshake, and an accept that verifies opens a
session; a handshake lasts 2^22 Days, a session 2^30 Days or 2^24 commands, and a close ends it with an answer. -/
def Obligations.SessionsOpenAndEnd : Prop :=
  (∀ (s : State) (n : BitVec 256) (chain : List Byte) (root ident : BitVec 256), finugOn s = true → mayIdentify s.kp = true →
    s.kp.ownerRoot = some root → provenBy s root .control chain = some ident → s.kp.sessions.length < 4 → s.kp.entropyFail = false →
    Completes (exec (.kxHello 1 n chain) s) (fun t => t.kp.signQueue = s.kp.signQueue ++ [.offer s.nextId] ∧ t.nextId = s.nextId + 1
      ∧ (KMap.find t.kp.handshakes s.nextId).isSome = true ∧ t.kp.drbg = s.kp.drbg + 2))
  ∧ (∀ (s : State) (h : Nat) (x : Handshake) (ct sig : List Byte), finugOn s = true → KMap.find s.kp.handshakes h = some x →
    s.kp.signQueue.contains (.offer h) = false → Config.hssVerify x.ident (sha256 (x.hello ++ x.offer ++ ct)) sig = true →
    s.kp.sessions.length < 4 → s.day < x.openDay + 2 ^ 22 →
    Completes (exec (.kxAccept h ct sig) s) (fun t => (KMap.find t.kp.sessions (s.nextId % (2 ^ 32 - 1) + 1)).isSome = true
      ∧ KMap.find t.kp.handshakes h = none))
  ∧ (∀ (s : State) (h : Nat) (x : Handshake), KMap.find s.kp.handshakes h = some x → x.openDay + 2 ^ 22 ≤ s.day →
    Completes (exec (.handshakeTimeout h) s) (fun t => KMap.find t.kp.handshakes h = none))
  ∧ (∀ (s : State) (n : BitVec 32) (x : Session), KMap.find s.kp.sessions n.toNat = some x → (x.openDay + 2 ^ 30 ≤ s.day ∨ 2 ^ 24 ≤ x.commands) →
    exec (.sessionLifetimeEnd n) s = commit s (endSession s n.toNat))
  ∧ (∀ (s : State) (m : CmdRef) (x : Session), finugOn s = true → Accepts s m x →
    exec (.kxClose m) s = commit s (closeSession (accepted s m 5 x) m))

/-- R393: the lower end of a link begins its handshake; R465, R466: a session subscribes to streams, leaves them, and its samples are noted on
every 2^n-th Day. -/
def Obligations.LinkKeysAndTelemetry : Prop :=
  (∀ (s : State) (m : CmdRef) (x : Session) (peer : Ep) (body : List Byte) (port : Nat), Accepts s m x → mayIdentify s.kp = true →
    s.kp.entropyFail = false → portToKey s peer = some port → s.self.toNat < peer.toNat →
    ∃ u : State, exec (.lxMsg m peer 0 body) s = AfterAll s u ∧ (KMap.find u.kp.linkHs port).isSome = true
      ∧ .link (.ofNat 9 port) ∈ u.kp.signQueue)
  ∧ (∀ (s : State) (m : CmdRef) (x : Session) (mask : BitVec 7) (rate : BitVec 5) (l : List (BitVec 48)), Accepts s m x →
    mask.getLsbD 3 = false →
    exec (.subscribe m mask rate l) s =
      AfterAll s (answer (updSession (accepted s m 0x60 x) m.session.toNat (fun y => { y with streams := y.streams ||| mask })) m 0 0 [])
    ∧ exec (.unsubscribe m mask) s =
      AfterAll s (answer (updSession (accepted s m 0x61 x) m.session.toNat (fun y => { y with streams := y.streams &&& ~~~mask })) m 0 0 []))
  ∧ (∀ (s : State) (n : BitVec 32) (x : Session), s.running = true → KMap.find s.kp.sessions n.toNat = some x → x.streams.getLsbD 3 = true →
    s.day % 2 ^ x.rateLog2 = 0 →
    exec (.telemetrySample n) s = commit s (noteTo s n.toNat 3 (x.samples.map (fun a => readReg s a.toNat))))

/-! ## The Almanac (R443 to R456) -/

/-- R448: a transaction opens on `AL_BEGIN` where none is open, takes its pieces in order of arrival, is sealed when its image passes, and is
read back by `AL_READ`; one that is open, or was already another, is refused with reason 0x000D or 0x0003. -/
def Obligations.AlmanacIsStaged : Prop :=
  ∀ (s : State) (m : CmdRef) (x : Session), Accepts s m x →
    (∀ (txn : W64) (ps : List Ep),
      (s.alm.txnState = .idle → exec (.alBegin m txn ps) s =
        (let u := accepted s m 0x20 x
         let a := { s.alm with txnState := .open_, txnId := txn, participants := ps, openDay := s.day, staged := [], stagedImage := none,
                               banks := KMap.del s.alm.banks (otherBank s) }
         AfterAll s (answer (note (u.setAlm a) 6 [txn, 1]) m 0 0 [])))
      ∧ (s.alm.txnState ≠ .idle → exec (.alBegin m txn ps) s = AfterAll s (answer (accepted s m 0x20 x) m 0x10 0x000D [])))
    ∧ (∀ (o : BitVec 32) (piece : List Byte), s.alm.txnState = .open_ → piece.length ≤ 65536 → o.toNat + piece.length ≤ 48 * 2 ^ 20 →
      exec (.alStage m o piece) s =
        (let st := overlay (padTo (max s.alm.staged.length (o.toNat + piece.length)) s.alm.staged) o.toNat piece
         AfterAll s (answer ((accepted s m 0x21 x).setAlm { s.alm with staged := st }) m 0 0 [])))
    ∧ (s.alm.txnState = .open_ → sealReason (accepted s m 0x22 x) s.alm.staged = 0 →
      exec (.alSeal m) s =
        (let a := { s.alm with txnState := .sealed, sealDay := s.day, stagedImage := readAlmanac s.alm.staged,
                               banks := KMap.put s.alm.banks (otherBank s) s.alm.staged }
         AfterAll s (answer (note ((accepted s m 0x22 x).setAlm a) 6 [s.alm.txnId, 2]) m 0 0 [])))
    ∧ (∀ (bank : Bool) (o : BitVec 32) (n : BitVec 17), n.toNat ≤ 65536 →
      exec (.alRead m bank o n) s =
        AfterAll s (answer (accepted s m 0x25 x) m 0 0 (((KMap.getD s.alm.banks (b2n bank) []).drop o.toNat).take n.toNat)))

/-- R448 to R452: a commit of a sealed transaction waits at a module that does not lead; a prepare reads and verifies the staged bank again and the module is
prepared; a commit entry sets the flip Day where the module does not lead; a rollback entry or command and the time limits roll it back; and
a leader whose participant has not voted in 65,536 Days appends the rollback. R456: a function's drain stops its work at its deadline. -/
def Obligations.AlmanacTransactionsEnd : Prop :=
  (∀ (s : State) (m : CmdRef) (x : Session) (txn : W64), Accepts s m x → s.alm.txnId = txn → s.alm.txnState = .sealed →
    (∀ d : BitVec 48, leads s = false →
      exec (.alCommit m txn d) s = AfterAll s ((accepted s m 0x23 x).setAlm { s.alm with waiting := some m }))
    ∧ (s.alm.pending = none →
      exec (.alRollback m txn) s =
        AfterAll s (submit (rollBack (accepted s m 0x24 x) txn) { comp := 0, body := .almRollback txn 0, day := 0, m := some m })))
  ∧ (∀ (s : State) (txn : W64) (bs : List Byte) (img : Almanac), denUp s = true → s.alm.txnId = txn → s.alm.txnState = .sealed →
    KMap.find s.alm.banks (otherBank s) = some bs → imageSigned s bs = true → readAlmanac bs = some img → s.alm.leader = none →
    exec (.almanacPrepare txn) s = AfterAll s (note (s.setAlm { s.alm with txnState := .prepared }) 6 [txn, 3]))
  ∧ (∀ (s : State) (txn : W64) (d : BitVec 48), denUp s = true → s.alm.leader = none →
    exec (.almanacCommitEntry txn d) s = AfterAll s (commitEntry s txn d.toNat)
    ∧ exec (.almanacRollbackEntry txn d) s =
      AfterAll s (if d.toNat ≤ s.day then rollBack s txn else s.setAlm { s.alm with rollbacks := addOnce s.alm.rollbacks txn }))
  ∧ (∀ s : State, denUp s = true → s.alm.txnState = .open_ → s.alm.openDay + 2 ^ 26 ≤ s.day →
    exec .txnTimeout s = AfterAll s (rollBack s s.alm.txnId))
  ∧ (∀ (s : State) (p : Ep) (l : LeaderTxn), denUp s = true → leads s = true → s.alm.leader = some l → l.flipDay = none → p ∈ l.participants →
    KMap.find l.votes p.toNat = none → l.startDay + 65536 ≤ s.day →
    exec (.txnVoteTimeout p) s = AfterAll s (append (s.setAlm { s.alm with leader := none }) 0 (.almRollback l.txn 0) 0 none))
  ∧ (∀ (s : State) (id : Nat) (d : Drain), KMap.find s.alm.drains id = some d → d.day ≤ s.day → d.bit ≠ 1 →
    exec (.funcDrainDeadline id) s =
      (let t := s.setAlm { s.alm with drains := KMap.del s.alm.drains id }
       After s (stopWork t (fun r => (match d.comp with | some c => c == r.hdr.comp | none => true) && ofFunction d.bit r) 0x12 false false)))

/-! ## Map commands (R196 to R205, R264, R283, R366, R400, R426, R428, R504) -/

/-- R352, R463: a command of the control node that asks for an entry of the Chronicle: at a module that does not lead it goes to the leader; the leader
appends the entry as it is judged, or answers `ABSENT` where it may not stand. -/
def Obligations.MapCommandsBecomeEntries : Prop :=
  (∀ (s : State) (m : CmdRef) (c : BitVec 12) (b : EntryBody) (d : Nat),
    (leads s = false → submit s { comp := c, body := b, day := d, m := some m } =
      s.setCh { s.ch with toLeader := addOnce s.ch.toLeader { comp := c, body := b, day := d, m := some m } })
    ∧ (leads s = true → mustWait s b = false →
      (∀ e, judge s c b d = some e → submit s { comp := c, body := b, day := d, m := some m } = append s c e d (some m))
      ∧ (judge s c b d = none → submit s { comp := c, body := b, day := d, m := some m } = answer s m 0x10 0 [])))
  ∧ ∀ (s : State) (m : CmdRef) (x : Session), Accepts s m x → ∀ (c : BitVec 12) (d : BitVec 48),
    (∀ b : ExtBody,
      exec (.extGrant m c b d) s = AfterAll s (mapCommand (accepted s m 0x30 x) m c (.grant b) d.toNat)
      ∧ exec (.extTake m c b d) s = AfterAll s (mapCommand (accepted s m 0x31 x) m c (.take b) d.toNat)
      ∧ exec (.extMode m c b d) s = AfterAll s (mapCommand (accepted s m 0x32 x) m c (.mode b) d.toNat))
    ∧ (∀ (slot : BitVec 10) (gen : BitVec 6) (destroy : Bool),
      exec (.keyRevoke m c slot gen destroy d) s = AfterAll s (mapCommand (accepted s m 0x33 x) m c (.keyRevoke slot gen destroy) d.toNat))
    ∧ (∀ (lender home : Ep) (base : W64) (pages : BitVec 32),
      exec (.lendGrant m lender base pages home) s = AfterAll s (mapCommand (accepted s m 0x34 x) m 0 (.lend lender base pages home) 0))
    ∧ (∀ (r v : BitVec 32) (a base : W64) (n : BitVec 16) (k : BitVec 56),
      exec (.pubRegion m c r a) s = AfterAll s (mapCommand (accepted s m 0x38 x) m c (.pubRegion r a) 0)
      ∧ exec (.publish m c r v base n) s = AfterAll s (mapCommand (accepted s m 0x39 x) m c (.freeze r v base n) 0)
      ∧ exec (.promote m c r v) s = AfterAll s (mapCommand (accepted s m 0x3A x) m c (.promote r v) 0)
      ∧ exec (.retire m c r v) s = AfterAll s (mapCommand (accepted s m 0x3B x) m c (.retire r v) 0)
      ∧ exec (.pinClear m c r v k) s = AfterAll s (mapCommand (accepted s m 0x3C x) m c (.pinClear r v k) 0))
    ∧ (∀ (spec : WarrenSpec) (w : BitVec 24) (p : BitVec 16),
      exec (.warrenCreate m spec) s = AfterAll s (mapCommand (accepted s m 0x40 x) m spec.comp (.warren spec) 0)
      ∧ exec (.warrenDissolve m c w) s = AfterAll s (mapCommand (accepted s m 0x41 x) m c (.warrenEnd w) 0)
      ∧ exec (.harvest m c w p) s = AfterAll s (orderHarvest (accepted s m 0x42 x) m (partKey c w p.toNat)))
    ∧ (∀ b : FenceBody, b.action ≠ 7 → exec (.fence m b d) s = AfterAll s (mapCommand (accepted s m 0x48 x) m 0 (.fence { b with by_ := 2 }) d.toNat))
    ∧ (∀ (dev : Ep) (spare : Bool), mayAdmit (accepted s m 0x49 x) dev = true →
      exec (.admission m dev c spare) s =
        AfterAll s (mapCommand (accepted s m 0x49 x) m 0 (admission (accepted s m 0x49 x) dev c spare) 0))

/-! ## Memory requests at their home (R86, R139 to R169, R176, R177) -/

/-- R140, R177: a read that its rights allow answers the bytes stored; one whose page lies in a tray asks the tray. R86: a revoked key
answers `KEY_REVOKED` (0x30), a poisoned request `POISON` (0x40), and a page outside the rights is a violation. -/
def Obligations.ReadsAnswer : Prop :=
  ∀ p ∈ [(Instr.rd, 0x10, false), (Instr.rdOwn, 0x11, true)], ∀ (s : State) (a : Arrival) (u : State) (r : Req), Reaches s a p.2.1 u r →
    (keyRevoked u r.hdr = true → exec (p.1 a) s = After s (completeStatus u r 0x30))
    ∧ (keyRevoked u r.hdr = false →
      (∀ k h, homeRights u r.hdr r.hdr.addr false false false = .viol k h → exec (p.1 a) s = After s (violation u r u.self k))
      ∧ (∀ h he, homeRights u r.hdr r.hdr.addr false false false = .ok h he →
        (r.poisoned = true → exec (p.1 a) s = After s (completeStatus u r 0x40))
        ∧ (∀ v : State, r.poisoned = false → mustFollow u none r = false →
          (if modeOf u r.hdr r.hdr.addr = 2 then
            linesAccess u r.hdr (if p.2.2 then .own else .read) (accessLines he r.hdr.addr r.hdr.length.toNat) = (v, true) else v = u) →
          teFull v he (pageOf r.hdr.addr) = false →
          (let w := teEnter (sampleHeat v he (pageOf r.hdr.addr) false) he (pageOf r.hdr.addr)
           (∀ bs, readPiece w [] r.hdr.comp.toNat he (pageOf r.hdr.addr) (byteOf r.hdr.addr) r.hdr.length.toNat = .data bs →
             exec (p.1 a) s = After s (complete w r w.self 0 bs false 0))
           ∧ (readPiece w [] r.hdr.comp.toNat he (pageOf r.hdr.addr) (byteOf r.hdr.addr) r.hdr.length.toNat = .fetch →
             (let g := storedRange w he (pageOf r.hdr.addr) (byteOf r.hdr.addr) r.hdr.length.toNat
              exec (p.1 a) s = After s (sendFetch w (.read r) 3 he (pageOf r.hdr.addr) g.1 g.2)))))))

/-- R140, R176, R177: a store that its rights allow, its lines free and its page ready, writes its bytes and answers. R142: one whose lines
are held elsewhere waits for the back-invalidates. R83, R86: one outside the rights is a violation. -/
def Obligations.WritesStore : Prop :=
  ∀ (s : State) (a : Arrival) (u : State) (r : Req), Reaches s a 0x14 u r → keyRevoked u r.hdr = false →
    (∀ k h, homeRights u r.hdr r.hdr.addr true false false = .viol k h → exec (.wr a) s = After s (violation u r u.self k))
    ∧ (∀ h he, homeRights u r.hdr r.hdr.addr true false false = .ok h he → r.poisoned = false → mustFollow u none r = false →
      (∀ v : State, modeOf u r.hdr r.hdr.addr = 2 → linesAccess u r.hdr .write (accessLines he r.hdr.addr r.payload.length) = (v, false) →
        exec (.wr a) s = After s (holdReq v none r .binv he (pageOf r.hdr.addr)))
      ∧ (∀ v w x : State, ∀ st : BitVec 8,
        (if modeOf u r.hdr r.hdr.addr = 2 then linesAccess u r.hdr .write (accessLines he r.hdr.addr r.payload.length) = (v, true) else v = u) →
        prepareStore v he (pageOf r.hdr.addr) = (w, .ready) → applyStore w r.hdr he r.hdr.addr r.payload = (x, st) →
        exec (.wr a) s = After s (completeStatus x r st)))

/-- The frame of a store to a page of T1 without codec, in a module with no work left over: every byte of storage outside those written
reads as it did when the page was ready. -/
def Obligations.WritesKeepOtherStorage : Prop :=
  ∀ (s : State) (a : Arrival) (u v w t : State) (r : Req) (h : Ep) (he stack frame : Nat) (st : BitVec 8), Reaches s a 0x14 u r → keyRevoked u r.hdr = false →
    homeRights u r.hdr r.hdr.addr true false false = .ok h he → r.poisoned = false → mustFollow u none r = false → modeOf u r.hdr r.hdr.addr ≠ 2 →
    prepareStore u he (pageOf r.hdr.addr) = (v, .ready) → (v.pte he (pageOf r.hdr.addr)).loc = .t1 stack frame →
    (v.pte he (pageOf r.hdr.addr)).codec = 0 → v.home.waits = [] → v.memOk →
    applyStore v r.hdr he r.hdr.addr r.payload = (w, st) → Quiet (completeStatus w r st) = true →
    exec (.wr a) s = .next t →
    ∀ x, (x < t1Base + (stack * 786432 + frame) * 65536 + byteOf r.hdr.addr
        ∨ t1Base + (stack * 786432 + frame) * 65536 + byteOf r.hdr.addr + r.payload.length ≤ x) →
      Memory.read t.mem x = Memory.read v.mem x

/-- R145, R146, R165: an atomic that its rights allow, on a page without codec, stores its new value, records its result and answers the old
value. R167: one that the ledger has answers what is recorded, and one at or below the expired mark `STALE_RETRY` (0x21). R60: a Strict
composition refuses those that vary (0x13). R152: a combined fetch-add runs its members one after another and answers them all. R146: what the integer atomics store, by operand width in bytes `w`, old value and operand; a compare-and-swap stores its second operand
where the first equals the old value, and the old value elsewhere. -/
def Obligations.AtomicsAct : Prop :=
  ((∀ p ∈ [(Instr.atFaddI32, 0x20), (Instr.atFaddI64, 0x21), (Instr.atFaddF32, 0x22), (Instr.atFaddBf16, 0x23), (Instr.atMin, 0x24),
      (Instr.atMax, 0x25), (Instr.atSwap, 0x26), (Instr.atCas64, 0x27), (Instr.atCas128, 0x28), (Instr.atAnd, 0x29), (Instr.atOr, 0x2A),
      (Instr.atXor, 0x2B)],
    ∀ (s : State) (a : Arrival) (u : State) (r : Req), Reaches s a p.2 u r → isCombined u r.hdr = false →
    (atomicVaries p.2 r.hdr.etag = true → r.strict = true → exec (p.1 a) s = After s (completeStatus u r 0x13))
    ∧ ((atomicVaries p.2 r.hdr.etag && r.strict) = false → keyRevoked u r.hdr = false →
      ∀ h he, homeRights u r.hdr r.hdr.addr true false (isPinWord u r.hdr r.hdr.addr) = .ok h he →
      (∀ v st res, ledgerCheck u r.hdr.src r.hdr.seq r.hdr.isRetry = (v, .hit st res) →
        exec (p.1 a) s = After s (complete v r v.self st (res.take (atomicBytes p.2 r.hdr.etag)) (atomicVaries p.2 r.hdr.etag) 0))
      ∧ (∀ v, ledgerCheck u r.hdr.src r.hdr.seq r.hdr.isRetry = (v, .stale) → exec (p.1 a) s = After s (completeStatus v r 0x21))
      ∧ (∀ v w x : State, ∀ old : List Byte, ledgerCheck u r.hdr.src r.hdr.seq r.hdr.isRetry = (v, .fresh) → r.poisoned = false →
        pageCodec v he (pageOf r.hdr.addr) = 0 → mustFollow v none r = false → modeOf v r.hdr r.hdr.addr ≠ 2 →
        prepareStore v he (pageOf r.hdr.addr) = (w, .ready) → isPinWord w r.hdr r.hdr.addr = false →
        readPiece w [] r.hdr.comp.toNat he (pageOf r.hdr.addr) (byteOf r.hdr.addr) (atomicBytes p.2 r.hdr.etag) = .data old →
        applyStore w r.hdr he r.hdr.addr (atomicApply p.2 r.hdr.etag old r.payload) = (x, 0) →
        exec (p.1 a) s =
          (let y := ledgerPut x r.hdr.src r.hdr.seq r.hdr.opcode 0 old
           After s (complete y r y.self 0 old (atomicVaries p.2 r.hdr.etag) 0)))))
  ∧ (∀ (s : State) (a : Arrival) (u v x : State) (r : Req) (h : Ep) (he op : Nat) (m : Member) (l : List (Member × BitVec 8)),
    isFadd op = true → a.frame.hdr.opcode.toNat = op → Reaches s a op u r → isCombined u r.hdr = true → (atomicVaries op r.hdr.etag && r.strict) = false →
    keyRevoked u r.hdr = false → (parseMembers r.payload).head? = some m →
    homeRights u { r.hdr with src := m.src } r.hdr.addr true false (isPinWord u r.hdr r.hdr.addr) = .ok h he → r.poisoned = false →
    pageCodec u he (pageOf r.hdr.addr) = 0 → mustFollow u none r = false → modeOf u r.hdr r.hdr.addr ≠ 2 →
    prepareStore u he (pageOf r.hdr.addr) = (v, .ready) → runMembers v r.hdr he none (parseMembers r.payload) = (x, l) →
    exec (.combinedFetchAdd a) s = After s (complete x r x.self 0 (memberBytes l) true 0)))
  ∧ (∀ (etag : W64) (w old opnd : Nat),
    atomicNew 0x20 etag w old opnd = (old + opnd) % 2 ^ (8 * w) ∧ atomicNew 0x21 etag w old opnd = (old + opnd) % 2 ^ (8 * w)
    ∧ atomicNew 0x26 etag w old opnd = opnd ∧ atomicNew 0x29 etag w old opnd = old &&& opnd ∧ atomicNew 0x2A etag w old opnd = old ||| opnd
    ∧ atomicNew 0x2B etag w old opnd = old ^^^ opnd
    ∧ (etag.toNat % 8 = 2 ∨ etag.toNat % 8 = 3 →
      atomicNew 0x24 etag w old opnd = min opnd old ∧ atomicNew 0x25 etag w old opnd = max old opnd)
    ∧ (∀ op ∈ [0x27, 0x28], ∀ cmp swap bs : List Byte, cmp.length = bs.length →
      atomicApply op etag bs (cmp ++ swap) = if cmp = bs then swap else bs))

/-- R154 to R158: a copy starts with its counter's page held and its pieces on their way; a piece is stored at its destination and answered;
the end of a piece adds its length to the counter; an armed wait is answered at once where the counter has reached its target, and else
waits with the counter's page held. -/
def Obligations.CopiesAndCounters : Prop :=
  (∀ (s : State) (a : Arrival) (u : State) (r : Req) (place : Nat), Reaches s a 0x30 u r → funcOn u r.hdr.comp 6 = true → keyRevoked u r.hdr = false →
    r.poisoned = false → r.hdr.addr.toNat = wordAt r.payload 0 → bits 63 24 (wordAt r.payload 2) ≠ 0 →
    homedElsewhere u r.hdr (wordAt r.payload 0) = false → counterOk u r.hdr r.hdr.etag = some place → place < 2 ^ 50 →
    exec (.cpStart a) s = After s (startCopy u r place [(wordAt r.payload 0, wordAt r.payload 1, bits 63 24 (wordAt r.payload 2))]
      (bit 16 (wordAt r.payload 2)) (.ofNat 16 (bits 15 0 (wordAt r.payload 2))) none (extOf r.hdr.addr)))
  ∧ (∀ (s : State) (a : Arrival) (u v w : State) (r : Req) (h : Ep) (he : Nat) (st : BitVec 8), Reaches s a 0x31 u r → keyRevoked u r.hdr = false →
    pieceRights u r = .ok h he → r.poisoned = false → modeOf u r.hdr r.hdr.addr ≠ 2 →
    prepareStore u he (pageOf r.hdr.addr) = (v, .ready) → applyStore v r.hdr he r.hdr.addr r.payload = (w, st) →
    exec (.cpData a) s = After s (completeStatus w r st))
  ∧ (∀ (s : State) (a : Arrival) (u : State) (f : Frame) (o : OwnReq) (key c len : Nat), Returns s a u f → f.poisoned = false →
    findOwn u f = some (key, o) → o.why = .piece c len →
    exec (.cpPieceComplete a) s = After s (pumpCopy (pieceEnds (u.setXb { u.xb with own := KMap.del u.xb.own key }) c key len f.hdr.status) c))
  ∧ (∀ (s : State) (a : Arrival) (u : State) (r : Req) (place : Nat), Reaches s a 0x32 u r → keyRevoked u r.hdr = false → r.poisoned = false →
    counterOk u r.hdr r.hdr.addr = some place → place < 2 ^ 50 → bits 15 0 (wordAt r.payload 1) ≠ 0 →
    (let v := counterAt u (place / 2 ^ 30) (place / 65536 % 2 ^ 14) (place % 65536)
     let wake : Ep := .ofNat 16 (bits 63 48 (wordAt r.payload 1))
     (wordAt r.payload 0 ≤ v → wake = 0 → exec (.ctrArm a) s = After s (complete u r u.self 0 [] false 0))
     ∧ (wordAt r.payload 0 ≤ v → wake ≠ 0 → exec (.ctrArm a) s = After s (sendWake (complete u r u.self 0 [] false 0) r wake v))
     ∧ (v < wordAt r.payload 0 → u.home.waits.length < 65536 →
       exec (.ctrArm a) s =
         (let x : ArmedWait := { req := r, counter := place, target := wordAt r.payload 0, wake := wake,
                                 deadline := u.day + bits 15 0 (wordAt r.payload 1) }
          let t := u.setNextId (u.nextId + 1)
          After s (addHold (t.setHome { t.home with waits := KMap.put t.home.waits u.nextId x }) (place / 2 ^ 30) (place / 65536 % 2 ^ 14) true)))))

/-! ## Collectives and Reduce commands (R126 to R128, R232 to R251, R262) -/

/-- R244 to R248: the first contribution to a chunk that no record closes opens the chunk, is answered and staged; one to a chunk already closed is
answered, counted as a duplicate where its input was folded, and counted with the status of the record where it was not. R127: a result that
passes a node leaves by the multicast of its collective. R248: an open chunk closes with `TIMEOUT` at its deadline, and a record goes after
4,096 Days. R245: a frame of an engine's input queue is tried again. -/
def Obligations.ContributionsAreFolded : Prop :=
  (∀ (s : State) (a : Arrival) (u : State) (r : Req) (n : NodeEntry) (k : Nat), Reaches s a 0x40 u r → isTransient (tagColl r.hdr.etag) = false →
    nodeFor u (tagColl r.hdr.etag) (tagIdx r.hdr.etag) (isModule u r.hdr.src) = some n → (partition u n.comp .reduce).isEmpty = false →
    dieAvail u .reduce ((List.range 32).filterMap (fun i => if n.engMask.getLsbD i then some (32 * b2n n.die + i) else none)) (b2n n.die) ≠ .absent →
    findChunk u n r.hdr.stepLo (tagChunk r.hdr.etag) = none →
    tagChunk r.hdr.etag < n.chunks → r.hdr.addr.toNat < 65536 →
    frameElems n.op.toNat (inputCode n (isModule u r.hdr.src)) n.row (isArg n.op.toNat && isModule u r.hdr.src) r.payload.length = some k →
    bits 15 0 r.hdr.addr.toNat + k ≤ n.chunkElems → keyRevoked u r.hdr = false → r.hdr.comp = n.comp → r.poisoned = false →
    (∀ x, findRecord u n r.hdr.stepLo (tagChunk r.hdr.etag) = some x →
      (x.folded.contains (tagIdx r.hdr.etag) = true → exec (.reContrib a) s =
        After s (completeStatus (u.updEngine .reduce (chunkEngine n (tagChunk r.hdr.etag)) (fun e => { e with c1 := satAdd 16 e.c1 1 })) r 0))
      ∧ (x.folded.contains (tagIdx r.hdr.etag) = false → exec (.reContrib a) s =
        After s (completeStatus (u.updEngine .reduce x.engine (fun e => { e with c0 := satAdd 16 e.c0 1 })) r x.status)))
    ∧ (findRecord u n r.hdr.stepLo (tagChunk r.hdr.etag) = none → funcOn u n.comp 1 = true →
      accUsed u (chunkEngine n (tagChunk r.hdr.etag)) + accBytes n (u.strict n.comp) ≤ 1048576 →
      (isModule u r.hdr.src && decide (r.hdr.status.toNat ≥ 0x10)) = false →
      shareGone u r .reduce [chunkEngine n (tagChunk r.hdr.etag)] = false → queuedBefore u r .reduce = false →
      exec (.reContrib a) s =
        (let o := openChunk u n r.hdr.stepLo (tagChunk r.hdr.etag) r.hdr.epoch r.strict none (chunkEngine n (tagChunk r.hdr.etag))
         After s (stageFrame (completeStatus o.2 r 0) o.1 (tagIdx r.hdr.etag) (bits 15 0 r.hdr.addr.toNat) (isModule u r.hdr.src) r.payload))))
  ∧ (∀ (s : State) (a : Arrival) (u : State) (r : Req) (n : NodeEntry), Lands s a.port.toNat (asRequest 0x41 a.frame) u r →
    u.alm.cur.nodes.find? (fun n => n.collId == tagColl r.hdr.etag && n.comp == r.hdr.comp) = some n →
    exec (.reResult a) s = After s (multicast u (reqFrame r) (reqOrigin r) (KMap.getD u.alm.cur.mcast n.mcast []) none))
  ∧ (∀ (s : State) (key : Nat) (c : Chunk), KMap.find s.eng.chunks key = some c → KMap.find s.eng.attns key = none →
    c.openDay + c.node.deadline ≤ s.day → exec (.chunkDeadline key) s = After s (failChunk s key 0x50))
  ∧ (∀ (s : State) (key : Nat) (x : ChunkRecord), KMap.find s.eng.records key = some x → x.day + 4096 ≤ s.day →
    exec (.chunkRecordExpiry key) s = After s (s.setEng { s.eng with records := KMap.del s.eng.records key }))
  ∧ (∀ (s : State) (k : EngineKind) (n : BitVec 6), exec (.engineQueueRoom k n) s = After s s)
  ∧ (∀ (s : State) (id : Nat) (x : EngWait), s.eng.queue = [(id, x)] →
    retryQueue s = serve (s.setEng { s.eng with queue := [] }) (some (id, x.req.day)) x.req)

/-- R232 to R241, R262: a Reduce command that returns its result answers it, once its operands are at hand; an operand that cannot be read gives its
status. R86, R261: one whose function is off answers `FUNC_DISABLED` (0x11), a malformed one 0x10, and one with fresh random words in a Strict
composition 0x13. -/
def Obligations.ReduceCommandsRun : Prop :=
  ∀ (s : State) (a : Arrival) (u : State) (r : Req), Reaches s a 0x42 u r → engineAvail u r .reduce bothDies = .run →
    (let d := parseReCmd r.payload
     let reads := d.opnds.map (fun g => readOperand u r.hdr g d.opndBytes)
     (funcOn u r.hdr.comp 0 = false → exec (.reCmd a) s = After s (completeStatus u r 0x11))
     ∧ (funcOn u r.hdr.comp 0 = true → r.poisoned = false → (reCmdOk u r.hdr d r.payload.length = false → exec (.reCmd a) s = After s (completeStatus u r 0x10))
       ∧ (reCmdOk u r.hdr d r.payload.length = true →
         (d.fresh = true → r.strict = true → exec (.reCmd a) s = After s (completeStatus u r 0x13))
         ∧ ((d.fresh && r.strict) = false → keyRevoked u r.hdr = false → queuedBefore u r .reduce = false → engineBehind u r = false →
           reads.flatMap (·.need) = [] → d.ret = true →
           (let v := reads.foldl (fun s o => settleRead s r.hdr o) u
            let st := reads.foldl (fun a o => worse a o.status) 0
            (st.toNat ≥ 0x10 → exec (.reCmd a) s = After s (completeStatus v r st))
            ∧ (st.toNat < 0x10 → exec (.reCmd a) s =
              (let seed := commandSeed v r d.fresh
               let w := meterWork seed.2 r.hdr.comp .reduce (reqUnits seed.2 r .reduce)
               let x := d.compute r.strict (reqUnits w r .reduce).length seed.1 (reads.map (·.bytes))
               After s (complete w r w.self x.2.2 (if isArg d.op then padTo d.idxOffset x.1 ++ x.2.1 else x.1) d.fresh 0))))))))

/-! ## Search (R275 to R296) -/

/-- R275 to R278, R289, R292: a search with inline queries at the one module of its warren is opened; a well-formed update joins those of its
partition and the updates are applied as far as they may. R281: a scan starts with every earlier update applied and takes its views; R293:
its end merges the lists where they all are. R278: an update that has waited 1,024 Days answers `TIMEOUT` (0x50). -/
def Obligations.SearchesAndUpdatesProceed : Prop :=
  (∀ (s : State) (a : Arrival) (u : State) (r : Req) (w : Warren), Reaches s (searchArrival 0 a) 0x48 u r →
    engineAvail u r .score (warrenDies u r.hdr.comp (.ofNat 24 (bits 63 40 r.hdr.etag.toNat))) = .run → (reqUnits u r .reduce).isEmpty = false →
    queuedBefore u r .score = false →
    funcOn u r.hdr.comp 2 = true → r.poisoned = false → 64 ≤ r.payload.length → bits 63 62 (wordAt r.payload 0) = 0 →
    findWarren u r.hdr.comp (.ofNat 24 (bits 63 40 r.hdr.etag.toNat)) = some w → searchOk u r w = true → keyRevoked u r.hdr = false →
    w.spec.runs.length ≤ 1 → bit 35 (wordAt r.payload 0) = true →
    exec (.seSearch a) s =
      After s (openSearch u r w ((r.payload.drop (itemsAt r.payload)).take (searchNq r * vecBytes w.spec.fmt w.spec.dim.toNat))))
  ∧ (∀ p ∈ [(Instr.warrenInsert, 1), (Instr.warrenDelete, 2)], ∀ (s : State) (a : Arrival) (u : State) (r : Req) (w : Warren),
    Reaches s (searchArrival p.2 a) 0x48 u r →
    engineAvail u r .score (warrenDies u r.hdr.comp (.ofNat 24 (bits 63 40 r.hdr.etag.toNat))) ≠ .absent → funcOn u r.hdr.comp 2 = true →
    r.poisoned = false → 64 ≤ r.payload.length → updateOk r = true → bits 63 62 (wordAt r.payload 0) = p.2 → findWarren u r.hdr.comp (.ofNat 24 (bits 63 40 r.hdr.etag.toNat)) = some w →
    (let n := bits 61 56 (wordAt r.payload 0) + 1
     let items := parseItems w.spec (p.2 == 1) n (r.payload.drop 64)
     ∀ (i : Bool × VecEntry) (rest : List (Bool × VecEntry)), items = i :: rest →
     (let k := partitionOf i.2.id w.spec.pTotal.toNat
      (∀ j ∈ items, j.2.id ≠ 0xFFFFFFFFFFFFFFFF ∧ partitionOf j.2.id w.spec.pTotal.toNat = k) →
      64 + itemsBytes w.spec (p.2 == 1) n ≤ r.payload.length → (KMap.find u.eng.parts (partKey r.hdr.comp w.spec.warren k)).isSome = true →
      keyRevoked u r.hdr = false →
      exec (p.1 a) s =
        (let x : HeldUpdate := { req := r, part := partKey r.hdr.comp w.spec.warren k, items := items, stamp := r.day + 1, count := 0, day := r.day }
         let t := u.setNextId (u.nextId + 1)
         After s (drainUpdates (t.setEng { t.eng with updates := KMap.put t.eng.updates u.nextId x }))))))
  ∧ (∀ (s : State) (id : Nat) (x : Search) (w : Warren), KMap.find s.eng.searches id = some x →
    findWarren s x.req.hdr.comp (.ofNat 24 (bits 63 40 x.req.hdr.etag.toNat)) = some w →
    (x.started = false → (∀ q ∈ s.eng.updates, q.2.part / 2 ^ 16 = warrenKey w.spec.comp w.spec.warren → x.snap < q.2.stamp) →
      (∀ i v, i < w.pLocal → KMap.find s.eng.parts (warrenKey w.spec.comp w.spec.warren * 2 ^ 16 + (w.pFirst + i)) = some v →
        (ownExtent s w.spec.comp v.ext).isSome = true) →
      exec (.partitionScanStart id) s =
        (let views := (List.range w.pLocal).foldl (fun m i =>
           match KMap.find s.eng.parts (warrenKey w.spec.comp w.spec.warren * 2 ^ 16 + (w.pFirst + i)) with
           | some v => KMap.put m (w.pFirst + i) v
           | none => m) []
         After s (s.setEng { s.eng with searches := KMap.put s.eng.searches id { x with started := true, views := views } })))
    ∧ (x.started = true → x.done = false → x.coordinator = true → w.spec.runs.length ≤ 1 → (scanLists s x w.spec).2.1.toNat < 0x10 →
      exec (.partitionScanEnd id) s =
        (let t := meterWork s x.req.hdr.comp .score (workUnits s x.req .score (warrenDies s x.req.hdr.comp w.spec.warren))
         let t := heatPages (meterWork t x.req.hdr.comp .reduce [mergeEngine t x.req]) (scanLists s x w.spec).2.2 false
         After s ((scanLists s x w.spec).1.zipIdx.foldl (fun s l => mergedList s id l.2 l.1)
           (t.setEng { t.eng with searches := KMap.put t.eng.searches id { x with done := true, views := [] } })))))
  ∧ (∀ (s : State) (id : Nat) (x : HeldUpdate), KMap.find s.eng.updates id = some x → x.day + 1024 ≤ s.day →
    exec (.warrenUpdateTimeout id) s = After s (completeStatus (s.setEng { s.eng with updates := KMap.del s.eng.updates id }) x.req 0x50))

/-- R283, R284: a Harvest starts with its partition marked and what its copy takes fixed; its copy makes the next version in the die's spare;
once no search reads the old version, its extent is the spare. R285: a fault starts the copy again. -/
def Obligations.HarvestsProceed : Prop :=
  (∀ (s : State) (c : BitVec 12) (wn : BitVec 24) (n : BitVec 16) (p : Part) (w : Warren),
    KMap.find s.eng.parts (partKey c wn n.toNat) = some p → KMap.find s.eng.warrens (partKey c wn n.toNat / 2 ^ 16) = some w →
    harvestDue s (partKey c wn n.toNat) = true → s.eng.harvests = [] → s.eng.parts = [(partKey c wn n.toNat, p)] →
    (KMap.find s.eng.spares (spareKey (partKey c wn n.toNat / 2 ^ 16) (extentDie s w.spec.comp p.ext))).isSome = true →
    exec (.harvestStart c wn n) s =
      (let k := partKey c wn n.toNat
       let x : HarvestSt := { part := k, die := extentDie s w.spec.comp p.ext, lineDay := settleLine s k, start := p, next := none, oldExt := none }
       let t := s.setNextId (s.nextId + 1)
       After s (setPart (t.setEng { t.eng with harvests := KMap.put t.eng.harvests s.nextId x }) k { p with harvesting := true })))
  ∧ (∀ (s : State) (die : Bool) (id : Nat) (h : HarvestSt) (p : Part) (w : Warren), harvestOn s (b2n die) = some (id, h) →
    KMap.find s.eng.parts h.part = some p →
    (exec (.harvestFault die) s =
      After s (s.setEng { s.eng with harvests := KMap.put s.eng.harvests id { h with lineDay := settleLine s h.part, start := p, next := none } }))
    ∧ (KMap.find s.eng.warrens (h.part / 2 ^ 16) = some w → exec (.harvestCopyEnd die) s =
      (let v := harvested w.spec.cap.toNat h.lineDay (KMap.getD s.eng.spares (spareKey (h.part / 2 ^ 16) (b2n die)) 0) h.start p
       After s (writeVersion (s.setEng { s.eng with harvests := KMap.put s.eng.harvests id { h with next := some v } }) w.spec.comp w.spec v))))
  ∧ (∀ (s : State) (die : Bool) (id ext : Nat) (gen : BitVec 6) (h : HarvestSt), s.eng.harvests = [(id, h)] → h.oldExt = some (ext, gen) →
    h.die = b2n die → s.eng.searches.any (fun x => x.2.views.any (fun v => v.2.ext == ext && v.2.gen == gen)) = false →
    exec (.harvestOldRelease die) s =
      After s (s.setEng { s.eng with harvests := [], spares := KMap.put s.eng.spares (spareKey (h.part / 2 ^ 16) (b2n die)) ext }))

/-! ## KV pages and attention (R300 to R323) -/

/-- R304, R306, R308 to R311: an append, create, fork, truncate or release joins the line of its record, and every line is served as far as it may:
a command that is done is answered. R455: with KV off it answers `FUNC_DISABLED` (0x11). R306: one that has waited 1,024 Days answers `TIMEOUT`
(0x50). R301, R308: a create of a record not in use opens it with the layers and dimension it names and no pages. R310: a truncate of a record
that is not open answers 0x10. R311: a release of a record that scans read waits, the record releasing. -/
def Obligations.KvCommandsAct : Prop :=
  ((∀ (s : State) (a : Arrival) (u : State) (r : Req), Reaches s a 0x15 u r →
    (let id := extOf r.hdr.addr * 1024 + r.hdr.addr.toNat % 2 ^ 30 / 4096
     (funcOn u r.hdr.comp 4 = false → exec (.wrAppend a) s = After s (completeStatus u r 0x11))
     ∧ (∀ h he, funcOn u r.hdr.comp 4 = true → keyRevoked u r.hdr = false → homeRights u r.hdr r.hdr.addr true true false = .ok h he →
       r.poisoned = false → r.hdr.addr.toNat % 4096 = 0 → r.hdr.addr.toNat % 2 ^ 30 < 64 * 65536 → (seqHome u r.hdr.comp id).isSome = true →
       exec (.wrAppend a) s =
         (let t := u.setNextId (u.nextId + 1)
          After s (drainKv (t.setEng { t.eng with kvHeld := KMap.put t.eng.kvHeld u.nextId { req := r, seqId := id, day := r.day } }))))))
  ∧ (∀ p ∈ [(Instr.kvCreate, 1), (Instr.kvFork, 2), (Instr.kvTruncate, 3), (Instr.kvRelease, 4)], ∀ (s : State) (a : Arrival) (u : State) (r : Req),
    Reaches s (attnArrival p.2 a) 0x49 u r → bits 63 61 (wordAt r.payload 0) = p.2 →
    (funcOn u r.hdr.comp 4 = false → exec (p.1 a) s = After s (completeStatus u r 0x11))
    ∧ (funcOn u r.hdr.comp 4 = true → r.poisoned = false → (seqHome u r.hdr.comp (bits 63 32 r.hdr.etag.toNat)).isSome = true →
      64 ≤ r.payload.length → keyRevoked u r.hdr = false →
      exec (p.1 a) s =
        (let t := u.setNextId (u.nextId + 1)
         After s (drainKv (t.setEng { t.eng with
           kvHeld := KMap.put t.eng.kvHeld u.nextId { req := r, seqId := bits 63 32 r.hdr.etag.toNat, day := r.day } })))))
  ∧ (∀ (s : State) (id : Nat), exec (.kvTruncateApply id) s = After s s)
  ∧ (∀ (s t : State) (id : Nat) (h : KvHeld) (st : BitVec 8) (bs : List Byte), s.eng.kvHeld = [(id, h)] → runKv s h.req h.seqId = .done t st bs →
    drainKv s = complete (t.setEng { t.eng with kvHeld := KMap.del t.eng.kvHeld id }) h.req t.self st bs false 0)
  ∧ (∀ (s : State) (id : Nat) (h : KvHeld), KMap.find s.eng.kvHeld id = some h → h.day + 1024 ≤ s.day →
    exec (.kvHeldTimeout id) s = After s (completeStatus (s.setEng { s.eng with kvHeld := KMap.del s.eng.kvHeld id }) h.req 0x50)))
  ∧ ((∀ (s : State) (r : Req) (id : Nat) (t : State) (st : BitVec 8) (bs : List Byte), (seqOf s r.hdr.comp id).state ≠ 1 → runCreate s r id = .done t st bs → st = 0 →
    (seqOf t r.hdr.comp id).state = 1 ∧ (seqOf t r.hdr.comp id).nLayers = bits 61 54 (wordAt r.payload 1) + 1
      ∧ (seqOf t r.hdr.comp id).headDim = bits 47 38 (wordAt r.payload 1) ∧ (seqOf t r.hdr.comp id).map = [])
  ∧ (∀ (s : State) (r : Req) (id : Nat), (seqOf s r.hdr.comp id).state ≠ 1 → runTruncate s r id = .done s 0x10 [])
  ∧ (∀ (s : State) (r : Req) (id : Nat), (seqOf s r.hdr.comp id).state = 1 → (seqOf s r.hdr.comp id).scans > 0 → ∃ t, runRelease s r id = .hold t
      ∧ (seqOf t r.hdr.comp id).state = 2))

/-- R312 to R317: an attention request of one segment with inline queries, its record at this module, is opened. R316: a scan outside the rights starts
empty. R317, R319: a scan ends with its partials merged at its coordinator, and a partial from another module is merged, or fails the request
where it is poisoned; one that an endpoint sends is not taken (R76: partials go from module to module). -/
def Obligations.AttentionProceeds : Prop :=
  (∀ (s : State) (a : Arrival) (u : State) (r : Req) (seq : Nat) (rest : List (Nat × Ep)), Reaches s (attnArrival 0 a) 0x49 u r →
    bits 63 61 (wordAt r.payload 0) = 0 → engineAvail u r .score (seqDies u r.hdr.comp (attnSeq r.payload)) = .run → queuedBefore u r .score = false →
    (reqUnits u r .reduce).isEmpty = false → funcOn u r.hdr.comp 3 = true → r.poisoned = false →
    attnHead r.payload ≤ r.payload.length → wordAt r.payload 6 / 2 ^ 16 = 0 → wordAt r.payload 7 / 2 ^ 46 = 0 → keyRevoked u r.hdr = false →
    attnSegs r.payload = (seq, u.self) :: rest → segRights u r.hdr seq = true → (seqHome u r.hdr.comp seq).isSome = true →
    (let w := wordAt r.payload
     let x := seqOf u r.hdr.comp seq
     let qlen := attnHeads (w 0) * x.headDim * qWidth (bits 41 40 (w 0))
     attnFits x (w 0) (bits 31 24 r.hdr.etag.toNat) = true → bit 39 (w 0) = false → bits 31 16 (w 0) ≠ 0 → bits 31 16 (w 0) ≤ 4096 →
     w 5 = 0 → attnHeads (w 0) * lseBytesLen x.headDim ≤ 4096 → rest = [] → bit 34 (w 0) = true → attnHead r.payload + qlen ≤ r.payload.length →
     (openTransients u).length < 256 →
     exec (.seAttn a) s = After s (openAttn u r seq x ((r.payload.drop (attnHead r.payload)).take qlen))))
  ∧ (∀ (s : State) (id : Nat) (k : KvScan), KMap.find s.eng.kvScans id = some k → k.assembly = false → k.started = false → k.seqId = 0xFFFFFFFF →
    scanReady s id k = true → engineAvail s k.req .score (seqDies s k.req.hdr.comp k.seqId) ≠ .wait →
    exec (.kvScanStart id) s = After s (s.setEng { s.eng with kvScans := KMap.put s.eng.kvScans id { k with started := true } }))
  ∧ (∀ (s : State) (id a : Nat) (k : KvScan), KMap.find s.eng.kvScans id = some k → k.assembly = false → k.started = true → s.home.operandWaits = [] →
    (scanRecords s k).2.toNat < 0x10 → k.coordinator = some a → k.seqId ≠ 0xFFFFFFFF →
    exec (.kvScanEnd id) s =
      (let t := heatPages (meterWork s k.req.hdr.comp .score (workUnits s k.req .score (seqDies s k.req.hdr.comp k.seqId))) (scanPages s k) false
       let v := putSeq t k.req.hdr.comp k.seqId { seqOf t k.req.hdr.comp k.seqId with scans := (seqOf t k.req.hdr.comp k.seqId).scans - 1 }
       After s (drainKv (attnPartials (v.setEng { v.eng with kvScans := KMap.del v.eng.kvScans id }) a k.segIdx 0 ((scanRecords s k).1.map lseBytes)))))
  ∧ (∀ (s : State) (a : Arrival) (u : State) (r : Req) (id : Nat) (x : Attn), Lands s a.port.toNat (asRequest 0x4A a.frame) u r →
    KMap.first? u.eng.attns (fun _ y => y.mergeId == bits 23 0 r.hdr.etag.toNat) = some (id, x) → x.req.hdr.comp = r.hdr.comp →
    (r.edge = true → exec (.sePartial a) s = After s u)
    ∧ (r.edge = false → r.poisoned = true → exec (.sePartial a) s = After s (failAttn u id 0x40))
    ∧ (r.edge = false → r.poisoned = false → r.hdr.status.toNat < 0x10 →
      exec (.sePartial a) s = After s (attnPartials u id (bits 31 24 r.hdr.addr.toNat) (bits 23 12 r.hdr.addr.toNat)
        (chunksOf (lseBytesLen x.row) r.payload.length r.payload))))

/-! ## Gather engines (R325 to R343) -/

/-- R330 to R334: a gather whose lists and rows are at hand answers its rows in list order, a bag its folded rows, and a scatter writes its rows; an index
outside the object answers 0x10. R340: a walk answers its record. R336: a KV assembly joins the scans of its record. R343: a request that waits
past its deadline answers `TIMEOUT` (0x50). -/
def Obligations.GathersRun : Prop :=
  (∀ p ∈ [(Instr.geGather, 0x50), (Instr.geScatter, 0x51), (Instr.geBag, 0x52)], ∀ (s : State) (a : Arrival) (u : State) (r : Req) (o : GatherObj),
    Reaches s a p.2 u r → findObject u r.hdr false = some o →
    (let d := parseGather r.payload
     let lists := gatherLists u r d o
     let idx := wordsOf d.idxBytes ((lists.map (·.bytes)).getD 0 [])
     let live := idx.filter (· != d.skip)
     let v := lists.foldl (fun s l => settleRead s r.hdr l) u
     gatherChecks u none r 5 d.deadline (gatherDies u r (some o)) (decide (64 ≤ r.payload.length) && gatherOk u r.hdr d o r.payload.length) = none →
     lists.flatMap (·.need) = [] → (∀ l ∈ lists, l.status = 0) →
     (live.any (fun i => decide (i ≥ o.count)) = true → exec (p.1 a) s = After s (gatherEnds v r 0x10))
     ∧ (live.any (fun i => decide (i ≥ o.count)) = false → (p.2 = 0x52 → offsetsOk d.n (wordsOf 4 ((lists.map (·.bytes)).getD 2 [])) = true) →
       (p.2 = 0x51 → ∀ w, readyRows u r.hdr o live = (w, none) →
         exec (p.1 a) s =
           (let rows := (idx.zip (chunksOf o.stride (d.n + 1) ((lists.map (·.bytes)).getD 3 []))).filter (fun q => q.1 != d.skip)
            let w := lists.foldl (fun s l => settleRead s r.hdr l) w
            let w := meterWork (w.updEngine .gather (gatherEngine u r) (fun e => { e with c2 := satAdd 16 e.c2 (idx.length - live.length) })) r.hdr.comp
              .gather (workUnits (readyRows u r.hdr o live).1 r .gather (gatherDies (readyRows u r.hdr o live).1 r (some o)))
            let x := scatterRows w r.hdr o rows
            After s (gatherEnds x.1 r x.2)))
       ∧ (p.2 ≠ 0x51 → d.outGfa = 0 →
         (let reads := live.map (fun i => (i, readOperand u r.hdr (o.base + i * o.stride) o.stride))
          reads.flatMap (·.2.need) = [] → (∀ q ∈ reads, q.2.status = 0) →
          exec (p.1 a) s =
            (let w := reads.foldl (fun s q => settleRead s r.hdr q.2) u
             let w := lists.foldl (fun s l => settleRead s r.hdr l) w
             let units := workUnits (reads.foldl (fun s q => settleRead s r.hdr q.2) u) r .gather
               (gatherDies (reads.foldl (fun s q => settleRead s r.hdr q.2) u) r (some o))
             let w := meterWork (w.updEngine .gather (gatherEngine u r) (fun e => { e with c2 := satAdd 16 e.c2 (idx.length - live.length) })) r.hdr.comp
               .gather units
             let w := dropDeadline w r
             let rows := idx.map (fun i => match reads.find? (fun q => q.1 == i) with | some q => q.2.bytes | none => zeros o.stride)
             let out := if p.2 = 0x52 then bagBytes d r.strict o idx (wordsOf 4 ((lists.map (·.bytes)).getD 2 []))
               (decodeElems 0 false ((lists.map (·.bytes)).getD 1 [])) rows else rows.flatten
             After s (complete w r w.self 0 out false 0)))))))
  ∧ (∀ (s : State) (a : Arrival) (u : State) (r : Req) (o : GatherObj), Reaches s a 0x54 u r → findObject u r.hdr true = some o →
    (let d := parseWalk r.payload
     let seeds := wordsOf 4 ((r.payload.drop 64).take (4 * d.seeds))
     let w := runWalk u r.hdr o d seeds
     gatherChecks u none r 5 d.deadline (gatherDies u r (some o)) (walkOk u r.hdr d r.payload.length) = none → d.inl = true → d.outGfa = 0 →
     seeds.any (fun n => decide (n ≥ o.count)) = false → w.need = [] → w.status.toNat < 0x10 →
     exec (.geWalk a) s =
       (let v := settleRead u r.hdr { bytes := [], viols := w.viols, status := 0, need := [], bad := w.poisons, pages := w.pages }
        let v := v.updEngine .gather (gatherEngine v r) (fun e => { e with c0 := satAdd 16 e.c0 w.skips, c1 := satAdd 16 e.c1 w.bad })
        let v := dropDeadline (meterWork v r.hdr.comp .gather (workUnits v r .gather (gatherDies v r (some o)))) r
        After s (complete v r v.self (walkStatus d w) (walkRecord d w) false 0))))
  ∧ (∀ (s : State) (a : Arrival) (u : State) (r : Req), Reaches s a 0x53 u r →
    (let seq := bits 63 32 r.hdr.etag.toNat
     64 ≤ r.payload.length → segRights u r.hdr seq = true →
     gatherChecks u none r 4 (bits 31 16 (wordAt r.payload 0)) (dieOfPort r.port :: seqDies u r.hdr.comp seq) (kvasmOk u r.hdr r.payload) = none →
    exec (.geKvasm a) s =
      (let k : KvScan := { req := r, seqId := bits 63 32 r.hdr.etag.toNat, layer := bits 31 24 r.hdr.etag.toNat, coordinator := none, mergeId := 0,
                           mergeEp := 0, segIdx := 0, last := true, started := false, ended := 0, queries := [], assembly := true,
                           deadline := r.day + bits 31 16 (wordAt r.payload 0) }
       After s (addScan (dropDeadline u r) k))))
  ∧ (∀ (s : State) (id : Nat) (w : GatherWait), KMap.find s.eng.gwaits id = some w → w.deadline ≤ s.day →
    exec (.requestDeadline id) s = After s (gatherEnds (forgetReq s w.req) w.req 0x50))

/-! ## Completions and windows (R128, R142, R148, R150, R153, R161, R191, R440) -/

/-- Completions that come back to this module end what waited for them: a back-invalidate (R142), a read or write at a tray (R191), the
members of a combined request (R148, R153). One that passes its source's first hop marks its request complete, ends its lease and goes on
(R161, R440). The window of a combine entry closes it (R148, R150). -/
def Obligations.CompletionsEndWaits : Prop :=
  (∀ (s : State) (a : Arrival) (u : State) (f : Frame) (o : OwnReq) (key : Nat), Returns s a u f → f.poisoned = false → findOwn u f = some (key, o) →
    (let t := u.setXb { u.xb with own := KMap.del u.xb.own key }
     (∀ line ep, o.why = .binv line ep → exec (.binvCompletion a) s = After s (binvDone t line ep))
     ∧ (∀ id x, o.why = .fetch id → KMap.find u.home.fetches id = some x →
       exec (.trayCompletion a) s = After s (trayAnswer t id x f.hdr.status f.payload))
     ∧ (∀ e, o.why = .combine e → exec (.combinedReply a) s = After s (combinedAnswer t e f.hdr.status f.payload))))
  ∧ (∀ (s : State) (line : Nat) (b : BinvSt) (d : DirEntry) (ep : Ep), KMap.find s.home.binv line = some b → b.await = [ep] →
    KMap.find s.home.dir line = some d → (d.state = .o ∨ b.evict = true) →
    KMap.find (binvDone s line ep).home.binv line = none ∧ KMap.find (binvDone s line ep).home.dir line = none)
  ∧ (∀ (s : State) (a : Arrival) (b : PortBind) (p e : Nat), s.bind a.port.toNat = some b → b.fabric = true → portLive s a.port.toNat = true →
    (let r := portReq s b a.port.toNat none (asCompletion a.frame)
     let t := frameHeard s a.port.toNat r.hdr
     let v := endOut t (reqFrame r)
     r.hdr.dest ≠ s.self → localPort t r.hdr.dest = some e → nextPort v r.hdr.src r.hdr.dest r.hdr.cls = some p →
     v = (markComplete t (reqFrame r)).setXb { (markComplete t (reqFrame r)).xb with
       leases := KMap.keep (markComplete t (reqFrame r)).xb.leases (fun _ l =>
         !(l.req.hdr.src == r.hdr.dest && l.req.hdr.seq == r.hdr.seq && l.req.hdr.addr == r.hdr.addr)) }
     ∧ exec (.completionReturn a) s = After s (forwardReq v r p)))
  ∧ (∀ (s : State) (id : Nat) (c : Combine), KMap.find s.xb.combine id = some c → c.isOpen = true → c.opened + (s.port c.egress).w ≤ s.now →
    (c.isRead = true → exec (.combineWindowClose id) s =
      After s (s.setXb { s.xb with combine := KMap.put s.xb.combine id { c with isOpen := false } }))
    ∧ (c.isRead = false → exec (.combineWindowClose id) s = After s (closeFadd s id c)))

/-! ## Coded groups (R46 to R55) -/

/-- R46, R55: a member that reaches the decoder on its path in its cycle is held for the decode cycle. R51 to R54: at that cycle the two data
members of a group, intact with its parity, are delivered; with the second missing, it is rebuilt from the others, counted in `XB_EC_REBUILT`,
and delivered in its place. R54: the rights of a group are one: where the second is a violation, the first ends silently with it. -/
def Obligations.CodedGroupsDecode : Prop :=
  (∀ (s : State) (flow group : BitVec 16) (member : BitVec 4) (a : Arrival) (x : Flow) (p e : Nat), portLive s a.port.toNat = true →
    decodedFlow s flow.toNat = some x → (x.groupMembers group.toNat)[member.toNat]? = some (p, e) → p = a.port.toNat →
    s.time.cycle ≤ e + 4 → e ≤ s.time.cycle + 4 →
    exec (.ecMemberArrival flow group member a) s =
      (let k := groupKey flow.toNat group.toNat
       let g := KMap.getD s.xb.ec k { members := [], day := s.day }
       After s (s.setXb { s.xb with
         ec := KMap.put s.xb.ec k { g with members := KMap.put g.members member.toNat (if a.frame.poisoned then none else some a.frame) } })))
  ∧ (∀ (s : State) (flow group : BitVec 16) (x : Flow) (f f' g : Frame) (e : CompEntry) (whole : Bool) (day : Nat), s.running = true →
    decodedFlow s flow.toNat = some x → x.groupMembers group.toNat ≠ [] → x.decodeAt group.toNat ≤ s.time.cycle → x.ecK = 2 →
    KMap.find s.xb.ec (groupKey flow.toNat group.toNat) =
      some { members := if whole then [(0, some f), (1, some f'), (2, some g)] else [(0, some f), (2, some g)], day := day } →
    (let t := s.setXb { s.xb with ec := KMap.del s.xb.ec (groupKey flow.toNat group.toNat) }
     let port (i : Nat) : Nat := ((x.groupMembers group.toNat).getD i (0, 0)).1
     (∀ h ∈ [f, f', g], h.hdr.comp = x.comp ∧ h.hdr.tenant = e.tenant) → t.compEntry x.comp = some e → groupCheck t f.hdr = none →
     let v := if whole then t else t.setXb { t.xb with ecRebuilt := satAdd 64 t.xb.ecRebuilt 1 }
     let second := if whole then f' else rebuild g [f] x.comp e.tenant
     memberViolation v f = none →
     (memberViolation v second = none →
       exec (.ecDecodeCycle flow group) s = After s (deliverMember (deliverMember v (port 0) f) (port 1) second))
     ∧ (∀ k, memberViolation v second = some k →
       exec (.ecDecodeCycle flow group) s =
         (let r := memberReq v (port 0) f
          let w := complete v r v.self 0 (violPayload f.hdr) false (violTime r)
          After s (violation w (memberReq w (port 1) second) w.self k)))))

/-! ## The Chronicle (R348 to R361) -/

/-- R350: a leader that has sent nothing for 64 Days appends a `NOP`; a follower without an entry of its term for 256 + 64 × rank Days becomes a
candidate; a candidate that has not won in 128 Days is a follower again. R355: an entry goes again to a module that has not answered it for 16
Days. R354: an inherited entry is settled after 64 Days. R361: an old epoch's grace ends. -/
def Obligations.ChronicleTimersAct : Prop :=
  (∀ s : State, s.running = true → s.ch.role = 3 → s.ch.lastSent + 64 ≤ s.day → exec .leaderNop s = AfterEntry s (append s 0 .nop 0 none))
  ∧ (∀ s : State, s.running = true → s.ch.role = 1 → s.ch.lastHeard + 256 + 64 * s.ch.rank ≤ s.day →
    exec .electionTimeout s = AfterEntry s (becomeCandidate s))
  ∧ (∀ s : State, s.running = true → s.ch.role = 2 → s.ch.candSince + 128 ≤ s.day →
    exec .candidateTimeout s = AfterEntry s (s.setCh { s.ch with role := 1, lastHeard := s.day, votes := [] }))
  ∧ (∀ (s : State) (m : Ep) (i : W64) (e : Entry) (d : Nat), s.running = true → s.ch.role = 3 → KMap.find s.ch.log i.toNat = some e →
    KMap.find s.ch.unacked i.toNat = some [(m, d)] → d + 16 ≤ s.day →
    exec (.entryResend m i) s =
      AfterEntry s (sendEntry (s.setCh { s.ch with unacked := KMap.put s.ch.unacked i.toNat [(m, s.day)] }) m e false))
  ∧ (∀ (s : State) (i : W64) (x : Settle), s.running = true → s.ch.role = 3 → KMap.find s.ch.settle i.toNat = some x → x.day + 64 ≤ s.day →
    exec (.settleQueryTimeout i) s = AfterEntry s (settleEntry s i.toNat x))
  ∧ (∀ (s : State) (c : BitVec 12) (d : Nat), (s.comp c).graceEnd = some d → d ≤ s.day →
    exec (.graceEnd c) s = commit s (s.updComp c (fun x => { x with graceEnd := none, old := [] })))

/-- R351: a vote request of a higher term, from a member whose log is up to date, gets the vote of a member that has not voted in it. R353 to
R356: an entry is stored, held for its Day where it is committed and concerns this module, and answered; one whose Day has come fences the
module. A vote that comes back is counted. -/
def Obligations.ChronicleFramesAreTaken : Prop :=
  (∀ (s : State) (a : Arrival) (u : State) (r : Req), Reaches s a 0x80 u r → bits 63 32 (wordAt r.payload 1) > u.ch.term →
    (let v := adoptTerm u (bits 63 32 (wordAt r.payload 1))
     let upToDate := wordAt r.payload 4 > lastTerm v ∨ (wordAt r.payload 4 = lastTerm v ∧ wordAt r.payload 5 ≥ lastIndex v)
     v.ch.term = bits 63 32 (wordAt r.payload 1)
     ∧ (u.ch.role ≠ 0 → u.alm.cur.members.contains r.hdr.src = true → u.ch.votedTerm < bits 63 32 (wordAt r.payload 1) → upToDate →
       exec (.voteReq a) s =
         (let w := v.setCh { v.ch with votedTerm := v.ch.term, lastHeard := v.day }
          AfterEntry s (complete w r w.self 0 (voteBytes w true) false 0)))
     ∧ (¬ upToDate → exec (.voteReq a) s = AfterEntry s (complete v r v.self 0 (voteBytes v false) false 0))))
  ∧ (∀ (s : State) (a : Arrival) (u : State) (r : Req) (e : Entry) (c : Nat), s.rst.selfFenced = false → Reaches s a 0x80 u r →
    bits 31 24 (wordAt r.payload 1) ≠ 1 → parseEntry r.payload = some (e, c) →
    (r.hdr.addr = 1 → exec (.chEntry a) s = AfterEntry s (complete u r u.self 0 (voteBytes u (holdsEntry u e.index)) false 0))
    ∧ (r.hdr.addr ≠ 1 → u.ch.term ≤ e.term →
      (let v := adoptTerm u e.term
       let v := v.setCh { v.ch with leader := r.hdr.src, lastHeard := v.day, role := if v.ch.role = 2 then 1 else v.ch.role }
       let w := if v.ch.role = 0 then v else v.setCh { v.ch with log := KMap.put v.ch.log e.index e, commit := max v.ch.commit c }
       ((c < e.index ∨ holdsEntry w e.index = true ∨ (involved w e.comp e.body).contains w.self = false) →
         exec (.chEntry a) s = AfterEntry s (complete w r w.self 0 (voteBytes w true) false 0))
       ∧ (e.index ≤ c → holdsEntry w e.index = false → (involved w e.comp e.body).contains w.self = true → w.day < e.day →
         exec (.chEntry a) s = AfterEntry s (complete (holdEntry w e) r (holdEntry w e).self 0 (voteBytes (holdEntry w e) true) false 0))
       ∧ (e.index ≤ c → holdsEntry w e.index = false → (involved w e.comp e.body).contains w.self = true → e.day ≤ w.day →
         (∃ b, e.body = .grant b) →
         exec (.chEntry a) s = AfterEntry s (complete (selfFence w) r (selfFence w).self 0 (voteBytes (selfFence w) true) false 0)))))
  ∧ (∀ (s : State) (a : Arrival) (u : State) (f : Frame) (o : OwnReq) (key i : Nat) (q : Bool), Returns s a u f → f.poisoned = false →
    findOwn u f = some (key, o) → o.why = .vote i q → f.hdr.status.toNat < 0x10 →
    exec (.chVote a) s =
      (let t := u.setXb { u.xb with own := KMap.del u.xb.own key }
       let v : VoteIn := { src := f.hdr.src, term := bits 63 32 (wordAt f.payload 0), granted := bit 31 (wordAt f.payload 0),
                           last := wordAt f.payload 1, about := i, query := q }
       AfterEntry s (t.setCh { t.ch with inbox := t.ch.inbox ++ [v] })))

/-! ## Health (R206, R414 to R428) -/

/-- R414: a heartbeat is noted with its penalties. R417, R418, R420: soft verdicts are repeated, a silent subject's home switch sends its
verdict, and verdicts are sent again after 64 Days. R423, R424: a witness's report is merged at the home switch, a home switch's taken at the
detector; R32: the Equinox root tells the control node of a module that took no part, as such a report reaches it (model's choice, log 146). R426: a job's fence order is taken up by the detector. R206, R207: a lender's first notice withdraws its lend, and one after the lend has
ended is answered with a release. -/
def Obligations.HealthFramesAndVerdicts : Prop :=
  (∀ (s : State) (a : Arrival) (u : State) (r : Req) (b : PortBind), Lands s a.port.toNat (toHere s a.frame 0x81) u r → u.bind a.port.toNat = some b →
    exec (.heartbeat a) s =
      (let w := wordAt r.payload 0
       let t := u.updPort a.port.toNat (fun p => { p with health := { p.health with hbSeen := true, hbEcc := bits 63 56 w, hbTemp := bits 55 48 w } })
       After s (t.setHealth { t.health with linkDownSeen := t.health.linkDownSeen.filter (fun p => p.1 != b.ep.toNat) })))
  ∧ (∀ (s : State) (p : PortNo) (peer : Bool) (b : PortBind) (d : Nat), s.running = true → s.bind p.toNat = some b → (s.port p.toNat).up = true →
    (let h := (s.port p.toNat).health
     (peer = true → h.peerScore < s.alm.cur.policy.scoreSoft → h.softPeerDay = some d → d + 64 ≤ s.day →
       exec (.softVerdictRepeat p peer) s = commit s (softVerdicts s p.toNat b))
     ∧ (peer = false → h.linkScore < s.alm.cur.policy.scoreSoft → h.softLinkDay = some d → d + 64 ≤ s.day →
       exec (.softVerdictRepeat p peer) s = commit s (softVerdicts s p.toNat b))))
  ∧ (∀ (s : State) (e : Ep) (b : PortBind), s.running = true → s.alm.cur.ports.find? (fun p => p.2.ep == e) = some (0, b) →
    (let r : Report := { subject := e, port := 0, kind := .ofNat 3 (partnerKind s b), cls := 1, score := 0xFF, witnesses := 1, first := s.self, day := s.day }
     homeSwitch s r = s.self → isFenced s e = false → s.alm.cur.policy.hbDead ≤ KMap.getD s.health.hbTable e.toNat 0 → linksGone s e = true →
     KMap.find s.health.resend (resendKey r) = none →
     exec (.hbLost e) s = AfterEntry s (sendMerged s r)))
  ∧ (∀ (s : State) (e : Ep) (k d : Nat) (r : Report), s.running = true → s.health.resend = [(k, (r, d))] → r.subject = e → d + 64 ≤ s.day →
    exec (.verdictResend e) s = AfterEntry s (toDetector (s.setHealth { s.health with resend := KMap.put s.health.resend k (r, s.day) }) r))
  ∧ (∀ (s : State) (a : Arrival) (u : State) (r : Req), Lands s a.port.toNat (asRequest 0x82 a.frame) u r →
    (let x := parseReport r.payload
     (x.first ≠ 0 → leads u = true → exec (.faultReport a) s = AfterEntry s (takeVerdict (rootTells u x) x))
     ∧ (x.first = 0 → x.cls ≠ 2 →
       exec (.faultReport a) s = AfterEntry s (mergeReport (rootTells u x) { x with first := r.hdr.src, witnesses := 1 }))
     ∧ (u.time.root = false → rootTells u x = u) ∧ (u.time.root = true → x.kind = 1 → x.cls = 8 → rootTells u x = note u 0 (reportWords x))))
  ∧ (∀ (s : State) (a : Arrival) (u : State) (r : Req) (b : PortBind) (c : BitVec 12), s.bind a.port.toNat = some b → u.bind a.port.toNat = some b →
    leads u = true →
    (let e : Ep := .ofNat 16 (bits 63 48 (wordAt r.payload 0))
     (b.fabric = true ∧ c = r.hdr.comp ∧ Lands s a.port.toNat (asRequest 0x85 a.frame) u r)
       ∨ (b.fabric = false ∧ b.comp = some c ∧ (∃ x, u.compEntry c = some x ∧ x.edges.contains e = true)
          ∧ Lands s a.port.toNat (toHere s a.frame 0x85) u r) →
     exec (.fenceDevice a) s =
       (let f : FenceBody := { fenceOf e 0 1 (bits 47 43 (wordAt r.payload 0)) 1 u.day with comp := c, witnesses := 1 }
        AfterEntry s (u.setHealth { u.health with orders := addOnce u.health.orders f }))))
  ∧ (∀ (s : State) (a : Arrival) (u : State) (r : Req) (l : Lend), Lands s a.port.toNat (asRequest 0x84 a.frame) u r →
    (let id := bits 63 56 (wordAt r.payload 0)
     KMap.find u.home.lends id = some l → bit 55 (wordAt r.payload 0) = false → l.lender = r.hdr.src →
     (l.ended = true → exec (.lendNotice a) s = After s (sendRelease u id l.lender))
     ∧ (l.ended = false → l.notice = none → exec (.lendNotice a) s =
       After s (withdrawLend (u.setHome { u.home with lends := KMap.put u.home.lends id { l with notice := some u.day } }) id))))

/-! ## The machine as a whole -/

/-- A step with a command waiting is that command's effect on the state with the rest of the queue. Model's choice, log 23: with none waiting, a
cycle passes. -/
def Obligations.StepTakesTheFrontCommand : Prop :=
  (∀ (c : Instr) (q : List Instr) (s : State), step (s.setPending (c :: q)) = exec c (s.setPending q))
  ∧ (∀ s : State, s.pending = [] → step s = commit s (finugPump (settle (sampleReads (idle (pumpAll s))))))

/-- What every step keeps, whatever the state and the command: it answers a next state, of the same variant, with the rest of the queue and
with storage in its canonical form. -/
def Obligations.StepKeepsTheInvariant : Prop :=
  ∀ (s : State) (v : Variant), s.memOk ∧ s.variant = v →
    Completes (step s) (fun t => t.memOk ∧ t.variant = v ∧ t.pending = s.pending.tail)

/-- R3: the two registers of the capability block, at their addresses, report the units of the variant (R2); no command, a write and a reset of
any class among them, changes what they read. -/
def Obligations.CapabilitiesAreFixed : Prop :=
  (∀ s : State, (s.variant = .f9616 → readReg s 0x0F0000A00000 = 0x1001810204240C00 ∧ readReg s 0x0F0000A00008 = 0x0000818480200000)
    ∧ (s.variant = .p9616 → readReg s 0x0F0000A00000 = 0x1002400204240C00 ∧ readReg s 0x0F0000A00008 = 0x0000818480200000)
    ∧ (s.variant = .f9608 → readReg s 0x0F0000A00000 = 0x1003810202240C00 ∧ readReg s 0x0F0000A00008 = 0x0000418240200000))
  ∧ (∀ (c : Instr) (s : State), Completes (exec c s) (fun t =>
    readReg t 0x0F0000A00000 = readReg s 0x0F0000A00000 ∧ readReg t 0x0F0000A00008 = readReg s 0x0F0000A00008))

/-- R79: what the completion of a request echoes, whoever answers it and with whatever status; outside TC0 nothing but the completion changes the
state, and its status is the one given. R19: it is sent at once where no earlier command of its source to the same engine is still open, and kept
until then where one is. -/
def Obligations.CompletionsEcho : Prop :=
  ∀ (s : State) (r : Req) (src : Ep) (status : BitVec 8) (payload : List Byte) (mv : Bool) (nb : Nat), completes r.hdr = true →
    payload.length < 65536 →
    ∃ (t : State) (h : Header), complete s r src status payload mv nb = sendAnswer t r { hdr := h, payload := payload, poisoned := false } nb
      ∧ (r.hdr.cls ≠ 0 → t = s ∧ h.status = status)
      ∧ h.etag = r.hdr.etag ∧ h.seq = r.hdr.seq ∧ h.addr = r.hdr.addr ∧ h.stepLo = r.hdr.stepLo ∧ h.epoch = r.hdr.epoch ∧ h.opcode = r.hdr.opcode
      ∧ h.dest = r.hdr.src ∧ h.src = src ∧ h.isResp = true ∧ h.length.toNat = payload.length
      ∧ (answersLater t r = false → complete s r src status payload mv nb =
          sendCompletion (releaseBulk t r) { hdr := h, payload := payload, poisoned := false } nb)
      ∧ (answersLater t r = true → ∃ id x, KMap.find (complete s r src status payload mv nb).eng.parked id = some x
          ∧ x.req = r ∧ x.frame = { hdr := h, payload := payload, poisoned := false } ∧ x.notBefore = nb)

/-- R364: a request whose epoch is not in force, older or newer than every one that is, is answered `STALE_EPOCH` (0x20) by the module that
refuses it, with the newest epoch in force there and the Day it took effect. -/
def Obligations.StaleEpochsAreRefused : Prop :=
  ∀ p ∈ [(Instr.rd, 0x10), (Instr.rdOwn, 0x11), (Instr.wr, 0x14), (Instr.wrAppend, 0x15), (Instr.atFaddI64, 0x21), (Instr.atCas64, 0x27),
      (Instr.cpStart, 0x30), (Instr.ctrArm, 0x32), (Instr.reContrib, 0x40), (Instr.reCmd, 0x42), (Instr.geGather, 0x50), (Instr.geWalk, 0x54)],
    ∀ (s : State) (a : Arrival) (b : PortBind), s.bind a.port.toNat = some b → portLive s a.port.toNat = true →
    (let r := portReq s b a.port.toNat none (asRequest p.2 a.frame)
     let t := frameHeard s a.port.toNat r.hdr
     r.hdr.cls ≠ 0 → (b.fabric = true ∨ formatOk t b r.hdr (reqSize r) = true) → isModule t r.hdr.src = false →
     epochInForce t r.hdr.comp r.hdr.epoch = false →
     ∃ bs : List Byte, exec (p.1 a) s = After s (complete (freeReq (markSource t r) r) r s.self 0x20 bs false 0)
       ∧ bs.length = 8 ∧ bits 63 48 (wordAt bs 0) = (t.comp r.hdr.comp).epoch.toNat
       ∧ bits 47 0 (wordAt bs 0) = (t.comp r.hdr.comp).epochDay % 2 ^ 48)

/-- The state after reset meets what every step keeps: its storage, in which nothing is listed, is in its canonical form; no command waits, and no
Almanac transaction is open. -/
def Obligations.ResetStarts : Prop :=
  State.reset.memOk ∧ State.reset.mem = [] ∧ State.reset.pending = [] ∧ State.reset.alm.txnState = .idle ∧ State.reset.ports = []

/-- The header of a frame, its 64 bytes written and read again, is the header (R69 to R71). -/
def Obligations.HeaderRoundTrip : Prop :=
  ∀ h : Header, parseHeader (headerBytes h) = h ∧ hcrcPasses (headerBytes h) = true ∧ (headerBytes h).length = 64

end Statements
end

