-- ==== Sys2Proof/Laws/State.lean ====
section
/-! SUPPORT. What each named update of the state changes and leaves: one lemma per field per update. -/

namespace Sys2Proof.Machine

@[simp] theorem State.setTime_variant (s : State) (x : TimeSt) : (s.setTime x).variant = s.variant := rfl
@[simp] theorem State.setTime_time (s : State) (x : TimeSt) : (s.setTime x).time = x := rfl
@[simp] theorem State.setTime_eqx (s : State) (x : TimeSt) : (s.setTime x).eqx = s.eqx := rfl
@[simp] theorem State.setTime_power (s : State) (x : TimeSt) : (s.setTime x).power = s.power := rfl
@[simp] theorem State.setTime_rst (s : State) (x : TimeSt) : (s.setTime x).rst = s.rst := rfl
@[simp] theorem State.setTime_den (s : State) (x : TimeSt) : (s.setTime x).den = s.den := rfl
@[simp] theorem State.setTime_kp (s : State) (x : TimeSt) : (s.setTime x).kp = s.kp := rfl
@[simp] theorem State.setTime_alm (s : State) (x : TimeSt) : (s.setTime x).alm = s.alm := rfl
@[simp] theorem State.setTime_ports (s : State) (x : TimeSt) : (s.setTime x).ports = s.ports := rfl
@[simp] theorem State.setTime_lanes (s : State) (x : TimeSt) : (s.setTime x).lanes = s.lanes := rfl
@[simp] theorem State.setTime_xb (s : State) (x : TimeSt) : (s.setTime x).xb = s.xb := rfl
@[simp] theorem State.setTime_comps (s : State) (x : TimeSt) : (s.setTime x).comps = s.comps := rfl
@[simp] theorem State.setTime_home (s : State) (x : TimeSt) : (s.setTime x).home = s.home := rfl
@[simp] theorem State.setTime_mem (s : State) (x : TimeSt) : (s.setTime x).mem = s.mem := rfl
@[simp] theorem State.setTime_eng (s : State) (x : TimeSt) : (s.setTime x).eng = s.eng := rfl
@[simp] theorem State.setTime_ch (s : State) (x : TimeSt) : (s.setTime x).ch = s.ch := rfl
@[simp] theorem State.setTime_health (s : State) (x : TimeSt) : (s.setTime x).health = s.health := rfl
@[simp] theorem State.setTime_scrub (s : State) (x : TimeSt) : (s.setTime x).scrub = s.scrub := rfl
@[simp] theorem State.setTime_sweeps (s : State) (x : TimeSt) : (s.setTime x).sweeps = s.sweeps := rfl
@[simp] theorem State.setTime_fn (s : State) (x : TimeSt) : (s.setTime x).fn = s.fn := rfl
@[simp] theorem State.setTime_meterReset (s : State) (x : TimeSt) : (s.setTime x).meterReset = s.meterReset := rfl
@[simp] theorem State.setTime_nextId (s : State) (x : TimeSt) : (s.setTime x).nextId = s.nextId := rfl
@[simp] theorem State.setTime_freeTick (s : State) (x : TimeSt) : (s.setTime x).freeTick = s.freeTick := rfl
@[simp] theorem State.setTime_pending (s : State) (x : TimeSt) : (s.setTime x).pending = s.pending := rfl
@[simp] theorem State.setEqx_variant (s : State) (x : EqxSt) : (s.setEqx x).variant = s.variant := rfl
@[simp] theorem State.setEqx_time (s : State) (x : EqxSt) : (s.setEqx x).time = s.time := rfl
@[simp] theorem State.setEqx_eqx (s : State) (x : EqxSt) : (s.setEqx x).eqx = x := rfl
@[simp] theorem State.setEqx_power (s : State) (x : EqxSt) : (s.setEqx x).power = s.power := rfl
@[simp] theorem State.setEqx_rst (s : State) (x : EqxSt) : (s.setEqx x).rst = s.rst := rfl
@[simp] theorem State.setEqx_den (s : State) (x : EqxSt) : (s.setEqx x).den = s.den := rfl
@[simp] theorem State.setEqx_kp (s : State) (x : EqxSt) : (s.setEqx x).kp = s.kp := rfl
@[simp] theorem State.setEqx_alm (s : State) (x : EqxSt) : (s.setEqx x).alm = s.alm := rfl
@[simp] theorem State.setEqx_ports (s : State) (x : EqxSt) : (s.setEqx x).ports = s.ports := rfl
@[simp] theorem State.setEqx_lanes (s : State) (x : EqxSt) : (s.setEqx x).lanes = s.lanes := rfl
@[simp] theorem State.setEqx_xb (s : State) (x : EqxSt) : (s.setEqx x).xb = s.xb := rfl
@[simp] theorem State.setEqx_comps (s : State) (x : EqxSt) : (s.setEqx x).comps = s.comps := rfl
@[simp] theorem State.setEqx_home (s : State) (x : EqxSt) : (s.setEqx x).home = s.home := rfl
@[simp] theorem State.setEqx_mem (s : State) (x : EqxSt) : (s.setEqx x).mem = s.mem := rfl
@[simp] theorem State.setEqx_eng (s : State) (x : EqxSt) : (s.setEqx x).eng = s.eng := rfl
@[simp] theorem State.setEqx_ch (s : State) (x : EqxSt) : (s.setEqx x).ch = s.ch := rfl
@[simp] theorem State.setEqx_health (s : State) (x : EqxSt) : (s.setEqx x).health = s.health := rfl
@[simp] theorem State.setEqx_scrub (s : State) (x : EqxSt) : (s.setEqx x).scrub = s.scrub := rfl
@[simp] theorem State.setEqx_sweeps (s : State) (x : EqxSt) : (s.setEqx x).sweeps = s.sweeps := rfl
@[simp] theorem State.setEqx_fn (s : State) (x : EqxSt) : (s.setEqx x).fn = s.fn := rfl
@[simp] theorem State.setEqx_meterReset (s : State) (x : EqxSt) : (s.setEqx x).meterReset = s.meterReset := rfl
@[simp] theorem State.setEqx_nextId (s : State) (x : EqxSt) : (s.setEqx x).nextId = s.nextId := rfl
@[simp] theorem State.setEqx_freeTick (s : State) (x : EqxSt) : (s.setEqx x).freeTick = s.freeTick := rfl
@[simp] theorem State.setEqx_pending (s : State) (x : EqxSt) : (s.setEqx x).pending = s.pending := rfl
@[simp] theorem State.setPower_variant (s : State) (x : PowerSt) : (s.setPower x).variant = s.variant := rfl
@[simp] theorem State.setPower_time (s : State) (x : PowerSt) : (s.setPower x).time = s.time := rfl
@[simp] theorem State.setPower_eqx (s : State) (x : PowerSt) : (s.setPower x).eqx = s.eqx := rfl
@[simp] theorem State.setPower_power (s : State) (x : PowerSt) : (s.setPower x).power = x := rfl
@[simp] theorem State.setPower_rst (s : State) (x : PowerSt) : (s.setPower x).rst = s.rst := rfl
@[simp] theorem State.setPower_den (s : State) (x : PowerSt) : (s.setPower x).den = s.den := rfl
@[simp] theorem State.setPower_kp (s : State) (x : PowerSt) : (s.setPower x).kp = s.kp := rfl
@[simp] theorem State.setPower_alm (s : State) (x : PowerSt) : (s.setPower x).alm = s.alm := rfl
@[simp] theorem State.setPower_ports (s : State) (x : PowerSt) : (s.setPower x).ports = s.ports := rfl
@[simp] theorem State.setPower_lanes (s : State) (x : PowerSt) : (s.setPower x).lanes = s.lanes := rfl
@[simp] theorem State.setPower_xb (s : State) (x : PowerSt) : (s.setPower x).xb = s.xb := rfl
@[simp] theorem State.setPower_comps (s : State) (x : PowerSt) : (s.setPower x).comps = s.comps := rfl
@[simp] theorem State.setPower_home (s : State) (x : PowerSt) : (s.setPower x).home = s.home := rfl
@[simp] theorem State.setPower_mem (s : State) (x : PowerSt) : (s.setPower x).mem = s.mem := rfl
@[simp] theorem State.setPower_eng (s : State) (x : PowerSt) : (s.setPower x).eng = s.eng := rfl
@[simp] theorem State.setPower_ch (s : State) (x : PowerSt) : (s.setPower x).ch = s.ch := rfl
@[simp] theorem State.setPower_health (s : State) (x : PowerSt) : (s.setPower x).health = s.health := rfl
@[simp] theorem State.setPower_scrub (s : State) (x : PowerSt) : (s.setPower x).scrub = s.scrub := rfl
@[simp] theorem State.setPower_sweeps (s : State) (x : PowerSt) : (s.setPower x).sweeps = s.sweeps := rfl
@[simp] theorem State.setPower_fn (s : State) (x : PowerSt) : (s.setPower x).fn = s.fn := rfl
@[simp] theorem State.setPower_meterReset (s : State) (x : PowerSt) : (s.setPower x).meterReset = s.meterReset := rfl
@[simp] theorem State.setPower_nextId (s : State) (x : PowerSt) : (s.setPower x).nextId = s.nextId := rfl
@[simp] theorem State.setPower_freeTick (s : State) (x : PowerSt) : (s.setPower x).freeTick = s.freeTick := rfl
@[simp] theorem State.setPower_pending (s : State) (x : PowerSt) : (s.setPower x).pending = s.pending := rfl
@[simp] theorem State.setRst_variant (s : State) (x : ResetSt) : (s.setRst x).variant = s.variant := rfl
@[simp] theorem State.setRst_time (s : State) (x : ResetSt) : (s.setRst x).time = s.time := rfl
@[simp] theorem State.setRst_eqx (s : State) (x : ResetSt) : (s.setRst x).eqx = s.eqx := rfl
@[simp] theorem State.setRst_power (s : State) (x : ResetSt) : (s.setRst x).power = s.power := rfl
@[simp] theorem State.setRst_rst (s : State) (x : ResetSt) : (s.setRst x).rst = x := rfl
@[simp] theorem State.setRst_den (s : State) (x : ResetSt) : (s.setRst x).den = s.den := rfl
@[simp] theorem State.setRst_kp (s : State) (x : ResetSt) : (s.setRst x).kp = s.kp := rfl
@[simp] theorem State.setRst_alm (s : State) (x : ResetSt) : (s.setRst x).alm = s.alm := rfl
@[simp] theorem State.setRst_ports (s : State) (x : ResetSt) : (s.setRst x).ports = s.ports := rfl
@[simp] theorem State.setRst_lanes (s : State) (x : ResetSt) : (s.setRst x).lanes = s.lanes := rfl
@[simp] theorem State.setRst_xb (s : State) (x : ResetSt) : (s.setRst x).xb = s.xb := rfl
@[simp] theorem State.setRst_comps (s : State) (x : ResetSt) : (s.setRst x).comps = s.comps := rfl
@[simp] theorem State.setRst_home (s : State) (x : ResetSt) : (s.setRst x).home = s.home := rfl
@[simp] theorem State.setRst_mem (s : State) (x : ResetSt) : (s.setRst x).mem = s.mem := rfl
@[simp] theorem State.setRst_eng (s : State) (x : ResetSt) : (s.setRst x).eng = s.eng := rfl
@[simp] theorem State.setRst_ch (s : State) (x : ResetSt) : (s.setRst x).ch = s.ch := rfl
@[simp] theorem State.setRst_health (s : State) (x : ResetSt) : (s.setRst x).health = s.health := rfl
@[simp] theorem State.setRst_scrub (s : State) (x : ResetSt) : (s.setRst x).scrub = s.scrub := rfl
@[simp] theorem State.setRst_sweeps (s : State) (x : ResetSt) : (s.setRst x).sweeps = s.sweeps := rfl
@[simp] theorem State.setRst_fn (s : State) (x : ResetSt) : (s.setRst x).fn = s.fn := rfl
@[simp] theorem State.setRst_meterReset (s : State) (x : ResetSt) : (s.setRst x).meterReset = s.meterReset := rfl
@[simp] theorem State.setRst_nextId (s : State) (x : ResetSt) : (s.setRst x).nextId = s.nextId := rfl
@[simp] theorem State.setRst_freeTick (s : State) (x : ResetSt) : (s.setRst x).freeTick = s.freeTick := rfl
@[simp] theorem State.setRst_pending (s : State) (x : ResetSt) : (s.setRst x).pending = s.pending := rfl
@[simp] theorem State.setDen_variant (s : State) (x : DenSt) : (s.setDen x).variant = s.variant := rfl
@[simp] theorem State.setDen_time (s : State) (x : DenSt) : (s.setDen x).time = s.time := rfl
@[simp] theorem State.setDen_eqx (s : State) (x : DenSt) : (s.setDen x).eqx = s.eqx := rfl
@[simp] theorem State.setDen_power (s : State) (x : DenSt) : (s.setDen x).power = s.power := rfl
@[simp] theorem State.setDen_rst (s : State) (x : DenSt) : (s.setDen x).rst = s.rst := rfl
@[simp] theorem State.setDen_den (s : State) (x : DenSt) : (s.setDen x).den = x := rfl
@[simp] theorem State.setDen_kp (s : State) (x : DenSt) : (s.setDen x).kp = s.kp := rfl
@[simp] theorem State.setDen_alm (s : State) (x : DenSt) : (s.setDen x).alm = s.alm := rfl
@[simp] theorem State.setDen_ports (s : State) (x : DenSt) : (s.setDen x).ports = s.ports := rfl
@[simp] theorem State.setDen_lanes (s : State) (x : DenSt) : (s.setDen x).lanes = s.lanes := rfl
@[simp] theorem State.setDen_xb (s : State) (x : DenSt) : (s.setDen x).xb = s.xb := rfl
@[simp] theorem State.setDen_comps (s : State) (x : DenSt) : (s.setDen x).comps = s.comps := rfl
@[simp] theorem State.setDen_home (s : State) (x : DenSt) : (s.setDen x).home = s.home := rfl
@[simp] theorem State.setDen_mem (s : State) (x : DenSt) : (s.setDen x).mem = s.mem := rfl
@[simp] theorem State.setDen_eng (s : State) (x : DenSt) : (s.setDen x).eng = s.eng := rfl
@[simp] theorem State.setDen_ch (s : State) (x : DenSt) : (s.setDen x).ch = s.ch := rfl
@[simp] theorem State.setDen_health (s : State) (x : DenSt) : (s.setDen x).health = s.health := rfl
@[simp] theorem State.setDen_scrub (s : State) (x : DenSt) : (s.setDen x).scrub = s.scrub := rfl
@[simp] theorem State.setDen_sweeps (s : State) (x : DenSt) : (s.setDen x).sweeps = s.sweeps := rfl
@[simp] theorem State.setDen_fn (s : State) (x : DenSt) : (s.setDen x).fn = s.fn := rfl
@[simp] theorem State.setDen_meterReset (s : State) (x : DenSt) : (s.setDen x).meterReset = s.meterReset := rfl
@[simp] theorem State.setDen_nextId (s : State) (x : DenSt) : (s.setDen x).nextId = s.nextId := rfl
@[simp] theorem State.setDen_freeTick (s : State) (x : DenSt) : (s.setDen x).freeTick = s.freeTick := rfl
@[simp] theorem State.setDen_pending (s : State) (x : DenSt) : (s.setDen x).pending = s.pending := rfl
@[simp] theorem State.setKp_variant (s : State) (x : KeeperSt) : (s.setKp x).variant = s.variant := rfl
@[simp] theorem State.setKp_time (s : State) (x : KeeperSt) : (s.setKp x).time = s.time := rfl
@[simp] theorem State.setKp_eqx (s : State) (x : KeeperSt) : (s.setKp x).eqx = s.eqx := rfl
@[simp] theorem State.setKp_power (s : State) (x : KeeperSt) : (s.setKp x).power = s.power := rfl
@[simp] theorem State.setKp_rst (s : State) (x : KeeperSt) : (s.setKp x).rst = s.rst := rfl
@[simp] theorem State.setKp_den (s : State) (x : KeeperSt) : (s.setKp x).den = s.den := rfl
@[simp] theorem State.setKp_kp (s : State) (x : KeeperSt) : (s.setKp x).kp = x := rfl
@[simp] theorem State.setKp_alm (s : State) (x : KeeperSt) : (s.setKp x).alm = s.alm := rfl
@[simp] theorem State.setKp_ports (s : State) (x : KeeperSt) : (s.setKp x).ports = s.ports := rfl
@[simp] theorem State.setKp_lanes (s : State) (x : KeeperSt) : (s.setKp x).lanes = s.lanes := rfl
@[simp] theorem State.setKp_xb (s : State) (x : KeeperSt) : (s.setKp x).xb = s.xb := rfl
@[simp] theorem State.setKp_comps (s : State) (x : KeeperSt) : (s.setKp x).comps = s.comps := rfl
@[simp] theorem State.setKp_home (s : State) (x : KeeperSt) : (s.setKp x).home = s.home := rfl
@[simp] theorem State.setKp_mem (s : State) (x : KeeperSt) : (s.setKp x).mem = s.mem := rfl
@[simp] theorem State.setKp_eng (s : State) (x : KeeperSt) : (s.setKp x).eng = s.eng := rfl
@[simp] theorem State.setKp_ch (s : State) (x : KeeperSt) : (s.setKp x).ch = s.ch := rfl
@[simp] theorem State.setKp_health (s : State) (x : KeeperSt) : (s.setKp x).health = s.health := rfl
@[simp] theorem State.setKp_scrub (s : State) (x : KeeperSt) : (s.setKp x).scrub = s.scrub := rfl
@[simp] theorem State.setKp_sweeps (s : State) (x : KeeperSt) : (s.setKp x).sweeps = s.sweeps := rfl
@[simp] theorem State.setKp_fn (s : State) (x : KeeperSt) : (s.setKp x).fn = s.fn := rfl
@[simp] theorem State.setKp_meterReset (s : State) (x : KeeperSt) : (s.setKp x).meterReset = s.meterReset := rfl
@[simp] theorem State.setKp_nextId (s : State) (x : KeeperSt) : (s.setKp x).nextId = s.nextId := rfl
@[simp] theorem State.setKp_freeTick (s : State) (x : KeeperSt) : (s.setKp x).freeTick = s.freeTick := rfl
@[simp] theorem State.setKp_pending (s : State) (x : KeeperSt) : (s.setKp x).pending = s.pending := rfl
@[simp] theorem State.setAlm_variant (s : State) (x : AlmSt) : (s.setAlm x).variant = s.variant := rfl
@[simp] theorem State.setAlm_time (s : State) (x : AlmSt) : (s.setAlm x).time = s.time := rfl
@[simp] theorem State.setAlm_eqx (s : State) (x : AlmSt) : (s.setAlm x).eqx = s.eqx := rfl
@[simp] theorem State.setAlm_power (s : State) (x : AlmSt) : (s.setAlm x).power = s.power := rfl
@[simp] theorem State.setAlm_rst (s : State) (x : AlmSt) : (s.setAlm x).rst = s.rst := rfl
@[simp] theorem State.setAlm_den (s : State) (x : AlmSt) : (s.setAlm x).den = s.den := rfl
@[simp] theorem State.setAlm_kp (s : State) (x : AlmSt) : (s.setAlm x).kp = s.kp := rfl
@[simp] theorem State.setAlm_alm (s : State) (x : AlmSt) : (s.setAlm x).alm = x := rfl
@[simp] theorem State.setAlm_ports (s : State) (x : AlmSt) : (s.setAlm x).ports = s.ports := rfl
@[simp] theorem State.setAlm_lanes (s : State) (x : AlmSt) : (s.setAlm x).lanes = s.lanes := rfl
@[simp] theorem State.setAlm_xb (s : State) (x : AlmSt) : (s.setAlm x).xb = s.xb := rfl
@[simp] theorem State.setAlm_comps (s : State) (x : AlmSt) : (s.setAlm x).comps = s.comps := rfl
@[simp] theorem State.setAlm_home (s : State) (x : AlmSt) : (s.setAlm x).home = s.home := rfl
@[simp] theorem State.setAlm_mem (s : State) (x : AlmSt) : (s.setAlm x).mem = s.mem := rfl
@[simp] theorem State.setAlm_eng (s : State) (x : AlmSt) : (s.setAlm x).eng = s.eng := rfl
@[simp] theorem State.setAlm_ch (s : State) (x : AlmSt) : (s.setAlm x).ch = s.ch := rfl
@[simp] theorem State.setAlm_health (s : State) (x : AlmSt) : (s.setAlm x).health = s.health := rfl
@[simp] theorem State.setAlm_scrub (s : State) (x : AlmSt) : (s.setAlm x).scrub = s.scrub := rfl
@[simp] theorem State.setAlm_sweeps (s : State) (x : AlmSt) : (s.setAlm x).sweeps = s.sweeps := rfl
@[simp] theorem State.setAlm_fn (s : State) (x : AlmSt) : (s.setAlm x).fn = s.fn := rfl
@[simp] theorem State.setAlm_meterReset (s : State) (x : AlmSt) : (s.setAlm x).meterReset = s.meterReset := rfl
@[simp] theorem State.setAlm_nextId (s : State) (x : AlmSt) : (s.setAlm x).nextId = s.nextId := rfl
@[simp] theorem State.setAlm_freeTick (s : State) (x : AlmSt) : (s.setAlm x).freeTick = s.freeTick := rfl
@[simp] theorem State.setAlm_pending (s : State) (x : AlmSt) : (s.setAlm x).pending = s.pending := rfl
@[simp] theorem State.setPorts_variant (s : State) (x : KMap PortSt) : (s.setPorts x).variant = s.variant := rfl
@[simp] theorem State.setPorts_time (s : State) (x : KMap PortSt) : (s.setPorts x).time = s.time := rfl
@[simp] theorem State.setPorts_eqx (s : State) (x : KMap PortSt) : (s.setPorts x).eqx = s.eqx := rfl
@[simp] theorem State.setPorts_power (s : State) (x : KMap PortSt) : (s.setPorts x).power = s.power := rfl
@[simp] theorem State.setPorts_rst (s : State) (x : KMap PortSt) : (s.setPorts x).rst = s.rst := rfl
@[simp] theorem State.setPorts_den (s : State) (x : KMap PortSt) : (s.setPorts x).den = s.den := rfl
@[simp] theorem State.setPorts_kp (s : State) (x : KMap PortSt) : (s.setPorts x).kp = s.kp := rfl
@[simp] theorem State.setPorts_alm (s : State) (x : KMap PortSt) : (s.setPorts x).alm = s.alm := rfl
@[simp] theorem State.setPorts_ports (s : State) (x : KMap PortSt) : (s.setPorts x).ports = x := rfl
@[simp] theorem State.setPorts_lanes (s : State) (x : KMap PortSt) : (s.setPorts x).lanes = s.lanes := rfl
@[simp] theorem State.setPorts_xb (s : State) (x : KMap PortSt) : (s.setPorts x).xb = s.xb := rfl
@[simp] theorem State.setPorts_comps (s : State) (x : KMap PortSt) : (s.setPorts x).comps = s.comps := rfl
@[simp] theorem State.setPorts_home (s : State) (x : KMap PortSt) : (s.setPorts x).home = s.home := rfl
@[simp] theorem State.setPorts_mem (s : State) (x : KMap PortSt) : (s.setPorts x).mem = s.mem := rfl
@[simp] theorem State.setPorts_eng (s : State) (x : KMap PortSt) : (s.setPorts x).eng = s.eng := rfl
@[simp] theorem State.setPorts_ch (s : State) (x : KMap PortSt) : (s.setPorts x).ch = s.ch := rfl
@[simp] theorem State.setPorts_health (s : State) (x : KMap PortSt) : (s.setPorts x).health = s.health := rfl
@[simp] theorem State.setPorts_scrub (s : State) (x : KMap PortSt) : (s.setPorts x).scrub = s.scrub := rfl
@[simp] theorem State.setPorts_sweeps (s : State) (x : KMap PortSt) : (s.setPorts x).sweeps = s.sweeps := rfl
@[simp] theorem State.setPorts_fn (s : State) (x : KMap PortSt) : (s.setPorts x).fn = s.fn := rfl
@[simp] theorem State.setPorts_meterReset (s : State) (x : KMap PortSt) : (s.setPorts x).meterReset = s.meterReset := rfl
@[simp] theorem State.setPorts_nextId (s : State) (x : KMap PortSt) : (s.setPorts x).nextId = s.nextId := rfl
@[simp] theorem State.setPorts_freeTick (s : State) (x : KMap PortSt) : (s.setPorts x).freeTick = s.freeTick := rfl
@[simp] theorem State.setPorts_pending (s : State) (x : KMap PortSt) : (s.setPorts x).pending = s.pending := rfl
@[simp] theorem State.setLanes_variant (s : State) (x : KMap LaneSt) : (s.setLanes x).variant = s.variant := rfl
@[simp] theorem State.setLanes_time (s : State) (x : KMap LaneSt) : (s.setLanes x).time = s.time := rfl
@[simp] theorem State.setLanes_eqx (s : State) (x : KMap LaneSt) : (s.setLanes x).eqx = s.eqx := rfl
@[simp] theorem State.setLanes_power (s : State) (x : KMap LaneSt) : (s.setLanes x).power = s.power := rfl
@[simp] theorem State.setLanes_rst (s : State) (x : KMap LaneSt) : (s.setLanes x).rst = s.rst := rfl
@[simp] theorem State.setLanes_den (s : State) (x : KMap LaneSt) : (s.setLanes x).den = s.den := rfl
@[simp] theorem State.setLanes_kp (s : State) (x : KMap LaneSt) : (s.setLanes x).kp = s.kp := rfl
@[simp] theorem State.setLanes_alm (s : State) (x : KMap LaneSt) : (s.setLanes x).alm = s.alm := rfl
@[simp] theorem State.setLanes_ports (s : State) (x : KMap LaneSt) : (s.setLanes x).ports = s.ports := rfl
@[simp] theorem State.setLanes_lanes (s : State) (x : KMap LaneSt) : (s.setLanes x).lanes = x := rfl
@[simp] theorem State.setLanes_xb (s : State) (x : KMap LaneSt) : (s.setLanes x).xb = s.xb := rfl
@[simp] theorem State.setLanes_comps (s : State) (x : KMap LaneSt) : (s.setLanes x).comps = s.comps := rfl
@[simp] theorem State.setLanes_home (s : State) (x : KMap LaneSt) : (s.setLanes x).home = s.home := rfl
@[simp] theorem State.setLanes_mem (s : State) (x : KMap LaneSt) : (s.setLanes x).mem = s.mem := rfl
@[simp] theorem State.setLanes_eng (s : State) (x : KMap LaneSt) : (s.setLanes x).eng = s.eng := rfl
@[simp] theorem State.setLanes_ch (s : State) (x : KMap LaneSt) : (s.setLanes x).ch = s.ch := rfl
@[simp] theorem State.setLanes_health (s : State) (x : KMap LaneSt) : (s.setLanes x).health = s.health := rfl
@[simp] theorem State.setLanes_scrub (s : State) (x : KMap LaneSt) : (s.setLanes x).scrub = s.scrub := rfl
@[simp] theorem State.setLanes_sweeps (s : State) (x : KMap LaneSt) : (s.setLanes x).sweeps = s.sweeps := rfl
@[simp] theorem State.setLanes_fn (s : State) (x : KMap LaneSt) : (s.setLanes x).fn = s.fn := rfl
@[simp] theorem State.setLanes_meterReset (s : State) (x : KMap LaneSt) : (s.setLanes x).meterReset = s.meterReset := rfl
@[simp] theorem State.setLanes_nextId (s : State) (x : KMap LaneSt) : (s.setLanes x).nextId = s.nextId := rfl
@[simp] theorem State.setLanes_freeTick (s : State) (x : KMap LaneSt) : (s.setLanes x).freeTick = s.freeTick := rfl
@[simp] theorem State.setLanes_pending (s : State) (x : KMap LaneSt) : (s.setLanes x).pending = s.pending := rfl
@[simp] theorem State.setXb_variant (s : State) (x : XbSt) : (s.setXb x).variant = s.variant := rfl
@[simp] theorem State.setXb_time (s : State) (x : XbSt) : (s.setXb x).time = s.time := rfl
@[simp] theorem State.setXb_eqx (s : State) (x : XbSt) : (s.setXb x).eqx = s.eqx := rfl
@[simp] theorem State.setXb_power (s : State) (x : XbSt) : (s.setXb x).power = s.power := rfl
@[simp] theorem State.setXb_rst (s : State) (x : XbSt) : (s.setXb x).rst = s.rst := rfl
@[simp] theorem State.setXb_den (s : State) (x : XbSt) : (s.setXb x).den = s.den := rfl
@[simp] theorem State.setXb_kp (s : State) (x : XbSt) : (s.setXb x).kp = s.kp := rfl
@[simp] theorem State.setXb_alm (s : State) (x : XbSt) : (s.setXb x).alm = s.alm := rfl
@[simp] theorem State.setXb_ports (s : State) (x : XbSt) : (s.setXb x).ports = s.ports := rfl
@[simp] theorem State.setXb_lanes (s : State) (x : XbSt) : (s.setXb x).lanes = s.lanes := rfl
@[simp] theorem State.setXb_xb (s : State) (x : XbSt) : (s.setXb x).xb = x := rfl
@[simp] theorem State.setXb_comps (s : State) (x : XbSt) : (s.setXb x).comps = s.comps := rfl
@[simp] theorem State.setXb_home (s : State) (x : XbSt) : (s.setXb x).home = s.home := rfl
@[simp] theorem State.setXb_mem (s : State) (x : XbSt) : (s.setXb x).mem = s.mem := rfl
@[simp] theorem State.setXb_eng (s : State) (x : XbSt) : (s.setXb x).eng = s.eng := rfl
@[simp] theorem State.setXb_ch (s : State) (x : XbSt) : (s.setXb x).ch = s.ch := rfl
@[simp] theorem State.setXb_health (s : State) (x : XbSt) : (s.setXb x).health = s.health := rfl
@[simp] theorem State.setXb_scrub (s : State) (x : XbSt) : (s.setXb x).scrub = s.scrub := rfl
@[simp] theorem State.setXb_sweeps (s : State) (x : XbSt) : (s.setXb x).sweeps = s.sweeps := rfl
@[simp] theorem State.setXb_fn (s : State) (x : XbSt) : (s.setXb x).fn = s.fn := rfl
@[simp] theorem State.setXb_meterReset (s : State) (x : XbSt) : (s.setXb x).meterReset = s.meterReset := rfl
@[simp] theorem State.setXb_nextId (s : State) (x : XbSt) : (s.setXb x).nextId = s.nextId := rfl
@[simp] theorem State.setXb_freeTick (s : State) (x : XbSt) : (s.setXb x).freeTick = s.freeTick := rfl
@[simp] theorem State.setXb_pending (s : State) (x : XbSt) : (s.setXb x).pending = s.pending := rfl
@[simp] theorem State.setComps_variant (s : State) (x : KMap CompSt) : (s.setComps x).variant = s.variant := rfl
@[simp] theorem State.setComps_time (s : State) (x : KMap CompSt) : (s.setComps x).time = s.time := rfl
@[simp] theorem State.setComps_eqx (s : State) (x : KMap CompSt) : (s.setComps x).eqx = s.eqx := rfl
@[simp] theorem State.setComps_power (s : State) (x : KMap CompSt) : (s.setComps x).power = s.power := rfl
@[simp] theorem State.setComps_rst (s : State) (x : KMap CompSt) : (s.setComps x).rst = s.rst := rfl
@[simp] theorem State.setComps_den (s : State) (x : KMap CompSt) : (s.setComps x).den = s.den := rfl
@[simp] theorem State.setComps_kp (s : State) (x : KMap CompSt) : (s.setComps x).kp = s.kp := rfl
@[simp] theorem State.setComps_alm (s : State) (x : KMap CompSt) : (s.setComps x).alm = s.alm := rfl
@[simp] theorem State.setComps_ports (s : State) (x : KMap CompSt) : (s.setComps x).ports = s.ports := rfl
@[simp] theorem State.setComps_lanes (s : State) (x : KMap CompSt) : (s.setComps x).lanes = s.lanes := rfl
@[simp] theorem State.setComps_xb (s : State) (x : KMap CompSt) : (s.setComps x).xb = s.xb := rfl
@[simp] theorem State.setComps_comps (s : State) (x : KMap CompSt) : (s.setComps x).comps = x := rfl
@[simp] theorem State.setComps_home (s : State) (x : KMap CompSt) : (s.setComps x).home = s.home := rfl
@[simp] theorem State.setComps_mem (s : State) (x : KMap CompSt) : (s.setComps x).mem = s.mem := rfl
@[simp] theorem State.setComps_eng (s : State) (x : KMap CompSt) : (s.setComps x).eng = s.eng := rfl
@[simp] theorem State.setComps_ch (s : State) (x : KMap CompSt) : (s.setComps x).ch = s.ch := rfl
@[simp] theorem State.setComps_health (s : State) (x : KMap CompSt) : (s.setComps x).health = s.health := rfl
@[simp] theorem State.setComps_scrub (s : State) (x : KMap CompSt) : (s.setComps x).scrub = s.scrub := rfl
@[simp] theorem State.setComps_sweeps (s : State) (x : KMap CompSt) : (s.setComps x).sweeps = s.sweeps := rfl
@[simp] theorem State.setComps_fn (s : State) (x : KMap CompSt) : (s.setComps x).fn = s.fn := rfl
@[simp] theorem State.setComps_meterReset (s : State) (x : KMap CompSt) : (s.setComps x).meterReset = s.meterReset := rfl
@[simp] theorem State.setComps_nextId (s : State) (x : KMap CompSt) : (s.setComps x).nextId = s.nextId := rfl
@[simp] theorem State.setComps_freeTick (s : State) (x : KMap CompSt) : (s.setComps x).freeTick = s.freeTick := rfl
@[simp] theorem State.setComps_pending (s : State) (x : KMap CompSt) : (s.setComps x).pending = s.pending := rfl
@[simp] theorem State.setHome_variant (s : State) (x : HomeSt) : (s.setHome x).variant = s.variant := rfl
@[simp] theorem State.setHome_time (s : State) (x : HomeSt) : (s.setHome x).time = s.time := rfl
@[simp] theorem State.setHome_eqx (s : State) (x : HomeSt) : (s.setHome x).eqx = s.eqx := rfl
@[simp] theorem State.setHome_power (s : State) (x : HomeSt) : (s.setHome x).power = s.power := rfl
@[simp] theorem State.setHome_rst (s : State) (x : HomeSt) : (s.setHome x).rst = s.rst := rfl
@[simp] theorem State.setHome_den (s : State) (x : HomeSt) : (s.setHome x).den = s.den := rfl
@[simp] theorem State.setHome_kp (s : State) (x : HomeSt) : (s.setHome x).kp = s.kp := rfl
@[simp] theorem State.setHome_alm (s : State) (x : HomeSt) : (s.setHome x).alm = s.alm := rfl
@[simp] theorem State.setHome_ports (s : State) (x : HomeSt) : (s.setHome x).ports = s.ports := rfl
@[simp] theorem State.setHome_lanes (s : State) (x : HomeSt) : (s.setHome x).lanes = s.lanes := rfl
@[simp] theorem State.setHome_xb (s : State) (x : HomeSt) : (s.setHome x).xb = s.xb := rfl
@[simp] theorem State.setHome_comps (s : State) (x : HomeSt) : (s.setHome x).comps = s.comps := rfl
@[simp] theorem State.setHome_home (s : State) (x : HomeSt) : (s.setHome x).home = x := rfl
@[simp] theorem State.setHome_mem (s : State) (x : HomeSt) : (s.setHome x).mem = s.mem := rfl
@[simp] theorem State.setHome_eng (s : State) (x : HomeSt) : (s.setHome x).eng = s.eng := rfl
@[simp] theorem State.setHome_ch (s : State) (x : HomeSt) : (s.setHome x).ch = s.ch := rfl
@[simp] theorem State.setHome_health (s : State) (x : HomeSt) : (s.setHome x).health = s.health := rfl
@[simp] theorem State.setHome_scrub (s : State) (x : HomeSt) : (s.setHome x).scrub = s.scrub := rfl
@[simp] theorem State.setHome_sweeps (s : State) (x : HomeSt) : (s.setHome x).sweeps = s.sweeps := rfl
@[simp] theorem State.setHome_fn (s : State) (x : HomeSt) : (s.setHome x).fn = s.fn := rfl
@[simp] theorem State.setHome_meterReset (s : State) (x : HomeSt) : (s.setHome x).meterReset = s.meterReset := rfl
@[simp] theorem State.setHome_nextId (s : State) (x : HomeSt) : (s.setHome x).nextId = s.nextId := rfl
@[simp] theorem State.setHome_freeTick (s : State) (x : HomeSt) : (s.setHome x).freeTick = s.freeTick := rfl
@[simp] theorem State.setHome_pending (s : State) (x : HomeSt) : (s.setHome x).pending = s.pending := rfl
@[simp] theorem State.setMem_variant (s : State) (x : List Host.Cell) : (s.setMem x).variant = s.variant := rfl
@[simp] theorem State.setMem_time (s : State) (x : List Host.Cell) : (s.setMem x).time = s.time := rfl
@[simp] theorem State.setMem_eqx (s : State) (x : List Host.Cell) : (s.setMem x).eqx = s.eqx := rfl
@[simp] theorem State.setMem_power (s : State) (x : List Host.Cell) : (s.setMem x).power = s.power := rfl
@[simp] theorem State.setMem_rst (s : State) (x : List Host.Cell) : (s.setMem x).rst = s.rst := rfl
@[simp] theorem State.setMem_den (s : State) (x : List Host.Cell) : (s.setMem x).den = s.den := rfl
@[simp] theorem State.setMem_kp (s : State) (x : List Host.Cell) : (s.setMem x).kp = s.kp := rfl
@[simp] theorem State.setMem_alm (s : State) (x : List Host.Cell) : (s.setMem x).alm = s.alm := rfl
@[simp] theorem State.setMem_ports (s : State) (x : List Host.Cell) : (s.setMem x).ports = s.ports := rfl
@[simp] theorem State.setMem_lanes (s : State) (x : List Host.Cell) : (s.setMem x).lanes = s.lanes := rfl
@[simp] theorem State.setMem_xb (s : State) (x : List Host.Cell) : (s.setMem x).xb = s.xb := rfl
@[simp] theorem State.setMem_comps (s : State) (x : List Host.Cell) : (s.setMem x).comps = s.comps := rfl
@[simp] theorem State.setMem_home (s : State) (x : List Host.Cell) : (s.setMem x).home = s.home := rfl
@[simp] theorem State.setMem_mem (s : State) (x : List Host.Cell) : (s.setMem x).mem = x := rfl
@[simp] theorem State.setMem_eng (s : State) (x : List Host.Cell) : (s.setMem x).eng = s.eng := rfl
@[simp] theorem State.setMem_ch (s : State) (x : List Host.Cell) : (s.setMem x).ch = s.ch := rfl
@[simp] theorem State.setMem_health (s : State) (x : List Host.Cell) : (s.setMem x).health = s.health := rfl
@[simp] theorem State.setMem_scrub (s : State) (x : List Host.Cell) : (s.setMem x).scrub = s.scrub := rfl
@[simp] theorem State.setMem_sweeps (s : State) (x : List Host.Cell) : (s.setMem x).sweeps = s.sweeps := rfl
@[simp] theorem State.setMem_fn (s : State) (x : List Host.Cell) : (s.setMem x).fn = s.fn := rfl
@[simp] theorem State.setMem_meterReset (s : State) (x : List Host.Cell) : (s.setMem x).meterReset = s.meterReset := rfl
@[simp] theorem State.setMem_nextId (s : State) (x : List Host.Cell) : (s.setMem x).nextId = s.nextId := rfl
@[simp] theorem State.setMem_freeTick (s : State) (x : List Host.Cell) : (s.setMem x).freeTick = s.freeTick := rfl
@[simp] theorem State.setMem_pending (s : State) (x : List Host.Cell) : (s.setMem x).pending = s.pending := rfl
@[simp] theorem State.setEng_variant (s : State) (x : EngSt) : (s.setEng x).variant = s.variant := rfl
@[simp] theorem State.setEng_time (s : State) (x : EngSt) : (s.setEng x).time = s.time := rfl
@[simp] theorem State.setEng_eqx (s : State) (x : EngSt) : (s.setEng x).eqx = s.eqx := rfl
@[simp] theorem State.setEng_power (s : State) (x : EngSt) : (s.setEng x).power = s.power := rfl
@[simp] theorem State.setEng_rst (s : State) (x : EngSt) : (s.setEng x).rst = s.rst := rfl
@[simp] theorem State.setEng_den (s : State) (x : EngSt) : (s.setEng x).den = s.den := rfl
@[simp] theorem State.setEng_kp (s : State) (x : EngSt) : (s.setEng x).kp = s.kp := rfl
@[simp] theorem State.setEng_alm (s : State) (x : EngSt) : (s.setEng x).alm = s.alm := rfl
@[simp] theorem State.setEng_ports (s : State) (x : EngSt) : (s.setEng x).ports = s.ports := rfl
@[simp] theorem State.setEng_lanes (s : State) (x : EngSt) : (s.setEng x).lanes = s.lanes := rfl
@[simp] theorem State.setEng_xb (s : State) (x : EngSt) : (s.setEng x).xb = s.xb := rfl
@[simp] theorem State.setEng_comps (s : State) (x : EngSt) : (s.setEng x).comps = s.comps := rfl
@[simp] theorem State.setEng_home (s : State) (x : EngSt) : (s.setEng x).home = s.home := rfl
@[simp] theorem State.setEng_mem (s : State) (x : EngSt) : (s.setEng x).mem = s.mem := rfl
@[simp] theorem State.setEng_eng (s : State) (x : EngSt) : (s.setEng x).eng = x := rfl
@[simp] theorem State.setEng_ch (s : State) (x : EngSt) : (s.setEng x).ch = s.ch := rfl
@[simp] theorem State.setEng_health (s : State) (x : EngSt) : (s.setEng x).health = s.health := rfl
@[simp] theorem State.setEng_scrub (s : State) (x : EngSt) : (s.setEng x).scrub = s.scrub := rfl
@[simp] theorem State.setEng_sweeps (s : State) (x : EngSt) : (s.setEng x).sweeps = s.sweeps := rfl
@[simp] theorem State.setEng_fn (s : State) (x : EngSt) : (s.setEng x).fn = s.fn := rfl
@[simp] theorem State.setEng_meterReset (s : State) (x : EngSt) : (s.setEng x).meterReset = s.meterReset := rfl
@[simp] theorem State.setEng_nextId (s : State) (x : EngSt) : (s.setEng x).nextId = s.nextId := rfl
@[simp] theorem State.setEng_freeTick (s : State) (x : EngSt) : (s.setEng x).freeTick = s.freeTick := rfl
@[simp] theorem State.setEng_pending (s : State) (x : EngSt) : (s.setEng x).pending = s.pending := rfl
@[simp] theorem State.setCh_variant (s : State) (x : ChSt) : (s.setCh x).variant = s.variant := rfl
@[simp] theorem State.setCh_time (s : State) (x : ChSt) : (s.setCh x).time = s.time := rfl
@[simp] theorem State.setCh_eqx (s : State) (x : ChSt) : (s.setCh x).eqx = s.eqx := rfl
@[simp] theorem State.setCh_power (s : State) (x : ChSt) : (s.setCh x).power = s.power := rfl
@[simp] theorem State.setCh_rst (s : State) (x : ChSt) : (s.setCh x).rst = s.rst := rfl
@[simp] theorem State.setCh_den (s : State) (x : ChSt) : (s.setCh x).den = s.den := rfl
@[simp] theorem State.setCh_kp (s : State) (x : ChSt) : (s.setCh x).kp = s.kp := rfl
@[simp] theorem State.setCh_alm (s : State) (x : ChSt) : (s.setCh x).alm = s.alm := rfl
@[simp] theorem State.setCh_ports (s : State) (x : ChSt) : (s.setCh x).ports = s.ports := rfl
@[simp] theorem State.setCh_lanes (s : State) (x : ChSt) : (s.setCh x).lanes = s.lanes := rfl
@[simp] theorem State.setCh_xb (s : State) (x : ChSt) : (s.setCh x).xb = s.xb := rfl
@[simp] theorem State.setCh_comps (s : State) (x : ChSt) : (s.setCh x).comps = s.comps := rfl
@[simp] theorem State.setCh_home (s : State) (x : ChSt) : (s.setCh x).home = s.home := rfl
@[simp] theorem State.setCh_mem (s : State) (x : ChSt) : (s.setCh x).mem = s.mem := rfl
@[simp] theorem State.setCh_eng (s : State) (x : ChSt) : (s.setCh x).eng = s.eng := rfl
@[simp] theorem State.setCh_ch (s : State) (x : ChSt) : (s.setCh x).ch = x := rfl
@[simp] theorem State.setCh_health (s : State) (x : ChSt) : (s.setCh x).health = s.health := rfl
@[simp] theorem State.setCh_scrub (s : State) (x : ChSt) : (s.setCh x).scrub = s.scrub := rfl
@[simp] theorem State.setCh_sweeps (s : State) (x : ChSt) : (s.setCh x).sweeps = s.sweeps := rfl
@[simp] theorem State.setCh_fn (s : State) (x : ChSt) : (s.setCh x).fn = s.fn := rfl
@[simp] theorem State.setCh_meterReset (s : State) (x : ChSt) : (s.setCh x).meterReset = s.meterReset := rfl
@[simp] theorem State.setCh_nextId (s : State) (x : ChSt) : (s.setCh x).nextId = s.nextId := rfl
@[simp] theorem State.setCh_freeTick (s : State) (x : ChSt) : (s.setCh x).freeTick = s.freeTick := rfl
@[simp] theorem State.setCh_pending (s : State) (x : ChSt) : (s.setCh x).pending = s.pending := rfl
@[simp] theorem State.setHealth_variant (s : State) (x : HealthSt) : (s.setHealth x).variant = s.variant := rfl
@[simp] theorem State.setHealth_time (s : State) (x : HealthSt) : (s.setHealth x).time = s.time := rfl
@[simp] theorem State.setHealth_eqx (s : State) (x : HealthSt) : (s.setHealth x).eqx = s.eqx := rfl
@[simp] theorem State.setHealth_power (s : State) (x : HealthSt) : (s.setHealth x).power = s.power := rfl
@[simp] theorem State.setHealth_rst (s : State) (x : HealthSt) : (s.setHealth x).rst = s.rst := rfl
@[simp] theorem State.setHealth_den (s : State) (x : HealthSt) : (s.setHealth x).den = s.den := rfl
@[simp] theorem State.setHealth_kp (s : State) (x : HealthSt) : (s.setHealth x).kp = s.kp := rfl
@[simp] theorem State.setHealth_alm (s : State) (x : HealthSt) : (s.setHealth x).alm = s.alm := rfl
@[simp] theorem State.setHealth_ports (s : State) (x : HealthSt) : (s.setHealth x).ports = s.ports := rfl
@[simp] theorem State.setHealth_lanes (s : State) (x : HealthSt) : (s.setHealth x).lanes = s.lanes := rfl
@[simp] theorem State.setHealth_xb (s : State) (x : HealthSt) : (s.setHealth x).xb = s.xb := rfl
@[simp] theorem State.setHealth_comps (s : State) (x : HealthSt) : (s.setHealth x).comps = s.comps := rfl
@[simp] theorem State.setHealth_home (s : State) (x : HealthSt) : (s.setHealth x).home = s.home := rfl
@[simp] theorem State.setHealth_mem (s : State) (x : HealthSt) : (s.setHealth x).mem = s.mem := rfl
@[simp] theorem State.setHealth_eng (s : State) (x : HealthSt) : (s.setHealth x).eng = s.eng := rfl
@[simp] theorem State.setHealth_ch (s : State) (x : HealthSt) : (s.setHealth x).ch = s.ch := rfl
@[simp] theorem State.setHealth_health (s : State) (x : HealthSt) : (s.setHealth x).health = x := rfl
@[simp] theorem State.setHealth_scrub (s : State) (x : HealthSt) : (s.setHealth x).scrub = s.scrub := rfl
@[simp] theorem State.setHealth_sweeps (s : State) (x : HealthSt) : (s.setHealth x).sweeps = s.sweeps := rfl
@[simp] theorem State.setHealth_fn (s : State) (x : HealthSt) : (s.setHealth x).fn = s.fn := rfl
@[simp] theorem State.setHealth_meterReset (s : State) (x : HealthSt) : (s.setHealth x).meterReset = s.meterReset := rfl
@[simp] theorem State.setHealth_nextId (s : State) (x : HealthSt) : (s.setHealth x).nextId = s.nextId := rfl
@[simp] theorem State.setHealth_freeTick (s : State) (x : HealthSt) : (s.setHealth x).freeTick = s.freeTick := rfl
@[simp] theorem State.setHealth_pending (s : State) (x : HealthSt) : (s.setHealth x).pending = s.pending := rfl
@[simp] theorem State.setScrub_variant (s : State) (x : KMap ScrubItem) : (s.setScrub x).variant = s.variant := rfl
@[simp] theorem State.setScrub_time (s : State) (x : KMap ScrubItem) : (s.setScrub x).time = s.time := rfl
@[simp] theorem State.setScrub_eqx (s : State) (x : KMap ScrubItem) : (s.setScrub x).eqx = s.eqx := rfl
@[simp] theorem State.setScrub_power (s : State) (x : KMap ScrubItem) : (s.setScrub x).power = s.power := rfl
@[simp] theorem State.setScrub_rst (s : State) (x : KMap ScrubItem) : (s.setScrub x).rst = s.rst := rfl
@[simp] theorem State.setScrub_den (s : State) (x : KMap ScrubItem) : (s.setScrub x).den = s.den := rfl
@[simp] theorem State.setScrub_kp (s : State) (x : KMap ScrubItem) : (s.setScrub x).kp = s.kp := rfl
@[simp] theorem State.setScrub_alm (s : State) (x : KMap ScrubItem) : (s.setScrub x).alm = s.alm := rfl
@[simp] theorem State.setScrub_ports (s : State) (x : KMap ScrubItem) : (s.setScrub x).ports = s.ports := rfl
@[simp] theorem State.setScrub_lanes (s : State) (x : KMap ScrubItem) : (s.setScrub x).lanes = s.lanes := rfl
@[simp] theorem State.setScrub_xb (s : State) (x : KMap ScrubItem) : (s.setScrub x).xb = s.xb := rfl
@[simp] theorem State.setScrub_comps (s : State) (x : KMap ScrubItem) : (s.setScrub x).comps = s.comps := rfl
@[simp] theorem State.setScrub_home (s : State) (x : KMap ScrubItem) : (s.setScrub x).home = s.home := rfl
@[simp] theorem State.setScrub_mem (s : State) (x : KMap ScrubItem) : (s.setScrub x).mem = s.mem := rfl
@[simp] theorem State.setScrub_eng (s : State) (x : KMap ScrubItem) : (s.setScrub x).eng = s.eng := rfl
@[simp] theorem State.setScrub_ch (s : State) (x : KMap ScrubItem) : (s.setScrub x).ch = s.ch := rfl
@[simp] theorem State.setScrub_health (s : State) (x : KMap ScrubItem) : (s.setScrub x).health = s.health := rfl
@[simp] theorem State.setScrub_scrub (s : State) (x : KMap ScrubItem) : (s.setScrub x).scrub = x := rfl
@[simp] theorem State.setScrub_sweeps (s : State) (x : KMap ScrubItem) : (s.setScrub x).sweeps = s.sweeps := rfl
@[simp] theorem State.setScrub_fn (s : State) (x : KMap ScrubItem) : (s.setScrub x).fn = s.fn := rfl
@[simp] theorem State.setScrub_meterReset (s : State) (x : KMap ScrubItem) : (s.setScrub x).meterReset = s.meterReset := rfl
@[simp] theorem State.setScrub_nextId (s : State) (x : KMap ScrubItem) : (s.setScrub x).nextId = s.nextId := rfl
@[simp] theorem State.setScrub_freeTick (s : State) (x : KMap ScrubItem) : (s.setScrub x).freeTick = s.freeTick := rfl
@[simp] theorem State.setScrub_pending (s : State) (x : KMap ScrubItem) : (s.setScrub x).pending = s.pending := rfl
@[simp] theorem State.setSweeps_variant (s : State) (x : KMap Sweep) : (s.setSweeps x).variant = s.variant := rfl
@[simp] theorem State.setSweeps_time (s : State) (x : KMap Sweep) : (s.setSweeps x).time = s.time := rfl
@[simp] theorem State.setSweeps_eqx (s : State) (x : KMap Sweep) : (s.setSweeps x).eqx = s.eqx := rfl
@[simp] theorem State.setSweeps_power (s : State) (x : KMap Sweep) : (s.setSweeps x).power = s.power := rfl
@[simp] theorem State.setSweeps_rst (s : State) (x : KMap Sweep) : (s.setSweeps x).rst = s.rst := rfl
@[simp] theorem State.setSweeps_den (s : State) (x : KMap Sweep) : (s.setSweeps x).den = s.den := rfl
@[simp] theorem State.setSweeps_kp (s : State) (x : KMap Sweep) : (s.setSweeps x).kp = s.kp := rfl
@[simp] theorem State.setSweeps_alm (s : State) (x : KMap Sweep) : (s.setSweeps x).alm = s.alm := rfl
@[simp] theorem State.setSweeps_ports (s : State) (x : KMap Sweep) : (s.setSweeps x).ports = s.ports := rfl
@[simp] theorem State.setSweeps_lanes (s : State) (x : KMap Sweep) : (s.setSweeps x).lanes = s.lanes := rfl
@[simp] theorem State.setSweeps_xb (s : State) (x : KMap Sweep) : (s.setSweeps x).xb = s.xb := rfl
@[simp] theorem State.setSweeps_comps (s : State) (x : KMap Sweep) : (s.setSweeps x).comps = s.comps := rfl
@[simp] theorem State.setSweeps_home (s : State) (x : KMap Sweep) : (s.setSweeps x).home = s.home := rfl
@[simp] theorem State.setSweeps_mem (s : State) (x : KMap Sweep) : (s.setSweeps x).mem = s.mem := rfl
@[simp] theorem State.setSweeps_eng (s : State) (x : KMap Sweep) : (s.setSweeps x).eng = s.eng := rfl
@[simp] theorem State.setSweeps_ch (s : State) (x : KMap Sweep) : (s.setSweeps x).ch = s.ch := rfl
@[simp] theorem State.setSweeps_health (s : State) (x : KMap Sweep) : (s.setSweeps x).health = s.health := rfl
@[simp] theorem State.setSweeps_scrub (s : State) (x : KMap Sweep) : (s.setSweeps x).scrub = s.scrub := rfl
@[simp] theorem State.setSweeps_sweeps (s : State) (x : KMap Sweep) : (s.setSweeps x).sweeps = x := rfl
@[simp] theorem State.setSweeps_fn (s : State) (x : KMap Sweep) : (s.setSweeps x).fn = s.fn := rfl
@[simp] theorem State.setSweeps_meterReset (s : State) (x : KMap Sweep) : (s.setSweeps x).meterReset = s.meterReset := rfl
@[simp] theorem State.setSweeps_nextId (s : State) (x : KMap Sweep) : (s.setSweeps x).nextId = s.nextId := rfl
@[simp] theorem State.setSweeps_freeTick (s : State) (x : KMap Sweep) : (s.setSweeps x).freeTick = s.freeTick := rfl
@[simp] theorem State.setSweeps_pending (s : State) (x : KMap Sweep) : (s.setSweeps x).pending = s.pending := rfl
@[simp] theorem State.setFn_variant (s : State) (x : FinugSt) : (s.setFn x).variant = s.variant := rfl
@[simp] theorem State.setFn_time (s : State) (x : FinugSt) : (s.setFn x).time = s.time := rfl
@[simp] theorem State.setFn_eqx (s : State) (x : FinugSt) : (s.setFn x).eqx = s.eqx := rfl
@[simp] theorem State.setFn_power (s : State) (x : FinugSt) : (s.setFn x).power = s.power := rfl
@[simp] theorem State.setFn_rst (s : State) (x : FinugSt) : (s.setFn x).rst = s.rst := rfl
@[simp] theorem State.setFn_den (s : State) (x : FinugSt) : (s.setFn x).den = s.den := rfl
@[simp] theorem State.setFn_kp (s : State) (x : FinugSt) : (s.setFn x).kp = s.kp := rfl
@[simp] theorem State.setFn_alm (s : State) (x : FinugSt) : (s.setFn x).alm = s.alm := rfl
@[simp] theorem State.setFn_ports (s : State) (x : FinugSt) : (s.setFn x).ports = s.ports := rfl
@[simp] theorem State.setFn_lanes (s : State) (x : FinugSt) : (s.setFn x).lanes = s.lanes := rfl
@[simp] theorem State.setFn_xb (s : State) (x : FinugSt) : (s.setFn x).xb = s.xb := rfl
@[simp] theorem State.setFn_comps (s : State) (x : FinugSt) : (s.setFn x).comps = s.comps := rfl
@[simp] theorem State.setFn_home (s : State) (x : FinugSt) : (s.setFn x).home = s.home := rfl
@[simp] theorem State.setFn_mem (s : State) (x : FinugSt) : (s.setFn x).mem = s.mem := rfl
@[simp] theorem State.setFn_eng (s : State) (x : FinugSt) : (s.setFn x).eng = s.eng := rfl
@[simp] theorem State.setFn_ch (s : State) (x : FinugSt) : (s.setFn x).ch = s.ch := rfl
@[simp] theorem State.setFn_health (s : State) (x : FinugSt) : (s.setFn x).health = s.health := rfl
@[simp] theorem State.setFn_scrub (s : State) (x : FinugSt) : (s.setFn x).scrub = s.scrub := rfl
@[simp] theorem State.setFn_sweeps (s : State) (x : FinugSt) : (s.setFn x).sweeps = s.sweeps := rfl
@[simp] theorem State.setFn_fn (s : State) (x : FinugSt) : (s.setFn x).fn = x := rfl
@[simp] theorem State.setFn_meterReset (s : State) (x : FinugSt) : (s.setFn x).meterReset = s.meterReset := rfl
@[simp] theorem State.setFn_nextId (s : State) (x : FinugSt) : (s.setFn x).nextId = s.nextId := rfl
@[simp] theorem State.setFn_freeTick (s : State) (x : FinugSt) : (s.setFn x).freeTick = s.freeTick := rfl
@[simp] theorem State.setFn_pending (s : State) (x : FinugSt) : (s.setFn x).pending = s.pending := rfl
@[simp] theorem State.setMeterReset_variant (s : State) (x : BitVec 2 × Option Nat) : (s.setMeterReset x).variant = s.variant := rfl
@[simp] theorem State.setMeterReset_time (s : State) (x : BitVec 2 × Option Nat) : (s.setMeterReset x).time = s.time := rfl
@[simp] theorem State.setMeterReset_eqx (s : State) (x : BitVec 2 × Option Nat) : (s.setMeterReset x).eqx = s.eqx := rfl
@[simp] theorem State.setMeterReset_power (s : State) (x : BitVec 2 × Option Nat) : (s.setMeterReset x).power = s.power := rfl
@[simp] theorem State.setMeterReset_rst (s : State) (x : BitVec 2 × Option Nat) : (s.setMeterReset x).rst = s.rst := rfl
@[simp] theorem State.setMeterReset_den (s : State) (x : BitVec 2 × Option Nat) : (s.setMeterReset x).den = s.den := rfl
@[simp] theorem State.setMeterReset_kp (s : State) (x : BitVec 2 × Option Nat) : (s.setMeterReset x).kp = s.kp := rfl
@[simp] theorem State.setMeterReset_alm (s : State) (x : BitVec 2 × Option Nat) : (s.setMeterReset x).alm = s.alm := rfl
@[simp] theorem State.setMeterReset_ports (s : State) (x : BitVec 2 × Option Nat) : (s.setMeterReset x).ports = s.ports := rfl
@[simp] theorem State.setMeterReset_lanes (s : State) (x : BitVec 2 × Option Nat) : (s.setMeterReset x).lanes = s.lanes := rfl
@[simp] theorem State.setMeterReset_xb (s : State) (x : BitVec 2 × Option Nat) : (s.setMeterReset x).xb = s.xb := rfl
@[simp] theorem State.setMeterReset_comps (s : State) (x : BitVec 2 × Option Nat) : (s.setMeterReset x).comps = s.comps := rfl
@[simp] theorem State.setMeterReset_home (s : State) (x : BitVec 2 × Option Nat) : (s.setMeterReset x).home = s.home := rfl
@[simp] theorem State.setMeterReset_mem (s : State) (x : BitVec 2 × Option Nat) : (s.setMeterReset x).mem = s.mem := rfl
@[simp] theorem State.setMeterReset_eng (s : State) (x : BitVec 2 × Option Nat) : (s.setMeterReset x).eng = s.eng := rfl
@[simp] theorem State.setMeterReset_ch (s : State) (x : BitVec 2 × Option Nat) : (s.setMeterReset x).ch = s.ch := rfl
@[simp] theorem State.setMeterReset_health (s : State) (x : BitVec 2 × Option Nat) : (s.setMeterReset x).health = s.health := rfl
@[simp] theorem State.setMeterReset_scrub (s : State) (x : BitVec 2 × Option Nat) : (s.setMeterReset x).scrub = s.scrub := rfl
@[simp] theorem State.setMeterReset_sweeps (s : State) (x : BitVec 2 × Option Nat) : (s.setMeterReset x).sweeps = s.sweeps := rfl
@[simp] theorem State.setMeterReset_fn (s : State) (x : BitVec 2 × Option Nat) : (s.setMeterReset x).fn = s.fn := rfl
@[simp] theorem State.setMeterReset_meterReset (s : State) (x : BitVec 2 × Option Nat) : (s.setMeterReset x).meterReset = x := rfl
@[simp] theorem State.setMeterReset_nextId (s : State) (x : BitVec 2 × Option Nat) : (s.setMeterReset x).nextId = s.nextId := rfl
@[simp] theorem State.setMeterReset_freeTick (s : State) (x : BitVec 2 × Option Nat) : (s.setMeterReset x).freeTick = s.freeTick := rfl
@[simp] theorem State.setMeterReset_pending (s : State) (x : BitVec 2 × Option Nat) : (s.setMeterReset x).pending = s.pending := rfl
@[simp] theorem State.setNextId_variant (s : State) (x : Nat) : (s.setNextId x).variant = s.variant := rfl
@[simp] theorem State.setNextId_time (s : State) (x : Nat) : (s.setNextId x).time = s.time := rfl
@[simp] theorem State.setNextId_eqx (s : State) (x : Nat) : (s.setNextId x).eqx = s.eqx := rfl
@[simp] theorem State.setNextId_power (s : State) (x : Nat) : (s.setNextId x).power = s.power := rfl
@[simp] theorem State.setNextId_rst (s : State) (x : Nat) : (s.setNextId x).rst = s.rst := rfl
@[simp] theorem State.setNextId_den (s : State) (x : Nat) : (s.setNextId x).den = s.den := rfl
@[simp] theorem State.setNextId_kp (s : State) (x : Nat) : (s.setNextId x).kp = s.kp := rfl
@[simp] theorem State.setNextId_alm (s : State) (x : Nat) : (s.setNextId x).alm = s.alm := rfl
@[simp] theorem State.setNextId_ports (s : State) (x : Nat) : (s.setNextId x).ports = s.ports := rfl
@[simp] theorem State.setNextId_lanes (s : State) (x : Nat) : (s.setNextId x).lanes = s.lanes := rfl
@[simp] theorem State.setNextId_xb (s : State) (x : Nat) : (s.setNextId x).xb = s.xb := rfl
@[simp] theorem State.setNextId_comps (s : State) (x : Nat) : (s.setNextId x).comps = s.comps := rfl
@[simp] theorem State.setNextId_home (s : State) (x : Nat) : (s.setNextId x).home = s.home := rfl
@[simp] theorem State.setNextId_mem (s : State) (x : Nat) : (s.setNextId x).mem = s.mem := rfl
@[simp] theorem State.setNextId_eng (s : State) (x : Nat) : (s.setNextId x).eng = s.eng := rfl
@[simp] theorem State.setNextId_ch (s : State) (x : Nat) : (s.setNextId x).ch = s.ch := rfl
@[simp] theorem State.setNextId_health (s : State) (x : Nat) : (s.setNextId x).health = s.health := rfl
@[simp] theorem State.setNextId_scrub (s : State) (x : Nat) : (s.setNextId x).scrub = s.scrub := rfl
@[simp] theorem State.setNextId_sweeps (s : State) (x : Nat) : (s.setNextId x).sweeps = s.sweeps := rfl
@[simp] theorem State.setNextId_fn (s : State) (x : Nat) : (s.setNextId x).fn = s.fn := rfl
@[simp] theorem State.setNextId_meterReset (s : State) (x : Nat) : (s.setNextId x).meterReset = s.meterReset := rfl
@[simp] theorem State.setNextId_nextId (s : State) (x : Nat) : (s.setNextId x).nextId = x := rfl
@[simp] theorem State.setNextId_freeTick (s : State) (x : Nat) : (s.setNextId x).freeTick = s.freeTick := rfl
@[simp] theorem State.setNextId_pending (s : State) (x : Nat) : (s.setNextId x).pending = s.pending := rfl
@[simp] theorem State.setFreeTick_variant (s : State) (x : Nat) : (s.setFreeTick x).variant = s.variant := rfl
@[simp] theorem State.setFreeTick_time (s : State) (x : Nat) : (s.setFreeTick x).time = s.time := rfl
@[simp] theorem State.setFreeTick_eqx (s : State) (x : Nat) : (s.setFreeTick x).eqx = s.eqx := rfl
@[simp] theorem State.setFreeTick_power (s : State) (x : Nat) : (s.setFreeTick x).power = s.power := rfl
@[simp] theorem State.setFreeTick_rst (s : State) (x : Nat) : (s.setFreeTick x).rst = s.rst := rfl
@[simp] theorem State.setFreeTick_den (s : State) (x : Nat) : (s.setFreeTick x).den = s.den := rfl
@[simp] theorem State.setFreeTick_kp (s : State) (x : Nat) : (s.setFreeTick x).kp = s.kp := rfl
@[simp] theorem State.setFreeTick_alm (s : State) (x : Nat) : (s.setFreeTick x).alm = s.alm := rfl
@[simp] theorem State.setFreeTick_ports (s : State) (x : Nat) : (s.setFreeTick x).ports = s.ports := rfl
@[simp] theorem State.setFreeTick_lanes (s : State) (x : Nat) : (s.setFreeTick x).lanes = s.lanes := rfl
@[simp] theorem State.setFreeTick_xb (s : State) (x : Nat) : (s.setFreeTick x).xb = s.xb := rfl
@[simp] theorem State.setFreeTick_comps (s : State) (x : Nat) : (s.setFreeTick x).comps = s.comps := rfl
@[simp] theorem State.setFreeTick_home (s : State) (x : Nat) : (s.setFreeTick x).home = s.home := rfl
@[simp] theorem State.setFreeTick_mem (s : State) (x : Nat) : (s.setFreeTick x).mem = s.mem := rfl
@[simp] theorem State.setFreeTick_eng (s : State) (x : Nat) : (s.setFreeTick x).eng = s.eng := rfl
@[simp] theorem State.setFreeTick_ch (s : State) (x : Nat) : (s.setFreeTick x).ch = s.ch := rfl
@[simp] theorem State.setFreeTick_health (s : State) (x : Nat) : (s.setFreeTick x).health = s.health := rfl
@[simp] theorem State.setFreeTick_scrub (s : State) (x : Nat) : (s.setFreeTick x).scrub = s.scrub := rfl
@[simp] theorem State.setFreeTick_sweeps (s : State) (x : Nat) : (s.setFreeTick x).sweeps = s.sweeps := rfl
@[simp] theorem State.setFreeTick_fn (s : State) (x : Nat) : (s.setFreeTick x).fn = s.fn := rfl
@[simp] theorem State.setFreeTick_meterReset (s : State) (x : Nat) : (s.setFreeTick x).meterReset = s.meterReset := rfl
@[simp] theorem State.setFreeTick_nextId (s : State) (x : Nat) : (s.setFreeTick x).nextId = s.nextId := rfl
@[simp] theorem State.setFreeTick_freeTick (s : State) (x : Nat) : (s.setFreeTick x).freeTick = x := rfl
@[simp] theorem State.setFreeTick_pending (s : State) (x : Nat) : (s.setFreeTick x).pending = s.pending := rfl
@[simp] theorem State.setPending_variant (s : State) (x : List Instr) : (s.setPending x).variant = s.variant := rfl
@[simp] theorem State.setPending_time (s : State) (x : List Instr) : (s.setPending x).time = s.time := rfl
@[simp] theorem State.setPending_eqx (s : State) (x : List Instr) : (s.setPending x).eqx = s.eqx := rfl
@[simp] theorem State.setPending_power (s : State) (x : List Instr) : (s.setPending x).power = s.power := rfl
@[simp] theorem State.setPending_rst (s : State) (x : List Instr) : (s.setPending x).rst = s.rst := rfl
@[simp] theorem State.setPending_den (s : State) (x : List Instr) : (s.setPending x).den = s.den := rfl
@[simp] theorem State.setPending_kp (s : State) (x : List Instr) : (s.setPending x).kp = s.kp := rfl
@[simp] theorem State.setPending_alm (s : State) (x : List Instr) : (s.setPending x).alm = s.alm := rfl
@[simp] theorem State.setPending_ports (s : State) (x : List Instr) : (s.setPending x).ports = s.ports := rfl
@[simp] theorem State.setPending_lanes (s : State) (x : List Instr) : (s.setPending x).lanes = s.lanes := rfl
@[simp] theorem State.setPending_xb (s : State) (x : List Instr) : (s.setPending x).xb = s.xb := rfl
@[simp] theorem State.setPending_comps (s : State) (x : List Instr) : (s.setPending x).comps = s.comps := rfl
@[simp] theorem State.setPending_home (s : State) (x : List Instr) : (s.setPending x).home = s.home := rfl
@[simp] theorem State.setPending_mem (s : State) (x : List Instr) : (s.setPending x).mem = s.mem := rfl
@[simp] theorem State.setPending_eng (s : State) (x : List Instr) : (s.setPending x).eng = s.eng := rfl
@[simp] theorem State.setPending_ch (s : State) (x : List Instr) : (s.setPending x).ch = s.ch := rfl
@[simp] theorem State.setPending_health (s : State) (x : List Instr) : (s.setPending x).health = s.health := rfl
@[simp] theorem State.setPending_scrub (s : State) (x : List Instr) : (s.setPending x).scrub = s.scrub := rfl
@[simp] theorem State.setPending_sweeps (s : State) (x : List Instr) : (s.setPending x).sweeps = s.sweeps := rfl
@[simp] theorem State.setPending_fn (s : State) (x : List Instr) : (s.setPending x).fn = s.fn := rfl
@[simp] theorem State.setPending_meterReset (s : State) (x : List Instr) : (s.setPending x).meterReset = s.meterReset := rfl
@[simp] theorem State.setPending_nextId (s : State) (x : List Instr) : (s.setPending x).nextId = s.nextId := rfl
@[simp] theorem State.setPending_freeTick (s : State) (x : List Instr) : (s.setPending x).freeTick = s.freeTick := rfl
@[simp] theorem State.setPending_pending (s : State) (x : List Instr) : (s.setPending x).pending = x := rfl

end Sys2Proof.Machine
end

