-- ==== Sys2Proof/Laws/Arrive.lean ====
section
/-! SUPPORT. What an arriving request and an accepted command come to. -/

namespace Sys2Proof.Machine

theorem stampEdge_updPort (s : State) (p : Nat) (f : PortSt → PortSt) (b : PortBind) (h : Header) :
    stampEdge (s.updPort p f) b h = stampEdge s b h := rfl

theorem stampEdge_opcode (s : State) (b : PortBind) (h : Header) : (stampEdge s b h).opcode = h.opcode := by
  unfold stampEdge; cases b.comp <;> rfl

theorem stampEdge_isResp (s : State) (b : PortBind) (h : Header) (hr : h.isResp = false) : (stampEdge s b h).isResp = false := by
  unfold stampEdge
  cases b.comp with
  | none => exact hr
  | some c =>
    simp [Header.isResp] at hr ⊢
    split <;> simp_all [flagMayVary]

theorem asRequest_isResp (op : Nat) (f : Frame) : (asRequest op f).hdr.isResp = false := by
  simp [asRequest, Header.isResp, flagResp]

theorem asRequest_opcode (op : Nat) (f : Frame) (hop : op < 256) : (asRequest op f).hdr.opcode.toNat = op := by
  simp [asRequest, Nat.mod_eq_of_lt hop]

theorem portReq_isResp (s : State) (b : PortBind) (p : Nat) (l : Option (BitVec 16)) (op : Nat) (f : Frame) :
    (portReq s b p l (asRequest op f)).hdr.isResp = false := by
  unfold portReq
  dsimp only
  split
  · exact asRequest_isResp op f
  · exact stampEdge_isResp s b _ (asRequest_isResp op f)

theorem portReq_opcode (s : State) (b : PortBind) (p : Nat) (l : Option (BitVec 16)) (op : Nat) (f : Frame) (hop : op < 256) :
    (portReq s b p l (asRequest op f)).hdr.opcode.toNat = op := by
  unfold portReq
  dsimp only
  split
  · exact asRequest_opcode op f hop
  · show (stampEdge s b _).opcode.toNat = op
    rw [stampEdge_opcode]; exact asRequest_opcode op f hop

/-- A frame of a request row on a live port, scheduled ones apart: a malformed one is answered, another judged. -/
theorem arrive_request {s : State} {p : Nat} {l : Option (BitVec 16)} {f : Frame} {op : Nat} {b : PortBind} (hl : portLive s p = true)
    (hb : s.bind p = some b) (hop : op < 256) (hn : noCompletionOps.contains op = false)
    (hc : (portReq s b p l (asRequest op f)).hdr.cls ≠ 0) (here : State → Req → State) :
    arrive s p l (asRequest op f) here =
      (let q := portReq s b p l (asRequest op f)
       let t := frameHeard s p q.hdr
       if !b.fabric && !formatOk t b q.hdr (reqSize q) then completeStatus (freeReq (countMalformed t q.port) q) q 0x10
       else admitReq t q (intact here)) := by
  have hr := portReq_isResp s b p l op f
  have ho := portReq_opcode s b p l op f hop
  unfold arrive
  rw [hb]
  simp only [hl, if_true, sortFrame]
  revert hr ho hc
  generalize portReq s b p l (asRequest op f) = q
  intro hc hr ho
  simp only [ho, hn, hc, hr, false_and, if_false, Bool.false_eq_true]

/-- Withholding changes the ports only. -/
theorem setWithheld_alm (s : State) (p : Nat) (l : List Nat) (on : Bool) : (setWithheld s p l on).alm = s.alm := by
  unfold setWithheld
  dsimp only
  split
  · rfl
  · split
    · rfl
    · have h : ∀ (l : List Nat) (f : State → Nat → Nat) (s : State), (l.foldl (fun s c => sendControl s p 3 (f s c)) s).alm = s.alm := by
        intro l f
        induction l with
        | nil => intro s; rfl
        | cons c r ih => intro s; simp only [List.foldl_cons, ih]; rfl
      exact h l (fun s c => c * 2 ^ 24 + (KMap.getD (s.port p).rxFreed c 0).toNat) _

theorem withholdPort_alm (s : State) (p : Nat) : (withholdPort s p).alm = s.alm := by
  unfold withholdPort
  cases s.bind p with
  | none => rfl
  | some b =>
    dsimp only
    split
    · rfl
    · simp only [setWithheld_alm]

theorem noteOut_alm (s : State) (r : Req) : (noteOut s r).alm = s.alm := by
  unfold noteOut; split <;> rfl

/-- What the first hop notes is no part of the Almanac. -/
theorem goesOut_alm (s : State) (r : Req) : (goesOut s r).alm = s.alm := by
  unfold goesOut
  split
  · rw [withholdPort_alm, noteOut_alm]
  · split
    · dsimp only; rw [withholdPort_alm, noteOut_alm]; rfl
    · exact noteOut_alm s r

/-- The marks are no part of the Almanac. -/
theorem markSource_alm (s : State) (r : Req) : (markSource s r).alm = s.alm := by
  have h1 : ∀ (s : State) (e : Ep) (q : BitVec 32), (advanceMark s e q).alm = s.alm := by
    intro s e q; unfold advanceMark; split
    · split <;> rfl
    · rfl
  have h2 : ∀ (l : List Member) (s : State), (l.foldl (fun s m => advanceMark s m.src m.seq) s).alm = s.alm := by
    intro l; induction l with
    | nil => intro s; rfl
    | cons m l ih => intro s; simp only [List.foldl_cons, ih, h1]
  unfold markSource
  dsimp only
  split <;> split <;> simp only [advanceMembers, h1, h2]

theorem markSource_xb (s : State) (r : Req) : (markSource s r).xb = s.xb := by
  have h1 : ∀ (s : State) (e : Ep) (q : BitVec 32), (advanceMark s e q).xb = s.xb := by
    intro s e q; unfold advanceMark; split
    · split <;> rfl
    · rfl
  have h2 : ∀ (l : List Member) (s : State), (l.foldl (fun s m => advanceMark s m.src m.seq) s).xb = s.xb := by
    intro l; induction l with
    | nil => intro s; rfl
    | cons m l ih => intro s; simp only [List.foldl_cons, ih, h1]
  unfold markSource
  dsimp only
  split <;> split <;> simp only [advanceMembers, h1, h2]

/-- A request of an edge port that neither store order nor an older lease holds back goes on. -/
theorem firstHop_goes {s : State} {r : Req} (hfl : s.xb.flagged = []) (hheld : heldHere s r = false)
    (hout : (outOf s r.hdr.src).contains (outKey r) = false)
    (hfence : r.hdr.isFence = true → storesOut s r.hdr.src = []) (hle : s.xb.leases = []) (here : State → Req → State) :
    firstHop s r here = sendOn (goesOut s r) r here := by
  unfold firstHop goesOut
  split
  · have hno : (r.hdr.isFence && !(storesOut s r.hdr.src).isEmpty) = false := by
      cases hf : r.hdr.isFence with
      | false => rfl
      | true => simp [hfence hf]
    simp only [hfl, hheld, List.filter_nil, List.any_nil, Bool.and_false, Bool.false_eq_true, if_false, hout, List.map_nil, List.append_nil, hno]
  · split
    · simp only [hle, List.any_nil, Bool.false_eq_true, if_false]
    · rfl

/-- A whole request whose destination is this module is taken here. -/
theorem sendOn_here {s : State} {r : Req} (h : r.hdr.dest = s.self) (hx : r.rx = none) (here : State → Req → State) :
    sendOn s r here = here (freeReq s r) r := by
  unfold sendOn admitHere onceWhole; rw [if_pos h, hx]

/-- A frame that no check of its own kind turns away is taken as it is. -/
theorem intact_passes {here : State → Req → State} {s : State} {r : Req} (h : r.hdr.opcode.toNat < 0x70 ∨ r.poisoned = false) :
    intact here s r = here s r := by
  unfold intact
  rcases h with h | h
  · simp [Nat.not_le.mpr h]
  · simp [h]

/-- A request that reaches this module is served: every check before its service has passed. -/
theorem arrive_reaches {s u : State} {a : Arrival} {op : Nat} {r : Req} (h : Reaches s a op u r) (hop : op < 256)
    (hn : noCompletionOps.contains op = false) (here : State → Req → State) :
    arrive s a.port.toNat none (asRequest op a.frame) here = here u r := by
  obtain ⟨b, hb, hl, hc, hrx, hp, he, hm, hu, hr⟩ := h
  rw [arrive_request hl hb hop hn hc]
  have ho := portReq_opcode s b a.port.toNat none op a.frame hop
  have hself : ∀ h, (frameHeard s a.port.toNat h).self = s.self := by
    intro h; unfold frameHeard; dsimp only; split <;> rfl
  have hxb : ∀ h, (frameHeard s a.port.toNat h).xb = s.xb := by
    intro h; unfold frameHeard; dsimp only; split <;> rfl
  revert hc hrx hp he hm hu hr ho
  dsimp only
  have hedge : (portReq s b a.port.toNat none (asRequest op a.frame)).edge = !b.fabric := rfl
  revert hedge
  generalize portReq s b a.port.toNat none (asRequest op a.frame) = q
  generalize hT0 : frameHeard s a.port.toNat q.hdr = t0
  generalize hT : markSource t0 q = t
  have hs : t.self = s.self := by
    show t.alm.cur.self = _
    rw [← hT, markSource_alm]; rw [← hT0]; exact hself q.hdr
  have hx : t.xb = s.xb := by rw [← hT, markSource_xb, ← hT0]; exact hxb q.hdr
  intro hedge hc hrx hp he hm hu hr ho
  rcases hr with ⟨hf, hd, rfl⟩ | ⟨hf, hfmt, rfl, hroute, hfl, hheld, hout, hfence, hle⟩
  · have hq : r.edge = false := by rw [hedge, hf]; rfl
    have hgo : sendOn t r (intact here) = here u r := by
      rw [sendOn_here (by rw [hs]; exact hd) hrx, intact_passes (by rw [ho]; exact hp), hu]
      simp only [hf, if_true]
    have hA : (r.edge && addressRouted r.hdr.opcode.toNat) = false := by rw [hq]; rfl
    simp only [hf, Bool.not_true, Bool.false_and, Bool.false_eq_true, if_false, admitReq, hT, he, hm, hA]
    rw [if_neg (by simp [hq])]
    exact hgo
  · have hE : q.edge = true := by rw [hedge, hf]; rfl
    have hs2 : (goesOut t { q with hdr := { q.hdr with dest := s.self } }).self = s.self := by
      show (goesOut t _).alm.cur.self = _
      rw [goesOut_alm]; exact hs
    rw [← hx] at hfl hle
    have hheld' : heldHere t { q with hdr := { q.hdr with dest := s.self } } = false := by
      unfold heldHere at hheld ⊢; rw [hx]; exact hheld
    have hout' : (outOf t q.hdr.src).contains (outKey { q with hdr := { q.hdr with dest := s.self } }) = false := by
      unfold outOf; rw [hx]; exact hout
    have hfence' : q.hdr.isFence = true → storesOut t q.hdr.src = [] := by
      intro hh; unfold storesOut outOf; rw [hx]; exact hfence hh
    have hgo : firstHop t { q with hdr := { q.hdr with dest := s.self } } (intact here) = here u { q with hdr := { q.hdr with dest := s.self } } := by
      rw [firstHop_goes hfl hheld' hout' hfence' hle,
        sendOn_here (r := { q with hdr := { q.hdr with dest := s.self } }) hs2.symm hrx, intact_passes (by rw [← ho] at hp; exact hp), hu]
      simp only [hf, Bool.false_eq_true, if_false]
    have hA : (q.edge && addressRouted q.hdr.opcode.toNat) = addressRouted op := by rw [hE, ho]; rfl
    simp only [hf, hfmt, Bool.not_true, Bool.and_false, Bool.false_eq_true, if_false, admitReq, hT, he, hm, hA]
    by_cases hr : addressRouted op = true
    · simp only [hr, if_true] at hroute ⊢
      obtain ⟨htar, hfd⟩ := hroute
      simp only [routeReq, htar, hfd, hs, if_true, Bool.false_eq_true, if_false]
      exact hgo
    · simp only [hr, Bool.false_eq_true, if_false] at hroute ⊢
      rw [if_pos hE]
      have hqq : ({ q with hdr := { q.hdr with dest := s.self } } : Req) = q := by rw [← hroute]
      rw [hqq] at hgo ⊢
      exact hgo

/-- Only a scheduled frame, one whose flow was found at its admission, leaves by the ports of a flow. -/
theorem flowPorts_unscheduled {s : State} {r : Req} (hc : r.flow = none) : flowPorts s r = [] := by
  have he : encodedAt s r = none := by simp [encodedAt, reqFlow, hc]
  simp [flowPorts, he, reqFlow, hc]

theorem portReq_flow (s : State) (b : PortBind) (p : Nat) (l : Option (BitVec 16)) (f : Frame) (hc : (portReq s b p l f).hdr.cls ≠ 0) :
    (portReq s b p l f).flow = none := by
  have : (portReq s b p l f).flow = if (portReq s b p l f).hdr.cls = 0 then (flowAt s p (portReq s b p l f).hdr).map (·.1) else none := rfl
  rw [this, if_neg hc]

/-- A frame without completion for this module is taken here. -/
theorem arrive_lands {s u : State} {port op : Nat} {f : Frame} {r : Req} (h : Lands s port f u r) (ho : f.hdr.opcode.toNat = op)
    (hr : f.hdr.isResp = false) (hn : noCompletionOps.contains op = true) (here : State → Req → State) :
    arrive s port none f here = here u r := by
  obtain ⟨b, hb, hl, hq, hc, hrx, hp, hfmt, hd, hu⟩ := h
  have ho' : r.hdr.opcode.toNat = op := by
    rw [hq, ← ho]; unfold portReq; dsimp only
    split
    · rfl
    · show (stampEdge s b _).opcode.toNat = _
      rw [stampEdge_opcode]
  have hr' : r.hdr.isResp = false := by
    rw [hq]; unfold portReq; dsimp only
    split
    · exact hr
    · exact stampEdge_isResp s b _ hr
  have hself : ∀ h, (frameHeard s port h).self = s.self := by
    intro h; unfold frameHeard; dsimp only; split <;> rfl
  have hfl : r.flow = none := by rw [hq] at hc ⊢; exact portReq_flow s b port none f hc
  have hfm : (!b.fabric && !formatOk (frameHeard s port r.hdr) b r.hdr (reqSize r)) = false := by
    rcases hfmt with h | h <;> simp [h]
  unfold arrive
  rw [hb]
  simp only [hl, if_true]
  rw [← hq]
  simp only [sortFrame, hr', hfm, Bool.false_eq_true, if_false, hc, false_and, ho', hn, if_true, passPlain, hself,
    flowPorts_unscheduled hfl, List.isEmpty_nil, Bool.true_or, Bool.and_true, beq_iff_eq]
  by_cases h41 : r.hdr.opcode = 0x41
  · simp only [h41, if_true, onceWhole, hrx] at hu ⊢
    rw [intact_passes (by rw [h41]; exact .inl (by decide)), hu]
  · simp only [h41, if_false, false_or] at hu hd ⊢
    simp only [hd, if_true, onceWhole, hrx]
    rw [intact_passes hp, hu]

/-- A completion for this module is taken here. -/
theorem arrive_returns {s u : State} {a : Arrival} {f : Frame} (h : Returns s a u f) (here : State → Req → State) :
    arrive s a.port.toNat none (asCompletion a.frame) here = ownCompletion u f := by
  obtain ⟨b, hb, hf, hl, rfl, hrx, hd, hu⟩ := h
  have hr : (asCompletion a.frame).hdr.isResp = true := by
    simp [asCompletion, Header.isResp, flagResp]
  have hself : ∀ h, (frameHeard s a.port.toNat h).self = s.self := by
    intro h; unfold frameHeard; dsimp only; split <;> rfl
  have hq : (portReq s b a.port.toNat none (asCompletion a.frame)).hdr = (asCompletion a.frame).hdr := by
    simp only [portReq, hf, if_true, newReq]
  have hfr : reqFrame (portReq s b a.port.toNat none (asCompletion a.frame)) = asCompletion a.frame := by
    simp only [portReq, hf, if_true, reqFrame, newReq]
  have hx : (portReq s b a.port.toNat none (asCompletion a.frame)).rx = none := hrx
  unfold arrive
  rw [hb]
  simp only [hl, if_true, sortFrame, hq, hr, passCompletion, hself, hd, onceWhole, hx, hfr]
  rw [hu]

/-- The opcode of a request that reaches this module is its row's. -/
theorem reaches_opcode {s u : State} {a : Arrival} {op : Nat} {r : Req} (h : Reaches s a op u r) (hop : op < 256) : r.hdr.opcode.toNat = op := by
  obtain ⟨b, -, -, -, -, -, -, -, -, hr⟩ := h
  have ho := portReq_opcode s b a.port.toNat none op a.frame hop
  rcases hr with ⟨-, -, rfl⟩ | ⟨-, -, rfl, -⟩ <;> exact ho

/-- A request row of a request that reaches this module: it is served, and the work that may now go on goes on. -/
theorem arriveReq_reaches {s u : State} {a : Arrival} {op : Nat} {r : Req} (h : Reaches s a op u r) (hop : op < 256)
    (hn : noCompletionOps.contains op = false) : commit s (arriveReq s a op) = After s (serve u none r) := by
  unfold arriveReq After; rw [arrive_reaches h hop hn]

/-- A command that its session accepts runs, and commands whose time has come are answered. -/
theorem commandRow_accepts {s : State} {m : CmdRef} {x : Session} (h : Accepts s m x) (code : Nat) (f : State → State) :
    commandRow s m code f = AfterAll s (f (accepted s m code x)) := by
  obtain ⟨hup, hin, hs, hseq, hopen⟩ := h
  have hl : ¬ m.seq.toNat ≤ x.lastSeq := Nat.not_le.mpr hseq
  have ho : ¬ x.unanswered.length ≥ 64 := Nat.not_le.mpr hopen
  have h0 : (s.fn.inbox.any (fun c => c.1 == m)) = true → False := by rw [hin]; exact Bool.false_ne_true
  unfold commandRow AfterAll onCommand acceptCommand accepted
  rw [if_pos hup, if_neg h0, hs]
  dsimp only
  rw [if_neg hl, if_neg ho]
  simp only [State.setKp_fn]

end Sys2Proof.Machine
end

