-- ==== Sys2Proof/Laws/Table.lean ====
section
/-! SUPPORT. Tables and storage: what reading after writing gives, and that every operation keeps the rising order and the
canonical form. -/

namespace Sys2Proof.Machine

/-- The check of the order says that the keys rise. -/
theorem KMap.wf_iff {α : Type} (m : KMap α) : KMap.wf m = true ↔ m.Pairwise (fun a b => a.1 < b.1) := by
  induction m with
  | nil => simp [KMap.wf]
  | cons p r ih =>
    cases r with
    | nil => simp [KMap.wf]
    | cons q r =>
      simp only [KMap.wf, Bool.and_eq_true, decide_eq_true_eq, ih]
      constructor
      · rintro ⟨h, hr⟩
        refine List.pairwise_cons.mpr ⟨fun x hx => ?_, hr⟩
        cases hx with
        | head => exact h
        | tail _ hx => exact Nat.lt_trans h ((List.pairwise_cons.mp hr).1 x hx)
      · intro h
        exact ⟨(List.pairwise_cons.mp h).1 q List.mem_cons_self, (List.pairwise_cons.mp h).2⟩

/-- Entries after a put are the new one or old ones. -/
theorem KMap.mem_put {α : Type} {m : KMap α} {k : Nat} {v : α} {p : Nat × α} (h : p ∈ KMap.put m k v) : p = (k, v) ∨ p ∈ m := by
  induction m with
  | nil => simpa [KMap.put] using h
  | cons q r ih =>
    obtain ⟨a, b⟩ := q
    simp only [KMap.put] at h
    split at h
    · rcases List.mem_cons.mp h with h | h
      · exact .inl h
      · exact .inr h
    · split at h
      · rcases List.mem_cons.mp h with h | h
        · exact .inl h
        · exact .inr (List.mem_cons_of_mem _ h)
      · rcases List.mem_cons.mp h with h | h
        · exact .inr (h ▸ List.mem_cons_self)
        · rcases ih h with h | h
          · exact .inl h
          · exact .inr (List.mem_cons_of_mem _ h)

/-- A put keeps the keys rising. -/
theorem KMap.put_rises {α : Type} {m : KMap α} (k : Nat) (v : α) (h : m.Pairwise (fun a b => a.1 < b.1)) :
    (KMap.put m k v).Pairwise (fun a b => a.1 < b.1) := by
  induction m with
  | nil => simp [KMap.put]
  | cons q r ih =>
    obtain ⟨a, b⟩ := q
    obtain ⟨h1, h2⟩ := List.pairwise_cons.mp h
    simp only [KMap.put]
    split
    · rename_i hk
      refine List.pairwise_cons.mpr ⟨fun x hx => ?_, h⟩
      rcases List.mem_cons.mp hx with hx | hx
      · exact hx ▸ hk
      · exact Nat.lt_trans hk (h1 x hx)
    · split
      · rename_i hk
        exact List.pairwise_cons.mpr ⟨fun x hx => hk ▸ h1 x hx, h2⟩
      · rename_i hn hk
        refine List.pairwise_cons.mpr ⟨fun x hx => ?_, ih h2⟩
        rcases KMap.mem_put hx with hx | hx
        · subst hx
          show a < k
          omega
        · exact h1 x hx

/-- Removal of a key is a filter. -/
theorem KMap.del_eq {α : Type} (m : KMap α) (k : Nat) : KMap.del m k = m.filter (fun p => decide (p.1 ≠ k)) := by
  induction m with
  | nil => rfl
  | cons q r ih =>
    obtain ⟨a, b⟩ := q
    simp only [KMap.del]
    split
    · rename_i h
      simp [h, ih]
    · rename_i h
      simp [h, ih]

/-- What is found after a put. -/
theorem KMap.find_put {α : Type} (m : KMap α) (k : Nat) (v : α) (j : Nat) :
    KMap.find (KMap.put m k v) j = if k = j then some v else KMap.find m j := by
  induction m with
  | nil => simp [KMap.put, KMap.find]
  | cons q r ih =>
    obtain ⟨a, b⟩ := q
    simp only [KMap.put]
    split
    · simp [KMap.find]
    · split
      · rename_i h
        subst h
        simp only [KMap.find]
        split <;> rfl
      · rename_i h1 h2
        simp only [KMap.find, ih]
        split
        · rename_i h
          subst h
          simp [h2]
        · rfl

/-- What is found after a removal. -/
theorem KMap.find_del {α : Type} (m : KMap α) (k j : Nat) : KMap.find (KMap.del m k) j = if k = j then none else KMap.find m j := by
  induction m with
  | nil => simp [KMap.del, KMap.find]
  | cons q r ih =>
    obtain ⟨a, b⟩ := q
    simp only [KMap.del]
    split
    · rename_i h
      subst h
      rw [ih]
      simp only [KMap.find]
      split <;> rfl
    · rename_i h
      simp only [KMap.find, ih]
      split
      · rename_i h'
        subst h'
        simp [Ne.symm h]
      · rfl

/-- The check of storage says that addresses rise and no entry reads as an unlisted address does. -/
theorem Memory.wf_iff (m : List Host.Cell) :
    Memory.wf m = true ↔ m.Pairwise (fun a b => a.1 < b.1) ∧ ∀ c ∈ m, c.2 ≠ Memory.unlisted := by
  simp [Memory.wf, KMap.wf_iff, List.all_eq_true]

/-- Writing a byte keeps the form. -/
theorem Memory.write_wf {m : List Host.Cell} (a : Nat) (b : Byte) (h : Memory.wf m = true) : Memory.wf (Memory.write m a b) = true := by
  rw [Memory.wf_iff] at h ⊢
  unfold Memory.write
  split
  · rw [KMap.del_eq]
    exact ⟨h.1.sublist List.filter_sublist, fun c hc => h.2 c (List.mem_filter.mp hc).1⟩
  · rename_i hb
    refine ⟨KMap.put_rises a b h.1, fun c hc => ?_⟩
    rcases KMap.mem_put hc with hc | hc
    · exact hc ▸ hb
    · exact h.2 c hc

/-- Writing bytes keeps the form. -/
theorem Memory.writeBytes_wf {m : List Host.Cell} (a : Nat) (bs : List Byte) (h : Memory.wf m = true) :
    Memory.wf (Memory.writeBytes m a bs) = true := by
  induction bs generalizing m a with
  | nil => exact h
  | cons b r ih => exact ih (a + 1) (Memory.write_wf a b h)

/-- The canonical form is canonical. -/
theorem Memory.canon_wf (m : List Host.Cell) : Memory.wf (Memory.canon m) = true := by
  unfold Memory.canon
  split
  · assumption
  · have : ∀ (l acc : List Host.Cell), Memory.wf acc = true → Memory.wf (l.foldl (fun acc c => Memory.write acc c.1 c.2) acc) = true := by
      intro l
      induction l with
      | nil => exact fun _ h => h
      | cons c r ih => exact fun acc h => ih _ (Memory.write_wf c.1 c.2 h)
    exact this m [] rfl

/-- Storage that is in its canonical form stays as it is. -/
theorem Memory.canon_of_wf {m : List Host.Cell} (h : Memory.wf m = true) : Memory.canon m = m := by simp [Memory.canon, h]

/-- A byte reads as written, and every other address as before. -/
theorem Memory.read_write (m : List Host.Cell) (a : Nat) (b : Byte) (x : Nat) :
    Memory.read (Memory.write m a b) x = if a = x then b else Memory.read m x := by
  unfold Memory.read Memory.write KMap.getD
  split
  · rename_i h
    rw [KMap.find_del]
    split
    · simp [h]
    · rfl
  · rw [KMap.find_put]
    split <;> rfl

/-- Bytes read as written within what was written, and as before outside. -/
theorem Memory.read_writeBytes (m : List Host.Cell) (a : Nat) (bs : List Byte) (x : Nat) :
    Memory.read (Memory.writeBytes m a bs) x = if a ≤ x ∧ x < a + bs.length then bs.getD (x - a) 0 else Memory.read m x := by
  induction bs generalizing m a with
  | nil =>
    have : ¬ (a ≤ x ∧ x < a + ([] : List Byte).length) := by simp only [List.length_nil]; omega
    rw [if_neg this]
    rfl
  | cons b r ih =>
    simp only [Memory.writeBytes, ih, Memory.read_write, List.length_cons]
    by_cases h1 : a = x
    · subst h1
      have : ¬ (a + 1 ≤ a) := by omega
      simp [this]
    · by_cases h2 : a + 1 ≤ x ∧ x < a + 1 + r.length
      · have h3 : a ≤ x ∧ x < a + (r.length + 1) := by omega
        have h4 : x - a = (x - (a + 1)) + 1 := by omega
        rw [if_pos h2, if_pos h3, h4, List.getD_cons_succ]
      · have h3 : ¬ (a ≤ x ∧ x < a + (r.length + 1)) := by omega
        rw [if_neg h2, if_neg h3, if_neg h1]

/-- Clearing a run of addresses keeps the form. -/
theorem Memory.clear_wf {m : List Host.Cell} (p : Host.Cell → Bool) (h : Memory.wf m = true) : Memory.wf (m.filter p) = true := by
  rw [Memory.wf_iff] at h ⊢
  exact ⟨h.1.sublist List.filter_sublist, fun c hc => h.2 c (List.mem_filter.mp hc).1⟩

/-- What a meaning answers: the state it makes, with the variant and the queue kept and storage in its canonical form. -/
theorem commit_next {s t u : State} (h : commit s t = .next u) :
    u.variant = s.variant ∧ u.pending = s.pending ∧ Memory.wf u.mem = true
      ∧ u = { t with variant := s.variant, pending := s.pending, mem := Memory.canon t.mem } := by
  cases h
  exact ⟨rfl, rfl, Memory.canon_wf _, rfl⟩

/-- A meaning that keeps the variant, the queue and the canonical form answers just the state it makes. -/
theorem commit_of {s t : State} (hv : t.variant = s.variant) (hp : t.pending = s.pending) (hm : Memory.wf t.mem = true) :
    commit s t = .next t := by
  unfold commit
  rw [Memory.canon_of_wf hm, ← hv, ← hp]

end Sys2Proof.Machine
end

