-- ==== Sys2Proof/Laws/Exec.lean ====
section
/-! SUPPORT. Every command ends in a state that `commit` makes. -/

namespace Sys2Proof.Machine

/-- A command of the control node ends in `commit`. -/
theorem commandRow_commit (s : State) (m : CmdRef) (code : Nat) (f : State → State) : ∃ t, commandRow s m code f = commit s t := ⟨_, rfl⟩

/-- A command that takes effect only while the module runs ends in `commit`. -/
theorem whileRunning_commit (s : State) (f : State → State) : ∃ t, whileRunning s f = commit s t := ⟨_, rfl⟩

/-- Every meaning answers what `commit` makes of some state. -/
theorem exec_commit (c : Instr) (s : State) : ∃ t, exec c s = commit s t := by
  cases c with
  | softVerdictRepeat port peer =>
    simp only [exec, execSoftVerdictRepeat]
    split
    · exact ⟨_, rfl⟩
    · exact ⟨_, rfl⟩
  | rd _ => exact ⟨_, rfl⟩
  | rdOwn _ => exact ⟨_, rfl⟩
  | wr _ => exact ⟨_, rfl⟩
  | wrAppend _ => exact ⟨_, rfl⟩
  | binvCompletion _ => exact ⟨_, rfl⟩
  | atFaddI32 _ => exact ⟨_, rfl⟩
  | atFaddI64 _ => exact ⟨_, rfl⟩
  | atFaddF32 _ => exact ⟨_, rfl⟩
  | atFaddBf16 _ => exact ⟨_, rfl⟩
  | atMin _ => exact ⟨_, rfl⟩
  | atMax _ => exact ⟨_, rfl⟩
  | atSwap _ => exact ⟨_, rfl⟩
  | atCas64 _ => exact ⟨_, rfl⟩
  | atCas128 _ => exact ⟨_, rfl⟩
  | atAnd _ => exact ⟨_, rfl⟩
  | atOr _ => exact ⟨_, rfl⟩
  | atXor _ => exact ⟨_, rfl⟩
  | combinedFetchAdd _ => exact ⟨_, rfl⟩
  | combineWindowClose _ => exact ⟨_, rfl⟩
  | combinedReply _ => exact ⟨_, rfl⟩
  | cpStart _ => exact ⟨_, rfl⟩
  | cpData _ => exact ⟨_, rfl⟩
  | cpPieceComplete _ => exact ⟨_, rfl⟩
  | ctrArm _ => exact ⟨_, rfl⟩
  | ctrArmDeadline _ => exact ⟨_, rfl⟩
  | reContrib _ => exact ⟨_, rfl⟩
  | chunkDeadline _ => exact ⟨_, rfl⟩
  | chunkRecordExpiry _ => exact ⟨_, rfl⟩
  | engineQueueRoom _ _ => exact ⟨_, rfl⟩
  | reResult _ => exact ⟨_, rfl⟩
  | reCmd _ => exact ⟨_, rfl⟩
  | seSearch _ => exact ⟨_, rfl⟩
  | warrenInsert _ => exact ⟨_, rfl⟩
  | warrenDelete _ => exact ⟨_, rfl⟩
  | partitionScanStart _ => exact ⟨_, rfl⟩
  | partitionScanEnd _ => exact ⟨_, rfl⟩
  | warrenUpdateTimeout _ => exact ⟨_, rfl⟩
  | harvestStart _ _ _ => exact ⟨_, rfl⟩
  | harvestCopyEnd _ => exact ⟨_, rfl⟩
  | harvestOldRelease _ => exact ⟨_, rfl⟩
  | harvestFault _ => exact ⟨_, rfl⟩
  | seAttn _ => exact ⟨_, rfl⟩
  | kvCreate _ => exact ⟨_, rfl⟩
  | kvFork _ => exact ⟨_, rfl⟩
  | kvTruncate _ => exact ⟨_, rfl⟩
  | kvTruncateApply _ => exact ⟨_, rfl⟩
  | kvRelease _ => exact ⟨_, rfl⟩
  | kvScanStart _ => exact ⟨_, rfl⟩
  | kvScanEnd _ => exact ⟨_, rfl⟩
  | kvHeldTimeout _ => exact ⟨_, rfl⟩
  | sePartial _ => exact ⟨_, rfl⟩
  | geGather _ => exact ⟨_, rfl⟩
  | geScatter _ => exact ⟨_, rfl⟩
  | geBag _ => exact ⟨_, rfl⟩
  | geKvasm _ => exact ⟨_, rfl⟩
  | geWalk _ => exact ⟨_, rfl⟩
  | ecMemberArrival _ _ _ _ => exact ⟨_, rfl⟩
  | ecDecodeCycle _ _ => exact ⟨_, rfl⟩
  | eqxEcho _ _ => exact ⟨_, rfl⟩
  | eqxTree _ _ => exact ⟨_, rfl⟩
  | eqxStart _ _ => exact ⟨_, rfl⟩
  | equinoxDayZero _ => exact ⟨_, rfl⟩
  | equinoxPhaseAdvance => exact ⟨_, rfl⟩
  | equinoxPhaseTimeout _ => exact ⟨_, rfl⟩
  | runningFabricJoin _ _ _ => exact ⟨_, rfl⟩
  | chEntry _ => exact ⟨_, rfl⟩
  | voteReq _ => exact ⟨_, rfl⟩
  | chVote _ => exact ⟨_, rfl⟩
  | leaderNop => exact ⟨_, rfl⟩
  | electionTimeout => exact ⟨_, rfl⟩
  | candidateTimeout => exact ⟨_, rfl⟩
  | entryResend _ _ => exact ⟨_, rfl⟩
  | settleQueryTimeout _ => exact ⟨_, rfl⟩
  | dayBoundary => exact ⟨_, rfl⟩
  | funcDrainDeadline _ => exact ⟨_, rfl⟩
  | graceEnd _ => exact ⟨_, rfl⟩
  | hbLost _ => exact ⟨_, rfl⟩
  | verdictResend _ => exact ⟨_, rfl⟩
  | heartbeat _ => exact ⟨_, rfl⟩
  | faultReport _ => exact ⟨_, rfl⟩
  | fenceDevice _ => exact ⟨_, rfl⟩
  | lendNotice _ => exact ⟨_, rfl⟩
  | lendDrainComplete lend =>
    show ∃ t, execLendDrainComplete lend s = commit s t
    unfold execLendDrainComplete whileRunning
    exact ⟨_, rfl⟩
  | lendDeadline lend =>
    show ∃ t, execLendDeadline lend s = commit s t
    unfold execLendDeadline whileRunning
    exact ⟨_, rfl⟩
  | completionReturn _ => exact ⟨_, rfl⟩
  | trayCompletion _ => exact ⟨_, rfl⟩
  | trayResend fetch =>
    show ∃ t, execTrayResend fetch s = commit s t
    unfold execTrayResend whileRunning
    exact ⟨_, rfl⟩
  | trayTimeout fetch =>
    show ∃ t, execTrayTimeout fetch s = commit s t
    unfold execTrayTimeout whileRunning
    exact ⟨_, rfl⟩
  | binvResend line ep =>
    show ∃ t, execBinvResend line ep s = commit s t
    unfold execBinvResend whileRunning
    exact ⟨_, rfl⟩
  | binvTimeout line =>
    show ∃ t, execBinvTimeout line s = commit s t
    unfold execBinvTimeout whileRunning
    exact ⟨_, rfl⟩
  | flaggedStoreTimeout store =>
    show ∃ t, execFlaggedStoreTimeout store s = commit s t
    unfold execFlaggedStoreTimeout whileRunning
    exact ⟨_, rfl⟩
  | noPathTimeout request =>
    show ∃ t, execNoPathTimeout request s = commit s t
    unfold execNoPathTimeout whileRunning
    exact ⟨_, rfl⟩
  | pathUpForward request =>
    show ∃ t, execPathUpForward request s = commit s t
    unfold execPathUpForward whileRunning
    exact ⟨_, rfl⟩
  | ledgerRecordExpiry src seq =>
    show ∃ t, execLedgerRecordExpiry src seq s = commit s t
    unfold execLedgerRecordExpiry whileRunning
    exact ⟨_, rfl⟩
  | allocationWaitTimeout held =>
    show ∃ t, execAllocationWaitTimeout held s = commit s t
    unfold execAllocationWaitTimeout whileRunning
    exact ⟨_, rfl⟩
  | t1FrameFree =>
    show ∃ t, execT1FrameFree s = commit s t
    unfold execT1FrameFree whileRunning
    exact ⟨_, rfl⟩
  | denMoveDecision homeExt page dest tray trayPage =>
    show ∃ t, execDenMoveDecision homeExt page dest tray trayPage s = commit s t
    unfold execDenMoveDecision whileRunning
    exact ⟨_, rfl⟩
  | t1FloorDemotion =>
    show ∃ t, execT1FloorDemotion s = commit s t
    unfold execT1FloorDemotion whileRunning
    exact ⟨_, rfl⟩
  | prefetchCursorAdvance comp =>
    show ∃ t, execPrefetchCursorAdvance comp s = commit s t
    unfold execPrefetchCursorAdvance whileRunning
    exact ⟨_, rfl⟩
  | moveStart order =>
    show ∃ t, execMoveStart order s = commit s t
    unfold execMoveStart whileRunning
    exact ⟨_, rfl⟩
  | movePassEnd move =>
    show ∃ t, execMovePassEnd move s = commit s t
    unfold execMovePassEnd whileRunning
    exact ⟨_, rfl⟩
  | moveSourceFree move =>
    show ∃ t, execMoveSourceFree move s = commit s t
    unfold execMoveSourceFree whileRunning
    exact ⟨_, rfl⟩
  | teQueueRoom engine =>
    show ∃ t, execTeQueueRoom engine s = commit s t
    unfold execTeQueueRoom whileRunning
    exact ⟨_, rfl⟩
  | publicationHashDone _ => exact ⟨_, rfl⟩
  | revocationDeadline comp ext =>
    show ∃ t, execRevocationDeadline comp ext s = commit s t
    unfold execRevocationDeadline whileRunning
    exact ⟨_, rfl⟩
  | revocationComplete comp ext =>
    show ∃ t, execRevocationComplete comp ext s = commit s t
    unfold execRevocationComplete whileRunning
    exact ⟨_, rfl⟩
  | scrubPageDone engine =>
    show ∃ t, execScrubPageDone engine s = commit s t
    unfold execScrubPageDone whileRunning
    exact ⟨_, rfl⟩
  | scrubItemDone => exact ⟨_, rfl⟩
  | sweepPageDone slot =>
    show ∃ t, execSweepPageDone slot s = commit s t
    unfold execSweepPageDone whileRunning
    exact ⟨_, rfl⟩
  | sweepComplete _ => exact ⟨_, rfl⟩
  | cellReceive _ _ => exact ⟨_, rfl⟩
  | frameDepart _ => exact ⟨_, rfl⟩
  | ack _ _ => exact ⟨_, rfl⟩
  | nak _ _ => exact ⟨_, rfl⟩
  | credit _ _ _ => exact ⟨_, rfl⟩
  | release _ _ => exact ⟨_, rfl⟩
  | resend _ _ => exact ⟨_, rfl⟩
  | dayMarker _ _ _ => exact ⟨_, rfl⟩
  | spareReq _ _ _ _ => exact ⟨_, rfl⟩
  | spareAck _ _ _ _ => exact ⟨_, rfl⟩
  | spareSwitchGuard lane =>
    show ∃ t, execSpareSwitchGuard lane s = commit s t
    unfold execSpareSwitchGuard whileRunning
    exact ⟨_, rfl⟩
  | linkDown _ _ => exact ⟨_, rfl⟩
  | retxTimeout _ => exact ⟨_, rfl⟩
  | retxLimit _ => exact ⟨_, rfl⟩
  | linkSilenceTimeout _ => exact ⟨_, rfl⟩
  | resendRepeat port lseq =>
    show ∃ t, execResendRepeat port lseq s = commit s t
    unfold execResendRepeat whileRunning
    exact ⟨_, rfl⟩
  | tc6HoldExpiry port lseq =>
    show ∃ t, execTc6HoldExpiry port lseq s = commit s t
    unfold execTc6HoldExpiry whileRunning
    exact ⟨_, rfl⟩
  | cutThroughStallLimit _ => exact ⟨_, rfl⟩
  | laneHardTrigger lane =>
    show ∃ t, execLaneHardTrigger lane s = commit s t
    unfold execLaneHardTrigger whileRunning
    exact ⟨_, rfl⟩
  | laneSoftTrigger lane =>
    show ∃ t, execLaneSoftTrigger lane s = commit s t
    unfold execLaneSoftTrigger whileRunning
    exact ⟨_, rfl⟩
  | alignmentLoss => exact ⟨_, rfl⟩
  | settSample _ => exact ⟨_, rfl⟩
  | throttleLower => exact ⟨_, rfl⟩
  | leakN => exact ⟨_, rfl⟩
  | denWatchdogExpiry _ => exact ⟨_, rfl⟩
  | channelRetire _ _ => exact ⟨_, rfl⟩
  | channelFailure _ _ => exact ⟨_, rfl⟩
  | stackLoss _ => exact ⟨_, rfl⟩
  | engineNoProgress _ _ => exact ⟨_, rfl⟩
  | t0CarveError _ => exact ⟨_, rfl⟩
  | unitResetEnd _ _ => exact ⟨_, rfl⟩
  | warmResetEnd => exact ⟨_, rfl⟩
  | packageResetEnd => exact ⟨_, rfl⟩
  | inputTurnOn => exact ⟨_, rfl⟩
  | railFail => exact ⟨_, rfl⟩
  | undervoltage => exact ⟨_, rfl⟩
  | overvoltage => exact ⟨_, rfl⟩
  | porN => exact ⟨_, rfl⟩
  | wakeN => exact ⟨_, rfl⟩
  | pwrEn _ => exact ⟨_, rfl⟩
  | s3RealignRetry _ => exact ⟨_, rfl⟩
  | keeperSign _ => exact ⟨_, rfl⟩
  | signTokenRefill => exact ⟨_, rfl⟩
  | bottomTreeBuilt => exact ⟨_, rfl⟩
  | entropyFail => exact ⟨_, rfl⟩
  | kpMboxCmd _ => exact ⟨_, rfl⟩
  | kpMboxDoneClear _ => exact ⟨_, rfl⟩
  | stWdogKick _ => exact ⟨_, rfl⟩
  | portRetrain _ => exact ⟨_, rfl⟩
  | stThreshWrite _ => exact ⟨_, rfl⟩
  | xbMirCtrlWrite _ => exact ⟨_, rfl⟩
  | xbMirRuleWrite _ _ _ => exact ⟨_, rfl⟩
  | skewAlarmClear => exact ⟨_, rfl⟩
  | registerWriteOther _ _ _ => exact ⟨_, rfl⟩
  | finugFrame _ => exact ⟨_, rfl⟩
  | finugAck _ _ => exact ⟨_, rfl⟩
  | finugRetxTimeout => exact ⟨_, rfl⟩
  | finugPortDown => exact ⟨_, rfl⟩
  | finugLaneLoss _ => exact ⟨_, rfl⟩
  | kxHello _ _ _ => exact ⟨_, rfl⟩
  | kxAccept _ _ _ => exact ⟨_, rfl⟩
  | kxClose _ => exact ⟨_, rfl⟩
  | handshakeTimeout _ => exact ⟨_, rfl⟩
  | sessionLifetimeEnd _ => exact ⟨_, rfl⟩
  | lxMsg m peer kind body =>
    show ∃ t, execLxMsg m peer kind body s = commit s t
    unfold execLxMsg commandRow
    exact ⟨_, rfl⟩
  | regRead m addrs =>
    show ∃ t, execRegRead m addrs s = commit s t
    unfold execRegRead commandRow
    exact ⟨_, rfl⟩
  | regWrite m pairs =>
    show ∃ t, execRegWrite m pairs s = commit s t
    unfold execRegWrite commandRow
    exact ⟨_, rfl⟩
  | carveRead m slice offset length =>
    show ∃ t, execCarveRead m slice offset length s = commit s t
    unfold execCarveRead commandRow
    exact ⟨_, rfl⟩
  | alBegin m txn participants =>
    show ∃ t, execAlBegin m txn participants s = commit s t
    unfold execAlBegin commandRow
    exact ⟨_, rfl⟩
  | alStage m offset piece =>
    show ∃ t, execAlStage m offset piece s = commit s t
    unfold execAlStage commandRow
    exact ⟨_, rfl⟩
  | alSeal m =>
    show ∃ t, execAlSeal m s = commit s t
    unfold execAlSeal commandRow
    exact ⟨_, rfl⟩
  | alCommit m txn day =>
    show ∃ t, execAlCommit m txn day s = commit s t
    unfold execAlCommit commandRow
    exact ⟨_, rfl⟩
  | almanacPrepare _ => exact ⟨_, rfl⟩
  | almanacCommitEntry _ _ => exact ⟨_, rfl⟩
  | almanacRollbackEntry _ _ => exact ⟨_, rfl⟩
  | alRollback m txn =>
    show ∃ t, execAlRollback m txn s = commit s t
    unfold execAlRollback commandRow
    exact ⟨_, rfl⟩
  | txnTimeout => exact ⟨_, rfl⟩
  | txnVoteTimeout _ => exact ⟨_, rfl⟩
  | alRead m bank offset length =>
    show ∃ t, execAlRead m bank offset length s = commit s t
    unfold execAlRead commandRow
    exact ⟨_, rfl⟩
  | extGrant m comp body day =>
    show ∃ t, execExtGrant m comp body day s = commit s t
    unfold execExtGrant commandRow
    exact ⟨_, rfl⟩
  | extTake m comp body day =>
    show ∃ t, execExtTake m comp body day s = commit s t
    unfold execExtTake commandRow
    exact ⟨_, rfl⟩
  | extMode m comp body day =>
    show ∃ t, execExtMode m comp body day s = commit s t
    unfold execExtMode commandRow
    exact ⟨_, rfl⟩
  | keyRevoke m comp slot gen destroy day =>
    show ∃ t, execKeyRevoke m comp slot gen destroy day s = commit s t
    unfold execKeyRevoke commandRow
    exact ⟨_, rfl⟩
  | lendGrant m lender base pages home =>
    show ∃ t, execLendGrant m lender base pages home s = commit s t
    unfold execLendGrant commandRow
    exact ⟨_, rfl⟩
  | pubRegion m comp region anchor =>
    show ∃ t, execPubRegion m comp region anchor s = commit s t
    unfold execPubRegion commandRow
    exact ⟨_, rfl⟩
  | publish m comp region version base extents =>
    show ∃ t, execPublish m comp region version base extents s = commit s t
    unfold execPublish commandRow
    exact ⟨_, rfl⟩
  | promote m comp region version =>
    show ∃ t, execPromote m comp region version s = commit s t
    unfold execPromote commandRow
    exact ⟨_, rfl⟩
  | retire m comp region version =>
    show ∃ t, execRetire m comp region version s = commit s t
    unfold execRetire commandRow
    exact ⟨_, rfl⟩
  | pinClear m comp region version count =>
    show ∃ t, execPinClear m comp region version count s = commit s t
    unfold execPinClear commandRow
    exact ⟨_, rfl⟩
  | warrenCreate m spec =>
    show ∃ t, execWarrenCreate m spec s = commit s t
    unfold execWarrenCreate commandRow
    exact ⟨_, rfl⟩
  | warrenDissolve m comp warren =>
    show ∃ t, execWarrenDissolve m comp warren s = commit s t
    unfold execWarrenDissolve commandRow
    exact ⟨_, rfl⟩
  | harvest m comp warren part =>
    show ∃ t, execHarvest m comp warren part s = commit s t
    unfold execHarvest commandRow
    exact ⟨_, rfl⟩
  | fence m body day =>
    show ∃ t, execFence m body day s = commit s t
    unfold execFence commandRow
    exact ⟨_, rfl⟩
  | admission m device comp asSpare =>
    show ∃ t, execAdmission m device comp asSpare s = commit s t
    unfold execAdmission commandRow
    exact ⟨_, rfl⟩
  | attest m nonce =>
    show ∃ t, execAttest m nonce s = commit s t
    unfold execAttest commandRow
    exact ⟨_, rfl⟩
  | fwStage _ _ _ => exact ⟨_, rfl⟩
  | fwActivate _ => exact ⟨_, rfl⟩
  | fwCommit _ => exact ⟨_, rfl⟩
  | ownerEnrol m root =>
    show ∃ t, execOwnerEnrol m root s = commit s t
    unfold execOwnerEnrol commandRow
    exact ⟨_, rfl⟩
  | ownerTransfer m root statement =>
    show ∃ t, execOwnerTransfer m root statement s = commit s t
    unfold execOwnerTransfer commandRow
    exact ⟨_, rfl⟩
  | idRoll m =>
    show ∃ t, execIdRoll m s = commit s t
    unfold execIdRoll commandRow
    exact ⟨_, rfl⟩
  | resetUnit m kind engine =>
    show ∃ t, execResetUnit m kind engine s = commit s t
    unfold execResetUnit commandRow
    exact ⟨_, rfl⟩
  | resetWarm m =>
    show ∃ t, execResetWarm m s = commit s t
    unfold execResetWarm commandRow
    exact ⟨_, rfl⟩
  | resetPackage m =>
    show ∃ t, execResetPackage m s = commit s t
    unfold execResetPackage commandRow
    exact ⟨_, rfl⟩
  | resetPowerOn m =>
    show ∃ t, execResetPowerOn m s = commit s t
    unfold execResetPowerOn commandRow
    exact ⟨_, rfl⟩
  | enterS1 m =>
    show ∃ t, execEnterS1 m s = commit s t
    unfold execEnterS1 commandRow
    exact ⟨_, rfl⟩
  | enterS3 m =>
    show ∃ t, execEnterS3 m s = commit s t
    unfold execEnterS3 commandRow
    exact ⟨_, rfl⟩
  | leaveS1 m =>
    show ∃ t, execLeaveS1 m s = commit s t
    unfold execLeaveS1 commandRow
    exact ⟨_, rfl⟩
  | subscribe m mask rateLog2 samples =>
    show ∃ t, execSubscribe m mask rateLog2 samples s = commit s t
    unfold execSubscribe commandRow
    exact ⟨_, rfl⟩
  | unsubscribe m mask =>
    show ∃ t, execUnsubscribe m mask s = commit s t
    unfold execUnsubscribe commandRow
    exact ⟨_, rfl⟩
  | telemetrySample _ => exact ⟨_, rfl⟩
  | linkUp _ _ _ => exact ⟨_, rfl⟩
  | dayMarkerSend _ => exact ⟨_, rfl⟩
  | requestDeadline _ => exact ⟨_, rfl⟩
  | entropyTestsPass => exact ⟨_, rfl⟩
  | topTreeCacheRebuilt => exact ⟨_, rfl⟩
  | keeperRequestDone _ _ => exact ⟨_, rfl⟩
  | finugLaneLock _ => exact ⟨_, rfl⟩

end Sys2Proof.Machine
end

