-- ==== Sys2Proof/Laws/Quiet.lean ====
section
/-! SUPPORT. What follows a command changes nothing in a module with no work waiting. -/

namespace Sys2Proof.Machine

/-- The parts of `Quiet`. -/
theorem quiet_parts {s : State} (h : Quiet s = true) :
    s.xb.loop = [] ∧ s.xb.flagged = [] ∧ s.xb.waiting = [] ∧ s.xb.leases = []
      ∧ (∀ p ∈ s.xb.outstanding, p.2.length < 16384) ∧ s.eng.queue = [] ∧ s.eng.searches = [] ∧ s.eng.attns = [] ∧ s.eng.updates = []
      ∧ s.eng.kvHeld = [] ∧ s.eng.kvScans = [] ∧ s.eng.parked = [] ∧ s.home.held = [] ∧ s.home.fetched = []
      ∧ (∀ p ∈ s.ports, p.2.withheld = []) ∧ s.power.step < 4 := by
  simp only [Quiet, Bool.and_eq_true, List.isEmpty_iff, List.all_eq_true, decide_eq_true_eq, and_assoc] at h
  exact h

/-- A value found in a table is one of its entries. -/
theorem KMap.find_mem {α : Type} {m : KMap α} {k : Nat} {v : α} (h : KMap.find m k = some v) : (k, v) ∈ m := by
  induction m with
  | nil => simp [KMap.find] at h
  | cons p r ih =>
    obtain ⟨a, b⟩ := p
    simp only [KMap.find] at h
    split at h
    · rename_i e
      cases h
      exact e ▸ List.mem_cons_self
    · exact List.mem_cons_of_mem _ (ih h)

/-- A source's requests that are out are those of one entry. -/
theorem outOf_length {s : State} (ho : ∀ p ∈ s.xb.outstanding, p.2.length < 16384) (e : Ep) : (outOf s e).length < 16384 := by
  unfold outOf KMap.getD
  cases h : KMap.find s.xb.outstanding e.toNat with
  | none => simp
  | some l => exact ho _ (KMap.find_mem h)

/-- A port withholds nothing if none does. -/
theorem port_withheld {s : State} (hw : ∀ p ∈ s.ports, p.2.withheld = []) (n : Nat) : (s.port n).withheld = [] := by
  unfold State.port KMap.getD
  cases h : KMap.find s.ports n with
  | none => rfl
  | some l => exact hw _ (KMap.find_mem h)

/-- Withholding that is already as asked stays. -/
theorem setWithheld_off {s : State} {port : Nat} {cls : List Nat} (hw : (s.port port).withheld = []) (hc : cls ≠ []) :
    setWithheld s port cls false = s := by
  cases cls with
  | nil => exact absurd rfl hc
  | cons c r => simp [setWithheld, hw]

/-- With nothing to withhold and nothing withheld, a port's withholding stays. -/
theorem withholdPort_quiet {s : State} (port : Nat) (hw : ∀ p ∈ s.ports, p.2.withheld = []) (hl : s.xb.leases = [])
    (ho : ∀ p ∈ s.xb.outstanding, p.2.length < 16384) (hp : s.power.step < 4) : withholdPort s port = s := by
  unfold withholdPort
  cases s.bind port with
  | none => rfl
  | some b =>
    have h1 : ¬ (portStores s b.ep port).length ≥ 16384 := Nat.not_le.mpr (Nat.lt_of_le_of_lt
      (Nat.le_trans (List.length_filter_le ..) (List.length_filter_le ..)) (outOf_length ho b.ep))
    have h2 : ¬ s.power.step ≥ 4 := Nat.not_le.mpr hp
    simp [h1, h2, hl, setWithheld_off (port_withheld hw port)]

/-- With nothing waiting, what follows a command changes nothing. -/
theorem settle_quiet {s : State} (h : Quiet s = true) : settle s = s := by
  obtain ⟨h1, h2, h3, h4, h5, h6, h7, h8, h9, h10, h11, hk', h12, h13, h14, h15⟩ := quiet_parts h
  have hd : drainLoop 64 s = s := by simp [drainLoop, h1]
  have ha : settleAssemblies s = s := by simp [settleAssemblies, h11]
  have hr : retryHeld s = s := by simp [retryHeld, h12]
  have hq : retryQueue s = s := by simp [retryQueue, h6]
  have hu : drainUpdates s = s := by simp [drainUpdates, h9]
  have hk : drainKv s = s := by simp [drainKv, h10]
  have hres : retryResults s = s := by simp [retryResults, h7, h8]
  have han : releaseAnswers s = s := by simp [releaseAnswers, hk', sortBy]
  have hst : releaseStores (s.xb.flagged.length + 1) s = s := by simp [releaseStores, nextStore, h2]
  have hm : releaseMoving s = s := by simp [releaseMoving, h3]
  have hf : dropFetched s = s := by simp [dropFetched, h13]
  have hp : ∀ l : List (Nat × PortBind), l.foldl (fun s p => withholdPort s p.1) s = s := by
    intro l
    induction l with
    | nil => rfl
    | cons p r ih => simp only [List.foldl_cons, withholdPort_quiet p.1 h14 h4 h5 h15, ih]
  simp only [settle, hd, ha, hr, hq, hu, hk, hres, han, hst, hm, hp, hf]

/-- What follows a command of the Chronicle changes nothing. -/
theorem finish_quiet {s : State} (h : Quiet s = true) (hi : s.ch.inbox = []) : finish s = s := by
  have : takeVotes s = s := by
    have e : { s.ch with inbox := [] } = s.ch := by rw [← hi]
    simp only [takeVotes, hi, e, List.foldl_nil]
    rfl
  simp only [finish, settle_quiet h, this]

/-- What follows a command of the control node changes nothing. -/
theorem finishAll_quiet {s : State} (h : QuietAll s = true) : finishAll s = s := by
  simp only [QuietAll, Bool.and_eq_true, List.isEmpty_iff] at h
  simp only [finishAll, finish_quiet h.1.1 h.1.2, answerDue, h.2, List.foldl_nil]

end Sys2Proof.Machine
end

