-- ==== Sys2Proof/Laws/Words.lean ====
section
/-! SUPPORT. A control word gives back its type and its content, and a port that is live acts on it. -/

namespace Sys2Proof.Machine

/-- The CRC of a control word fits its 16 bits. -/
theorem crc16_lt (v : Nat) : crc16 v < 65536 := by
  have h : ∀ (l : List Nat) (c : Nat), c < 65536 → l.foldl (fun c i =>
      let top := (c / 32768 % 2) != (v / 2 ^ (111 - i) % 2)
      let c' := c * 2 % 65536
      if top then c' ^^^ 0x8BB7 else c') c < 65536 := by
    intro l
    induction l with
    | nil => exact fun c h => h
    | cons i l ih =>
      intro c _
      refine ih _ ?_
      have hc : c * 2 % 65536 < 2 ^ 16 := Nat.mod_lt _ (by decide)
      simp only []
      split
      · exact Nat.xor_lt_two_pow hc (by decide)
      · exact hc
  exact h _ 0 (by decide)

/-- A word that this module sends is read as its type and its content. -/
theorem wordOf_controlWord {t n : Nat} (ht : t < 16) (hn : n < 2 ^ 108) : wordOf (controlWord t n) = some (t, n) := by
  have hc := crc16_lt (t * 2 ^ 108 + n)
  have hw : (controlWord t n).toNat = (t * 2 ^ 108 + n) * 65536 + crc16 (t * 2 ^ 108 + n) := by
    simp only [controlWord, Nat.mod_eq_of_lt ht, Nat.mod_eq_of_lt hn, BitVec.toNat_ofNat]
    exact Nat.mod_eq_of_lt (by omega)
  have hd : ((t * 2 ^ 108 + n) * 65536 + crc16 (t * 2 ^ 108 + n)) / 65536 = t * 2 ^ 108 + n := by omega
  have hm : ((t * 2 ^ 108 + n) * 65536 + crc16 (t * 2 ^ 108 + n)) % 65536 = crc16 (t * 2 ^ 108 + n) := by omega
  have ht' : (t * 2 ^ 108 + n) / 2 ^ 108 = t := by rw [Nat.add_comm, Nat.add_mul_div_right _ _ (by decide), Nat.div_eq_of_lt hn, Nat.zero_add]
  have hn' : (t * 2 ^ 108 + n) % 2 ^ 108 = n := by rw [Nat.add_comm, Nat.add_mul_mod_self_right, Nat.mod_eq_of_lt hn]
  rw [wordOf, hw, hd, hm, ht', hn', if_pos rfl]

/-- On a live port a control word takes its effect, and the port has heard one. -/
theorem controlIn_live {s : State} {p t n : Nat} (h : portLive s p = true) (ht : t < 16) (hn : n < 2 ^ 108) :
    controlIn s p (controlWord t n) = settle (onWord (s.updPort p (fun x => { x with lastCtrl := s.now })) p t n) := by
  rw [controlIn, wordOf_controlWord ht hn]
  simp only [h, if_true]

end Sys2Proof.Machine
end

