-- ==== Sys2Proof/WellFormed.lean ====
section
/-! DEFINITION. Which terms of `Instr` are commands: a frame row carries its own opcode and direction, a payload of at most
4,096 bytes (R69) with the length its header states, and enumerated fields hold values that exist. -/

namespace Sys2Proof.WellFormed

open Sys2Proof.Machine

/-- A frame of one of some opcodes, a request or a completion, whose payload is at most 4,096 bytes (R69, R76, R79). -/
def frameOk (ops : List Nat) (resp : Bool) (a : Arrival) : Bool :=
  ops.contains a.frame.hdr.opcode.toNat && a.frame.hdr.isResp == resp && decide (a.frame.payload.length ≤ 4096)

/-- A frame of any opcode. -/
def anyFrameOk (a : Arrival) : Bool := decide (a.frame.payload.length ≤ 4096)

/-- A completion of any opcode. -/
def respOk (a : Arrival) : Bool := a.frame.hdr.isResp && anyFrameOk a

/-- A cell holds the bytes that its envelope counts: 1 to 256, zero encoding 256 (R95). -/
def cellOk (c : Cell) : Bool :=
  decide (c.content.length = if c.bytes = 0 then 256 else c.bytes.toNat) && decide (c.content.length ≤ 256)

/-- An engine number that its kind has (R2). -/
def engineOk (k : EngineKind) (n : BitVec 6) : Bool :=
  match k with
  | .tier => decide (n.toNat < 16)
  | .scrub => decide (n.toNat < 4)
  | _ => true

/-- An extent body: modes 0 to 2 exist (R137), codecs 0 to 4 (R209). -/
def extBodyOk (b : ExtBody) : Bool := decide (b.mode.toNat < 3) && decide (b.codec.toNat < 5)

/-- A warren specification: metrics 0 to 2 exist, and its runs hold its partitions (R264, R267). -/
def warrenOk (w : WarrenSpec) : Bool := decide (w.runs.length ≤ 1024)

/-- A fence body: actions and kinds of R425. -/
def fenceOk (b : FenceBody) : Bool := decide (b.by_.toNat < 3)

end Sys2Proof.WellFormed

namespace Sys2Proof

open Sys2Proof.WellFormed in
/-- Whether a term is a command. -/
def wellFormed (i : Instr) : Bool :=
  match i with
  | .rd a => frameOk [0x10] false a
  | .rdOwn a => frameOk [0x11] false a
  | .wr a => frameOk [0x14] false a
  | .wrAppend a => frameOk [0x15] false a
  | .binvCompletion a => frameOk [0x18] true a
  | .atFaddI32 a => frameOk [0x20] false a
  | .atFaddI64 a => frameOk [0x21] false a
  | .atFaddF32 a => frameOk [0x22] false a
  | .atFaddBf16 a => frameOk [0x23] false a
  | .atMin a => frameOk [0x24] false a
  | .atMax a => frameOk [0x25] false a
  | .atSwap a => frameOk [0x26] false a
  | .atCas64 a => frameOk [0x27] false a
  | .atCas128 a => frameOk [0x28] false a
  | .atAnd a => frameOk [0x29] false a
  | .atOr a => frameOk [0x2A] false a
  | .atXor a => frameOk [0x2B] false a
  | .combinedFetchAdd a => frameOk [0x20, 0x21, 0x22, 0x23] false a
  | .combineWindowClose _ => true
  | .combinedReply a => frameOk [0x10, 0x20, 0x21, 0x22, 0x23] true a
  | .cpStart a => frameOk [0x30] false a
  | .cpData a => frameOk [0x31] false a
  | .cpPieceComplete a => frameOk [0x31] true a
  | .ctrArm a => frameOk [0x32] false a
  | .ctrArmDeadline _ => true
  | .reContrib a => frameOk [0x40] false a
  | .chunkDeadline _ => true
  | .chunkRecordExpiry _ => true
  | .engineQueueRoom kind engine => engineOk kind engine
  | .reResult a => frameOk [0x41] false a
  | .reCmd a => frameOk [0x42] false a
  | .seSearch a => frameOk [0x48] false a
  | .warrenInsert a => frameOk [0x48] false a
  | .warrenDelete a => frameOk [0x48] false a
  | .partitionScanStart _ => true
  | .partitionScanEnd _ => true
  | .warrenUpdateTimeout _ => true
  | .harvestStart _ _ _ => true
  | .harvestCopyEnd _ => true
  | .harvestOldRelease _ => true
  | .harvestFault _ => true
  | .seAttn a => frameOk [0x49] false a
  | .kvCreate a => frameOk [0x49] false a
  | .kvFork a => frameOk [0x49] false a
  | .kvTruncate a => frameOk [0x49] false a
  | .kvTruncateApply _ => true
  | .kvRelease a => frameOk [0x49] false a
  | .kvScanStart _ => true
  | .kvScanEnd _ => true
  | .kvHeldTimeout _ => true
  | .sePartial a => frameOk [0x4A] false a
  | .geGather a => frameOk [0x50] false a
  | .geScatter a => frameOk [0x51] false a
  | .geBag a => frameOk [0x52] false a
  | .geKvasm a => frameOk [0x53] false a
  | .geWalk a => frameOk [0x54] false a
  | .ecMemberArrival _ _ _ a => anyFrameOk a
  | .ecDecodeCycle _ _ => true
  | .eqxEcho _ _ => true
  | .eqxTree _ _ => true
  | .eqxStart _ _ => true
  | .equinoxDayZero _ => true
  | .equinoxPhaseAdvance => true
  | .equinoxPhaseTimeout _ => true
  | .runningFabricJoin _ _ _ => true
  | .chEntry a => frameOk [0x80] false a
  | .voteReq a => anyFrameOk a
  | .chVote a => frameOk [0x80] true a
  | .leaderNop => true
  | .electionTimeout => true
  | .candidateTimeout => true
  | .entryResend _ _ => true
  | .settleQueryTimeout _ => true
  | .dayBoundary => true
  | .funcDrainDeadline _ => true
  | .graceEnd _ => true
  | .softVerdictRepeat _ _ => true
  | .hbLost _ => true
  | .verdictResend _ => true
  | .heartbeat a => frameOk [0x81] false a
  | .faultReport a => frameOk [0x82] false a
  | .fenceDevice a => frameOk [0x85] false a
  | .lendNotice a => frameOk [0x84] false a
  | .lendDrainComplete _ => true
  | .lendDeadline _ => true
  | .completionReturn a => respOk a
  | .trayCompletion a => frameOk [0x10, 0x14] true a
  | .trayResend _ => true
  | .trayTimeout _ => true
  | .binvResend _ _ => true
  | .binvTimeout _ => true
  | .flaggedStoreTimeout _ => true
  | .noPathTimeout _ => true
  | .pathUpForward _ => true
  | .ledgerRecordExpiry _ _ => true
  | .allocationWaitTimeout _ => true
  | .t1FrameFree => true
  | .denMoveDecision _ _ _ _ _ => true
  | .t1FloorDemotion => true
  | .prefetchCursorAdvance _ => true
  | .moveStart _ => true
  | .movePassEnd _ => true
  | .moveSourceFree _ => true
  | .teQueueRoom _ => true
  | .publicationHashDone _ => true
  | .revocationDeadline _ _ => true
  | .revocationComplete _ _ => true
  | .scrubPageDone _ => true
  | .scrubItemDone => true
  | .sweepPageDone _ => true
  | .sweepComplete _ => true
  | .cellReceive _ cell => cellOk cell
  | .frameDepart _ => true
  | .ack _ _ => true
  | .nak _ _ => true
  | .credit _ _ _ => true
  | .release _ _ => true
  | .resend _ _ => true
  | .dayMarker _ _ _ => true
  | .spareReq _ _ _ _ => true
  | .spareAck _ _ _ _ => true
  | .spareSwitchGuard _ => true
  | .linkDown _ _ => true
  | .retxTimeout _ => true
  | .retxLimit _ => true
  | .linkSilenceTimeout _ => true
  | .resendRepeat _ _ => true
  | .tc6HoldExpiry _ _ => true
  | .cutThroughStallLimit _ => true
  | .laneHardTrigger _ => true
  | .laneSoftTrigger _ => true
  | .alignmentLoss => true
  | .settSample r => decide (r.stackTemps.length ≤ 16)
  | .throttleLower => true
  | .leakN => true
  | .denWatchdogExpiry core => decide (core.toNat < 48)
  | .channelRetire _ _ => true
  | .channelFailure _ _ => true
  | .stackLoss _ => true
  | .engineNoProgress kind engine => engineOk kind engine
  | .t0CarveError _ => true
  | .unitResetEnd kind engine => engineOk kind engine
  | .warmResetEnd => true
  | .packageResetEnd => true
  | .inputTurnOn => true
  | .railFail => true
  | .undervoltage => true
  | .overvoltage => true
  | .porN => true
  | .wakeN => true
  | .pwrEn _ => true
  | .s3RealignRetry _ => true
  | .keeperSign _ => true
  | .signTokenRefill => true
  | .bottomTreeBuilt => true
  | .entropyFail => true
  | .kpMboxCmd _ => true
  | .kpMboxDoneClear _ => true
  | .stWdogKick core => decide (core.toNat < 48)
  | .portRetrain _ => true
  | .stThreshWrite _ => true
  | .xbMirCtrlWrite _ => true
  | .xbMirRuleWrite _ _ _ => true
  | .skewAlarmClear => true
  | .registerWriteOther _ _ _ => true
  | .finugFrame _ => true
  | .finugAck _ _ => true
  | .finugRetxTimeout => true
  | .finugPortDown => true
  | .finugLaneLoss _ => true
  | .kxHello _ _ _ => true
  | .kxAccept _ _ _ => true
  | .kxClose _ => true
  | .handshakeTimeout _ => true
  | .sessionLifetimeEnd _ => true
  | .lxMsg _ _ _ _ => true
  | .regRead _ _ => true
  | .regWrite _ _ => true
  | .carveRead _ _ _ _ => true
  | .alBegin _ _ participants => decide (participants.length ≤ 1024)
  | .alStage _ _ _ => true
  | .alSeal _ => true
  | .alCommit _ _ _ => true
  | .almanacPrepare _ => true
  | .almanacCommitEntry _ _ => true
  | .almanacRollbackEntry _ _ => true
  | .alRollback _ _ => true
  | .txnTimeout => true
  | .txnVoteTimeout _ => true
  | .alRead _ _ _ _ => true
  | .extGrant _ _ body _ => extBodyOk body
  | .extTake _ _ body _ => extBodyOk body
  | .extMode _ _ body _ => extBodyOk body
  | .keyRevoke _ _ _ _ _ _ => true
  | .lendGrant _ _ _ _ _ => true
  | .pubRegion _ _ _ _ => true
  | .publish _ _ _ _ _ _ => true
  | .promote _ _ _ _ => true
  | .retire _ _ _ _ => true
  | .pinClear _ _ _ _ _ => true
  | .warrenCreate _ spec => warrenOk spec
  | .warrenDissolve _ _ _ => true
  | .harvest _ _ _ _ => true
  | .fence _ body _ => fenceOk body
  | .admission _ _ _ _ => true
  | .attest _ _ => true
  | .fwStage _ _ _ => true
  | .fwActivate _ => true
  | .fwCommit _ => true
  | .ownerEnrol _ _ => true
  | .ownerTransfer _ _ _ => true
  | .idRoll _ => true
  | .resetUnit _ kind engine => engineOk kind engine
  | .resetWarm _ => true
  | .resetPackage _ => true
  | .resetPowerOn _ => true
  | .enterS1 _ => true
  | .enterS3 _ => true
  | .leaveS1 _ => true
  | .subscribe _ _ _ _ => true
  | .unsubscribe _ _ => true
  | .telemetrySample _ => true
  | .linkUp _ _ t => t.credits.length == 7 && decide (t.order.length ≤ 8) && t.order.all (fun n => decide (n < 8))
  | .dayMarkerSend _ => true
  | .requestDeadline _ => true
  | .entropyTestsPass => true
  | .topTreeCacheRebuilt => true
  | .keeperRequestDone _ answer => decide (answer.length ≤ 65536)
  | .finugLaneLock _ => true

end Sys2Proof
end

