-- ==== Sys2Proof/Tests/Slice0.lean ====
section
/-! SUPPORT. The model's own tests: a term that is no command for each check of `wellFormed`; for each statement, by clause, a state and
operands that meet its hypotheses together (`wit_…`, named after the statement); and single steps whose results follow from the rule
that is cited (`test_…`). -/

namespace Sys2Proof.Tests

open Sys2Proof.Machine

set_option Elab.async false

/-! ## A small module -/

/-- An edge port of endpoint 0x100, composition 5, tenant 7. -/
def bindE : PortBind where
  fabric := false
  ep := 0x100
  comp := some 5
  tenant := 7
  lanes := 8
  primary := true
  edgeGcm := false
  credits := [1024, 1024, 1024, 1024, 100, 100, 100]
  spares := []

/-- A fabric port to module 2. -/
def bindF : PortBind := { bindE with fabric := true, ep := 2, comp := none, tenant := 0 }

/-- The entry of composition 5. -/
def comp5 : CompEntry where
  tenant := 7
  strict := false
  seed := 0
  retryDays := 4
  drainDays := 1024
  reMask := BitVec.allOnes 64
  seMask := BitVec.allOnes 64
  geMask := BitVec.allOnes 64
  reWeight := 1
  seWeight := 1
  geWeight := 1
  t0Grant := 4
  lendUse := false
  kvPool := []
  prefetch := none
  objects := []
  ovfFrames := 0
  funcEn := 0xFF
  edges := [0x100]

/-- Module 1 with the edge port as logical port 0 and the fabric port as logical port 8. -/
def alm1 : Almanac :=
  { Almanac.empty with
    self := 1
    ports := [(0, bindE), (8, bindF)]
    comps := [(5, comp5)]
    members := [1]
    topo := { modules := [(1, 0), (2, 0)], endpoints := [(0x100, { module := 1, port := 0, kind := 0, feed := 0, lanes := 8 })],
              links := [{ a := 1, portA := 8, b := 2, portB := 16 }] } }

/-- Extent 0 of composition 5, homed here as home extent 9, private. -/
def ext9 : HomeExt :=
  { comp := 5, tenant := 7, idx := 0, codec := 0, elem := 0, pages := [], lost := false, proAll := false, blocks := [], overflow := [], ovfArea := [] }

/-- The Extent Table entry of extent 0. -/
def entry9 : ExtEntry := { ExtEntry.none_ with home := 1, mode := 0, state := 1, writer := 0x100, homeExt := 9 }

/-- The module, running, both links up, key slot 3 given to composition 5. -/
def s0 : State :=
  { State.reset with
    alm := { State.reset.alm with cur := alm1 }
    ports := [(0, { PortSt.init with up := true }), (8, { PortSt.init with up := true })]
    kp := { State.reset.kp with slots := [(3, { KeySlot.init with state := 1, comp := 5, keys := [(0, 1)] })] }
    comps := [(5, { CompSt.init with keySlot := 3, ext := [(0, entry9)] })]
    home := { State.reset.home with exts := [(9, ext9)] } }

/-- The same at cycle 0 of a Day. -/
def atDay (d : Nat) (s : State) : State := s.setTime { s.time with day := d }

/-- A header from endpoint 0x100 to module 1. -/
def hdr (op : BitVec 8) (cls : BitVec 3) (len : BitVec 16) (addr : W64) : Header where
  version := 1
  cls := cls
  opcode := op
  flags := 0
  dest := 1
  src := 0x100
  comp := 5
  epoch := 0
  tenant := 7
  keySlot := 3
  keyGen := 0
  status := 0
  seq := 1
  length := len
  addr := addr
  etag := 0
  stepLo := 0
  tstamp := 0

/-- A frame without poison. -/
def frameOf (h : Header) (bs : List Byte) : Frame := { hdr := h, payload := bs, poisoned := false }

/-- Its arrival at a port. -/
def arr (p : PortNo) (h : Header) (bs : List Byte) : Arrival := { port := p, frame := frameOf h bs }

/-- Bytes of one value. -/
def filled (n : Nat) (b : Byte) : List Byte := List.replicate n b

/-- 64-bit words, the most significant byte of each first (R72). -/
def words (l : List Nat) : List Byte := l.flatMap (fun w => beBytes 8 w)

/-- A read of 64 bytes at 0x1000, and the request it is. -/
def rdA : Arrival := arr 8 (hdr 0x10 3 64 0x1000) []

/-- A store of 64 bytes at 0x1000. -/
def wrA : Arrival := arr 8 (hdr 0x14 4 64 0x1000) (filled 64 0xAB)

/-- A request frame of fabric port 8 as the port takes it. -/
def reqOf (s : State) (a : Arrival) (op : Nat) : Req := portReq s bindF a.port.toNat none (asRequest op a.frame)

/-- The state in which it is judged. -/
def marked (s : State) (a : Arrival) (op : Nat) : State := markSource (frameHeard s a.port.toNat (reqOf s a op).hdr) (reqOf s a op)

/-- The state in which it is served. -/
def served (s : State) (a : Arrival) (op : Nat) : State := freeReq (marked s a op) (reqOf s a op)

/-- What makes a request of a fabric port reach its home. -/
def good (s : State) (a : Arrival) (op : Nat) : Bool :=
  s.bind a.port.toNat == some bindF && (portLive s a.port.toNat && ((reqOf s a op).hdr.cls != 0 && ((reqOf s a op).rx == none
    && ((decide (op < 0x70) || !(reqOf s a op).poisoned) && ((earlyCheck (marked s a op) (reqOf s a op).edge (reqOf s a op).hdr).isNone
    && (!((reqOf s a op).edge && mergeFields (reqOf s a op)) && (reqOf s a op).hdr.dest == s.self))))))

/-- A request for which `good` holds reaches this module. -/
theorem reaches_of_good {s : State} {a : Arrival} {op : Nat} (h : good s a op = true) : Reaches s a op (served s a op) (reqOf s a op) := by
  rw [good, Bool.and_eq_true, Bool.and_eq_true, Bool.and_eq_true, Bool.and_eq_true, Bool.and_eq_true, Bool.and_eq_true, Bool.and_eq_true,
    beq_iff_eq, bne_iff_ne, beq_iff_eq, Bool.or_eq_true, decide_eq_true_iff, Bool.not_eq_true', Option.isNone_iff_eq_none, Bool.not_eq_true',
    beq_iff_eq] at h
  obtain ⟨hb, hl, hc, hx, hp, he, hm, hd⟩ := h
  exact ⟨bindF, hb, hl, hc, hx, hp, he, hm, rfl, .inl ⟨rfl, hd, rfl⟩⟩

/-- A frame without completion, as fabric port 8 takes it. -/
def taken (s : State) (p : Nat) (f : Frame) : Req := portReq s bindF p none f

/-- The state in which it is taken. -/
def landed (s : State) (p : Nat) (f : Frame) : State :=
  if (taken s p f).hdr.opcode = 0x41 then frameHeard s p (taken s p f).hdr else doneWith (frameHeard s p (taken s p f).hdr) (taken s p f)

/-- A frame of a live fabric port for this module lands. -/
theorem lands_of {s : State} {p : Nat} {f : Frame}
    (h : (s.bind p == some bindF && (portLive s p && (f.hdr.cls != 0 && (f.rx == none && ((decide (f.hdr.opcode.toNat < 0x70) || !f.poisoned)
      && (f.hdr.opcode == 0x41 || f.hdr.dest == s.self)))))) = true) : Lands s p f (landed s p f) (taken s p f) := by
  rw [Bool.and_eq_true, Bool.and_eq_true, Bool.and_eq_true, Bool.and_eq_true, Bool.and_eq_true, Bool.or_eq_true, Bool.or_eq_true, beq_iff_eq, bne_iff_ne,
    beq_iff_eq, decide_eq_true_iff, Bool.not_eq_true', beq_iff_eq, beq_iff_eq] at h
  obtain ⟨hb, hl, hc, hx, hp, hd⟩ := h
  exact ⟨bindF, hb, hl, rfl, hc, hx, hp, .inl rfl, hd.imp_right .inl, rfl⟩

/-- The state in which a completion for this module is taken. -/
def returned (s : State) (a : Arrival) : State :=
  doneWith (frameHeard s a.port.toNat (asCompletion a.frame).hdr) (portReq s bindF a.port.toNat none (asCompletion a.frame))

/-- A completion of a live fabric port for this module returns. -/
theorem returns_of {s : State} {a : Arrival}
    (h : (s.bind a.port.toNat == some bindF && (portLive s a.port.toNat && ((asCompletion a.frame).rx == none
      && (asCompletion a.frame).hdr.dest == s.self))) = true) : Returns s a (returned s a) (asCompletion a.frame) := by
  rw [Bool.and_eq_true, Bool.and_eq_true, Bool.and_eq_true, beq_iff_eq, beq_iff_eq, beq_iff_eq] at h
  obtain ⟨hb, hl, hx, hd⟩ := h
  exact ⟨bindF, hb, rfl, hl, rfl, hx, hd, rfl⟩

/-- Whether an outcome is a next state with a property. -/
def next (o : Out) (p : State → Bool) : Bool :=
  match o with
  | .next t => p t
  | _ => false

/-- A request as the home holds it. -/
def q0 : Req := reqOf s0 rdA 0x10

/-! ## Terms that are no commands -/

theorem test_wf_accepts : wellFormed (.rd rdA) = true ∧ wellFormed (.wr wrA) = true := by decide +kernel

/-- A frame row with another row's opcode. -/
theorem test_wf_opcode : wellFormed (.wr rdA) = false := by decide +kernel

/-- A request row with a completion. -/
theorem test_wf_direction : wellFormed (.rd { rdA with frame := asCompletion rdA.frame }) = false := by decide +kernel

/-- A frame of any opcode with a payload of more than 4,096 bytes (R69). -/
theorem test_wf_payload : wellFormed (.voteReq (arr 8 (hdr 0x80 1 0 0) (filled 4097 0))) = false
    ∧ wellFormed (.rd (arr 8 (hdr 0x10 3 0 0) (filled 4097 0))) = false := by decide +kernel

/-- A completion row with a request. -/
theorem test_wf_completion : wellFormed (.completionReturn rdA) = false := by decide +kernel

/-- A cell whose content is not what its envelope counts (R95). -/
theorem test_wf_cell :
    wellFormed (.cellReceive 8 { sof := true, eof := true, cls := 3, bytes := 64, lseq := 0, poison := false, pcrc := 0, ccrc := 0,
                                 content := filled 63 0 }) = false := by decide +kernel

/-- An engine that its kind does not have (R2): Tier engine 16, Scrub engine 4. -/
theorem test_wf_engine : wellFormed (.engineQueueRoom .tier 16) = false ∧ wellFormed (.engineNoProgress .scrub 4) = false
    ∧ wellFormed (.engineNoProgress .scrub 3) = true := by decide +kernel

/-- An extent body. -/
def extBody : ExtBody :=
  { extIdx := 0, home := 1, homeExt := 9, mode := 0, published := false, svc := false, writer := 0x100, codec := 0, elem := 0, keySlot := 3, keyGen := 0,
    newHome := 0, newHomeExt := 0 }

/-- Modes stop at 2 (R137), codecs at 4 (R209). -/
theorem test_wf_extent : wellFormed (.extGrant ⟨1, 1⟩ 5 extBody 4) = true ∧ wellFormed (.extGrant ⟨1, 1⟩ 5 { extBody with mode := 3 } 4) = false
    ∧ wellFormed (.extTake ⟨1, 1⟩ 5 { extBody with codec := 5 } 4) = false := by decide +kernel

/-- One partition in module 1. -/
def run1 : WarrenRun := { module := 1, extFirst := 1, firstPart := 0, parts := 1, spareA := 2, spareB := 3 }

/-- A warren of one partition: INT8, L2, dimension 16. -/
def spec1 : WarrenSpec :=
  { warren := 1, comp := 5, fmt := 5, metric := 0, dim := 16, attr := 0, pTotal := 1, cap := 64, side := 16, harvestFill := 4, runs := [run1] }

/-- At most 1,024 runs (R264). -/
theorem test_wf_warren : wellFormed (.warrenCreate ⟨1, 1⟩ spec1) = true
    ∧ wellFormed (.warrenCreate ⟨1, 1⟩ { spec1 with runs := List.replicate 1025 run1 }) = false := by decide +kernel

/-- A fence of endpoint 0x100. -/
def fence1 : FenceBody :=
  { subject := 0x100, port := 0, kind := 2, action := 0, cls := 4, by_ := 1, spare := 0, comp := 5, witnesses := 1, element := 0x100, elemPort := 0,
    elemKind := 2, faultDay := 0 }

/-- Who ordered a fence: 0 to 2 (R425). -/
theorem test_wf_fence : wellFormed (.fence ⟨1, 1⟩ fence1 4) = true ∧ wellFormed (.fence ⟨1, 1⟩ { fence1 with by_ := 3 } 4) = false := by decide +kernel

/-- A sample of the Sett. -/
def sample0 : SettReading := { junction := [40, 40], stackTemps := [40], powerW := 500, currentMA := 10000, voltageMV := 54000, wakeLow := false }

/-- At most 16 stacks (R2), 48 cores, participants of section 0x01, and an answer of 65,536 bytes at most. -/
theorem test_wf_counts : wellFormed (.settSample sample0) = true ∧ wellFormed (.settSample { sample0 with stackTemps := List.replicate 17 40 }) = false
    ∧ wellFormed (.stWdogKick 48) = false ∧ wellFormed (.denWatchdogExpiry 48) = false ∧ wellFormed (.stWdogKick 47) = true
    ∧ wellFormed (.alBegin ⟨1, 1⟩ 1 (List.replicate 1025 1)) = false := by decide +kernel

theorem test_wf_answer : wellFormed (.keeperRequestDone 0 (filled 65537 0)) = false := by
  show decide ((List.replicate 65537 (0 : Byte)).length ≤ 65536) = false
  rw [List.length_replicate]
  decide

/-! ## Trays, lenders, back-invalidates and requests that wait -/

/-- A read of a page in the tray of endpoint 0x300, out since Day 0. -/
def fetch0 : Fetch where
  why := .read q0
  frame := frameOf { hdr 0x10 3 64 0x1000 with src := 1, dest := 0x300, comp := 0, seq := 9 } []
  loc := .t2 0x300 0
  codec := 0
  tag := BlockTag.init
  ep := 0x300
  homeExt := 9
  page := 0
  firstDay := 0
  lastDay := 0

/-- A back-invalidate of endpoint 0x101, out since Day 0. -/
def binv0 : BinvSt := { await := [0x101], firstDay := 0, lastDay := 0, comp := 5, evict := false }

/-- The module with a frame out to a tray and a line being taken back, on a Day. -/
def sWait (d : Nat) : State := atDay d (s0.setHome { s0.home with fetches := [(4, fetch0)], binv := [(9 * 2 ^ 23, binv0)] })

theorem wit_SilentPeersAskedAgain_tray : (sWait 64).running = true ∧ KMap.find (sWait 64).home.fetches 4 = some fetch0
    ∧ fetch0.lastDay + 64 ≤ (sWait 64).day := by decide +kernel

theorem wit_SilentPeersAskedAgain_line : (sWait 64).running = true ∧ KMap.find (sWait 64).home.binv (9 * 2 ^ 23) = some binv0 ∧ 0x101#16 ∈ binv0.await
    ∧ binv0.lastDay + 64 ≤ (sWait 64).day ∧ (sWait 64).day < binv0.firstDay + 1024 := by decide +kernel

theorem wit_SilentPeersTimeOut_tray : (sWait 192).running = true ∧ KMap.find (sWait 192).home.fetches 4 = some fetch0
    ∧ fetch0.firstDay + 192 ≤ (sWait 192).day ∧ fetch0.why = .read q0 := by decide +kernel

theorem wit_SilentPeersTimeOut_line : (sWait 1024).running = true ∧ KMap.find (sWait 1024).home.binv (9 * 2 ^ 23) = some binv0
    ∧ binv0.firstDay + 1024 ≤ (sWait 1024).day ∧ (sWait 1024).home.held = [] ∧ (sWait 1024).eng.searches = [] ∧ (sWait 1024).eng.attns = [] := by decide +kernel

/-- R191: after 64 Days the frame goes again, with `RETRY`, and waits from that Day. -/
theorem test_tray_resend : next (exec (.trayResend 4) (sWait 64)) (fun t => (KMap.find t.home.fetches 4).map (·.lastDay) == some 64)
    = true := by decide +kernel

/-- R191: after 63 Days it does not. -/
theorem test_tray_resend_early : next (exec (.trayResend 4) (sWait 63)) (fun t => (KMap.find t.home.fetches 4).map (·.lastDay) == some 0)
    = true := by decide +kernel

/-- A flagged store held at the first hop, a request without a path, an armed wait and a request that waits for a frame of T1. -/
def sHeld (d : Nat) : State :=
  atDay d { s0 with
    xb := { s0.xb with
      flagged := [(1, { req := q0, home := 2, flagged := true, before := [], day := 0 })]
      waiting := [(2, { req := { q0 with hdr := { q0.hdr with dest := 3 } }, dest := 3, day := 0, moving := false })] }
    home := { s0.home with
      waits := [(3, { req := q0, counter := 9 * 2 ^ 30 + 0x2000, target := 7, wake := 0, deadline := 16 })]
      held := [(4, { req := q0, why := .alloc, homeExt := 9, page := 0, day := 0 })]
      ledger := [(pairKey 0x100 5, { op := 0x21, status := 0, day := 0, result := [] })] } }

theorem wit_WaitsEnd_flagged : ∃ f : FlagHeld, (sHeld 4096).running = true ∧ KMap.find (sHeld 4096).xb.flagged 1 = some f ∧ f.flagged = true
    ∧ f.day + 4096 ≤ (sHeld 4096).day := ⟨_, by decide +kernel, rfl, by decide +kernel, by decide +kernel⟩

theorem wit_WaitsEnd_path : ∃ w : PathWait, (sHeld 64).running = true ∧ KMap.find (sHeld 64).xb.waiting 2 = some w ∧ w.day + 64 ≤ (sHeld 64).day
    ∧ nextPort (sHeld 64) w.req.hdr.src w.req.hdr.dest w.req.hdr.cls = none ∧ w.req.hdr.isResp = false ∧ w.req.hdr.src ≠ (sHeld 64).self :=
  ⟨_, by decide +kernel, rfl, by decide +kernel, by decide +kernel, by decide +kernel, by decide +kernel⟩

theorem wit_WaitsEnd_armed : ∃ w : ArmedWait, KMap.find (sHeld 16).home.waits 3 = some w ∧ w.deadline ≤ (sHeld 16).day :=
  ⟨_, rfl, by decide +kernel⟩

/-- The same with no stack answering: no frame of T1 is free. -/
def sNoFrame : State := (sHeld 1024).setEqx { (sHeld 1024).eqx with stacksDown := List.range 16 }

theorem wit_WaitsEnd_alloc : ∃ h : HeldReq, sNoFrame.running = true ∧ sNoFrame.home.held = [(4, h)] ∧ h.why = .alloc ∧ h.day + 1024 ≤ sNoFrame.day
    ∧ moveOf sNoFrame h.homeExt h.page = none ∧ allocFrames sNoFrame (moveUnits (sNoFrame.extCodec h.homeExt).1) = none :=
  ⟨_, by decide +kernel, rfl, rfl, by decide +kernel, by decide +kernel, by decide +kernel⟩

theorem wit_WaitsEnd_ledger : ∃ l : LedgerRec, (sHeld 8192).running = true ∧ KMap.find (sHeld 8192).home.ledger (pairKey 0x100 5) = some l
    ∧ l.day + 8192 ≤ (sHeld 8192).day ∧ markOf (sHeld 8192) 0x100 = none :=
  ⟨{ op := 0x21, status := 0, day := 0, result := [] }, by decide +kernel⟩

/-- R166: the record goes and its `SEQ` is the expired mark. -/
theorem test_ledger_expiry : next (exec (.ledgerRecordExpiry 0x100 5) (sHeld 8192)) (fun t => t.home.ledger.isEmpty && markOf t 0x100 == some (.at_ 5))
    = true := by decide +kernel

/-- A request for module 2 that waited for a path, with the link up. -/
def qPath : Req := { q0 with hdr := { q0.hdr with dest := 2, flags := 0x80 } }

/-- The module with only that request waiting. -/
def sPath : State := s0.setXb { s0.xb with waiting := [(2, { req := qPath, dest := 2, day := 0, moving := false })] }

theorem wit_WaitsEnd_pathUp : ∃ (w : PathWait) (p : Nat), sPath.running = true ∧ sPath.xb.waiting = [(2, w)] ∧ w.req.edge = false ∧ w.req.hdr.cls ≠ 0
    ∧ w.req.hdr.isResp = false ∧ w.req.hdr.noCombine = true ∧ sPath.xb.combine = []
    ∧ nextPort sPath w.req.hdr.src w.req.hdr.dest w.req.hdr.cls = some p :=
  ⟨_, 8, by decide +kernel, rfl, by decide +kernel⟩

/-- R506: it is in the output queue of the link and waits no more. -/
theorem test_path_up : next (exec (.pathUpForward 2) sPath) (fun t => t.xb.waiting.isEmpty && t.xb.queue.length == 1) = true := by decide +kernel

/-! ## Tiers, lends, scrubs, sweeps, revocations and publications -/

/-- A lend of module 2, its notice given on Day 0. -/
def lend0 : Lend := { lender := 2, base := 0, pages := 16, notice := some 0, used := [], ended := false }

/-- The module with that lend as lend 7. -/
def sLend (d : Nat) : State := atDay d (s0.setHome { s0.home with lends := [(7, lend0)] })

theorem wit_LendsEnd_drained : (sLend 1).running = true ∧ KMap.find (sLend 1).home.lends (7#8).toNat = some lend0 ∧ lend0.ended = false
    ∧ lend0.notice.isSome = true ∧ pagesAt (sLend 1) (inLend (7#8).toNat) = [] ∧ fetchesIn (sLend 1) lend0 = [] ∧ (sLend 1).home.olds = [] := by
  decide +kernel

theorem wit_LendsEnd_deadline : (sLend 65536).running = true ∧ KMap.find (sLend 65536).home.lends (7#8).toNat = some lend0 ∧ lend0.ended = false
    ∧ lend0.notice = some 0 ∧ 0 + 65536 ≤ (sLend 65536).day ∧ pagesAt (sLend 65536) (inLend (7#8).toNat) = []
    ∧ fetchesIn (sLend 65536) lend0 = [] := by decide +kernel

/-- R208: on the Day before the deadline the lend stays; on it, it ends. -/
theorem test_lend_deadline :
    next (exec (.lendDeadline 7) (sLend 65535)) (fun t => (KMap.find t.home.lends 7).any (fun l => !l.ended)) = true
    ∧ next (exec (.lendDeadline 7) (sLend 65536)) (fun t => (KMap.find t.home.lends 7).all (·.ended)) = true := by decide +kernel

/-- A page of extent 9 in frame 5 of stack 2. -/
def pteT1 : Pte := { Pte.init with loc := .t1 2 5, state := .resident }

/-- The module with page 0 of extent 9 resident in T1. -/
def sPage (p : Pte) : State := s0.setHome { s0.home with exts := [(9, { ext9 with pages := [(0, p)] })], usedT1 := [(2, [5])] }

theorem wit_MovesAreOrdered_den : (sPage pteT1).running = true ∧ ((sPage pteT1).homeExt (9#20).toNat).isSome = true ∧ (Tier.t0 ≠ Tier.t2) := by decide +kernel

/-- A promotion of page 0 that waits for a frame. -/
def order0 : MoveOrder := { homeExt := 9, page := 0, dest := .t1, ep := 0, trayPage := 0, kind := .promote }

/-- The module with that order. -/
def sOrder : State := s0.setHome { s0.home with orders := [(3, order0)] }

theorem wit_MovesAreOrdered_frame : sOrder.running = true ∧ sOrder.home.orders = [(3, order0)] ∧ order0.kind = .promote := by decide +kernel

/-- The module with few frames free: its floor is above what it has. -/
def sShort : State :=
  let s := sPage pteT1
  s.setAlm { s.alm with cur := { s.alm.cur with settings := { s.alm.cur.settings with t1FreeFloor := 2 ^ 40 } } }

theorem wit_MovesAreOrdered_floor : ∃ x : HomeExt, sShort.running = true ∧ sShort.home.exts = [(9, x)] ∧ x.pages = [(0, pteT1)]
    ∧ pteT1.state = .resident ∧ pteT1.loc.tier = .t1 ∧ pteT1.pin = false ∧ pteT1.written = false ∧ pteT1.anchor = false ∧ pteT1.hold = 0
    ∧ isF pteT1.codec.toNat = false ∧ sShort.home.orders = []
    ∧ freeFrames sShort < sShort.alm.cur.settings.t1FreeFloor ∧ pickLend sShort x.comp (moveUnits (sShort.pte 9 0).codec.toNat) = none :=
  ⟨{ ext9 with pages := [(0, pteT1)] }, by decide +kernel⟩

theorem wit_MovesRun_start : sOrder.running = true ∧ sOrder.home.orders = [(3, order0)] := by decide +kernel

/-- A move of page 0 to frame 9, with `n` lines written during its pass. -/
def move0 (n passes : Nat) : MoveRec where
  homeExt := 9
  page := 0
  src := .t1 2 5
  dst := .t0 0 0
  dirty := List.range n
  passes := passes
  holding := false
  kind := .den
  copied := []

/-- The module with that move open. -/
def sMove (n passes : Nat) : State :=
  let s := sPage { pteT1 with state := .moving, move := 6 }
  s.setHome { s.home with moves := [(6, move0 n passes)] }

theorem wit_MovesRun_pass : ∀ n ∈ [32, 33], (sMove n 2).running = true ∧ KMap.find (sMove n 2).home.moves 6 = some (move0 n 2)
    ∧ (moveGroup (sMove n 2) (move0 n 2)).any (fun x => moveWaits (sMove n 2) x.1) = false
    ∧ ((move0 n 2).src.lower = false ∨ (move0 n 2).dst.lower = false ∨ (move0 n 2).passes ≠ 0) := by decide +kernel

/-- R185: 33 dirty lines ask for another pass. -/
theorem test_move_pass : next (exec (.movePassEnd 6) (sMove 33 2)) (fun t => (KMap.find t.home.moves 6).map (fun m => (m.passes, m.dirty)) == some (3, []))
    = true := by decide +kernel

/-- A source with no access left. -/
def old0 : OldSource := { loc := .t1 2 5, units := 1, accesses := 0 }

/-- The module with that source. -/
def sOld : State := s0.setHome { s0.home with olds := [(4, old0)], usedT1 := [(2, [5])] }

theorem wit_MovesRun_free : sOld.running = true ∧ KMap.find sOld.home.olds 4 = some old0 ∧ old0.accesses = 0 := by decide +kernel

/-- R186: its frame is free again. -/
theorem test_source_free : next (exec (.moveSourceFree 4) sOld) (fun t => t.home.olds.isEmpty && (usedFrames t 2).isEmpty) = true := by decide +kernel

/-- A calendar entry of one page, page 0, of target tier T1 (R192). -/
def entry0 : W64 × W64 := (0, 0x0001000000000000)

/-- A calendar of one page of extent 0, with no lead. -/
def calendar0 : Prefetch := { cursorGfa := 0, lead := 0, keep := 0, entries := [entry0] }

/-- The module with that calendar, its cursor at 0, and the page in T1. -/
def sPrefetch : State :=
  let s := sPage pteT1
  (s.setAlm { s.alm with cur := { s.alm.cur with comps := [(5, { comp5 with prefetch := some calendar0 })] } }).setHome
    { s.home with cursor := [(5, [0])] }

/-- The same with the cursor's value taken. -/
def sTaken : State := sPrefetch.setHome { sPrefetch.home with cursor := [(5, [])] }

theorem wit_TierQueuesAdvance : sPrefetch.running = true ∧ (sPrefetch.compEntry 5).bind (·.prefetch) = some calendar0
    ∧ KMap.find sPrefetch.home.cursor (5#12).toNat = some (0 :: []) ∧ calendar0.entries = [entry0] ∧ calendar0.lead = 0 ∧ calendar0.keep = 0
    ∧ prefetchPages sPrefetch 5 (pfEntry entry0) = [(9, 0)]
    ∧ ((sTaken.updPte 9 0 (fun x => { x with pin := true })).pte 9 0).state = .resident
    ∧ ((sTaken.updPte 9 0 (fun x => { x with pin := true })).pte 9 0).loc.tier = (if (pfEntry entry0).2.2 then .t0 else .t1) := by decide +kernel

/-- A scrub of pages of extent 9. -/
def item0 (k : ScrubKind) (pages : List Nat) : ScrubItem :=
  { kind := k, homeExt := 9, comp := 5, idx := 0, pages := pages, trayFrames := 0, begun := true }

/-- The module with that scrub. -/
def sScrub (k : ScrubKind) (pages : List Nat) : State := (sPage pteT1).setScrub [(2, item0 k pages)]

theorem wit_ScrubsProceed_page : (sScrub .extent [0]).running = true ∧ firstItem (sScrub .extent [0]) = some (2, item0 .extent [0])
    ∧ (item0 .extent [0]).begun = true ∧ (item0 .extent [0]).pages = 0 :: [] ∧ (sScrub .extent [0]).home.fetches = []
    ∧ (sScrub .extent [0]).power.step < 3 ∧ ((sScrub .extent [0]).engine .scrub (3#2).toNat).state = .service := by decide +kernel

theorem wit_ScrubsProceed_item : ∀ k ∈ [ScrubKind.keyLost, .extent], (sScrub k []).running = true ∧ firstItem (sScrub k []) = some (2, item0 k [])
    ∧ (item0 k []).pages = [] ∧ (item0 k []).trayFrames = 0 ∧ (sScrub k []).home.fetches = [] ∧ (item0 k []).kind = k := by decide +kernel

/-- R403: the page is unmapped, its frame free, and the engine has counted it. -/
theorem test_scrub_page : next (exec (.scrubPageDone 3) (sScrub .extent [0])) (fun t => (t.pte 9 0).state == .unmapped && (usedFrames t 2).isEmpty
    && (t.engine .scrub 3).c0 == 1) = true := by decide +kernel

/-- Slot 3 under rotation to generation 1, extent 9 with one page ahead of the watermark. -/
def slot3 : KeySlot := { KeySlot.init with state := 2, gen := 1, comp := 5, keys := [(0, 1), (1, 2)] }

/-- Its sweep. -/
def sweep0 (l : List (Nat × Nat)) : Sweep := { pagesLeft := l, rewriting := none, dest := none }

/-- The module with that sweep. -/
def sSweep (mapped : Bool) : State :=
  let s := if mapped then sPage pteT1 else s0
  (s.setKp { s.kp with slots := [(3, slot3)] }).setSweeps [(3, sweep0 (if mapped then [(9, 0)] else []))]

theorem wit_SweepsProceed_page : (sSweep true).running = true ∧ KMap.find (sSweep true).sweeps (3#10).toNat = some (sweep0 [(9, 0)])
    ∧ KMap.find (sSweep true).kp.slots (3#10).toNat = some slot3 ∧ (sSweep true).scrub = [] ∧ (sSweep true).power.step < 3
    ∧ pagesAhead (sSweep true) slot3 = (9, 0) :: [] ∧ ((sSweep true).pte 9 0).state = .resident ∧ ((sSweep true).pte 9 0).loc = .t1 2 5
    ∧ isF ((sSweep true).pte 9 0).codec.toNat = false ∧ freeRunFrom (sSweep true) 2 1 (frameFuel (sSweep true) 2 1) 0 = some 0 := by decide +kernel

theorem wit_SweepsProceed_done : (sSweep false).running = true ∧ KMap.find (sSweep false).sweeps (3#10).toNat = some (sweep0 [])
    ∧ KMap.find (sSweep false).kp.slots (3#10).toNat = some slot3 ∧ pagesAhead (sSweep false) slot3 = [] := by decide +kernel

/-- R401: at the end of the sweep only the newest generation is held. -/
theorem test_sweep_end : next (exec (.sweepComplete 3) (sSweep false)) (fun t => t.sweeps.isEmpty
    && (KMap.find t.kp.slots 3).map (fun k => (k.state, k.keys)) == some (1, [(1, 2)])) = true := by decide +kernel

/-- Extent 0 of composition 5 revoked on Day 0. -/
def rev0 : RevSt := { notice := 0, revDay := 0, home := 1, homeExt := 9, newHome := 0, scrubbing := false, stopped := false }

/-- The module at the deadline of that revocation. -/
def sRev : State := atDay 4096 (s0.updComp 5 (fun x => { x with rev := [(0, rev0)] }))

theorem wit_RevocationsAndPublicationsProceed_rev : sRev.running = true ∧ KMap.find (sRev.comp 5).rev (0#20).toNat = some rev0 ∧ rev0.home = sRev.self
    ∧ rev0.revDay + 4096 ≤ sRev.day ∧ rev0.stopped = false ∧ sRev.homeExt rev0.homeExt = some ext9 ∧ rev0.scrubbing = false
    ∧ inFlight sRev 5 (0#20).toNat = 0 := by decide +kernel

/-- A frozen version of region 2 in extent 0. -/
def pub0 : Publication := { comp := 5, region := 2, version := 1, base := 0, extents := 1, slot := 0, hashed := false, hash := 0 }

/-- The module with that version. -/
def sPub : State := s0.setHome { s0.home with pubs := [(8, pub0)] }

theorem wit_RevocationsAndPublicationsProceed_pub : sPub.running = true ∧ KMap.find sPub.home.pubs 8 = some pub0 ∧ pub0.hashed = false
    ∧ storesLeft sPub pub0 = false ∧ blocksToHash sPub pub0 = [] ∧ (ownExtent sPub pub0.comp (pub0.base / 2 ^ 30)).isSome = true := by decide +kernel

/-! ## Sessions, resets and the Sett -/

/-- An open session that has taken commands up to 4. -/
def session0 : Session where
  ident := 1
  kCmd := [1]
  kRsp := [2]
  lastSeq := 4
  discards := 0
  commands := 4
  openDay := 0
  unanswered := []
  streams := 0
  rateLog2 := 0
  samples := []

/-- Its next command. -/
def cmd5 : CmdRef := ⟨1, 5⟩

/-- The module with that session as session 1, its identity good. -/
def sSess : State := s0.setKp { s0.kp with sessions := [(1, session0)], idOk := true }

theorem wit_Accepts : Accepts sSess cmd5 session0 := ⟨by decide +kernel, rfl, by decide +kernel, by decide +kernel, by decide +kernel⟩

/-- R392: a number that is not above every one accepted is discarded, and so is the sixty-fifth command without an answer. -/
theorem test_command_old : next (exec (.subscribe ⟨1, 4⟩ 1 0 []) sSess) (fun t => (KMap.find t.kp.sessions 1).any (fun x => x.streams == 0)) = true
    ∧ next (exec (.subscribe ⟨1, 5⟩ 1 0 []) sSess) (fun t => (KMap.find t.kp.sessions 1).any (fun x => x.streams == 1 && x.lastSeq == 5)) = true := by
  decide +kernel

theorem wit_ResetsAreOrdered : sSess.running = true ∧ enginePresent sSess .reduce (63#6).toNat = true ∧ (sSess.engine .reduce (63#6).toNat).state = .service
    ∧ KMap.find sSess.rst.units (engKey .reduce (63#6).toNat) = none ∧ (511#9).toNat < slicesOf sSess.variant ∧ sSess.rst.order = none := by
  decide +kernel

/-- R2: IXA-9608-F has 256 slices, so that the carve of slice 256 is absent there. -/
theorem test_slices : (exec (.t0CarveError 255) { s0 with variant := .f9608 } |> fun o => next o (fun t => t.rst.order == some .package)) = true
    ∧ (exec (.t0CarveError 256) { s0 with variant := .f9608 } |> fun o => next o (fun t => t.rst.order == none)) = true := by decide +kernel

/-- Reduce engine 0 held since Day 0, after `n` resets in the Week. -/
def sUnit (n d : Nat) : State :=
  let s := atDay d s0
  (s.setRst { s.rst with units := [(engKey .reduce 0, (0, none))] }).updEngine .reduce 0 (fun e => { e with state := .held, weekResets := n })

theorem wit_ResetsEnd_unit : (sUnit 2 17).running = true ∧ KMap.find (sUnit 2 17).rst.units (engKey .reduce (0#6).toNat) = some (0, none)
    ∧ 0 + 17 ≤ (sUnit 2 17).day ∧ ((sUnit 2 17).engine .reduce (0#6).toNat).state = .held ∧ (sUnit 2 17).eng.chunks = [] := by decide +kernel

/-- R495: the reset ends no sooner, and the third of a Week retires the engine. -/
theorem test_unit_reset :
    next (exec (.unitResetEnd .reduce 0) (sUnit 2 16)) (fun t => (t.engine .reduce 0).state == .held) = true
    ∧ next (exec (.unitResetEnd .reduce 0) (sUnit 2 17)) (fun t => (t.engine .reduce 0).state == .service) = true
    ∧ next (exec (.unitResetEnd .reduce 0) (sUnit 3 17)) (fun t => (t.engine .reduce 0).state == .retired) = true := by decide +kernel

/-- The module in a reset of a class that ends on Day 10. -/
def sReset (c : ResetClass) : State := atDay 10 (s0.setRst { s0.rst with running := some (c, 10) })

theorem wit_ResetsEnd_dies : ∀ c ∈ [ResetClass.warm, .package], (sReset c).rst.running = some (c, 10) ∧ 10 ≤ (sReset c).day := by decide +kernel

/-- R496: after a warm reset the module runs and holds itself fenced. -/
theorem test_warm_end : next (exec .warmResetEnd (sReset .warm)) (fun t => t.running && t.rst.selfFenced) = true := by decide +kernel

theorem wit_ThrottleFollowsSamples_sample : s0.power.inputOn = true ∧ (takeSample s0.power sample0).tMax < 110 ∧ sample0.wakeLow = false := by decide +kernel

/-- The module at a throttle step after some good samples. -/
def sThrottle (step ok : Nat) : State := s0.setPower { s0.power with step := step, okSamples := ok }

theorem wit_ThrottleFollowsSamples_lower : (sThrottle 1 100).power.inputOn = true ∧ 100 ≤ (sThrottle 1 100).power.okSamples
    ∧ 0 < (sThrottle 1 100).power.step := by decide +kernel

/-- R488: a full millisecond, 100 samples, lowers the step by one; 99 do not. -/
theorem test_throttle_lower : next (exec .throttleLower (sThrottle 2 100)) (fun t => t.power.step == 1) = true
    ∧ next (exec .throttleLower (sThrottle 2 99)) (fun t => t.power.step == 2) = true := by decide +kernel

/-- R488: a raw current above 2,000 W at the input voltage sets step 4 at once. -/
theorem test_throttle_current :
    next (exec (.settSample { sample0 with currentMA := 37037 }) s0) (fun t => t.power.step == 0) = true
    ∧ next (exec (.settSample { sample0 with currentMA := 37038 }) s0) (fun t => t.power.step == 4) = true := by decide +kernel

theorem wit_ShutdownsCutPower : s0.power.inputOn = true ∧ railsUp s0 = true := by decide +kernel

/-- The module with power in a state and its pins as given. -/
def sPower (p : PowerState) (inputOn pwrEn : Bool) : State := s0.setPower { s0.power with pstate := p, inputOn := inputOn, pwrEn := pwrEn }

theorem wit_PowerUpEndsInP0 : (sPower .off false true).power.inputOn = false ∧ (sPower .off false true).power.pwrEn = true
    ∧ s0.power.inputOn = true ∧ s0.power.pwrEn = true
    ∧ (sPower .s1 true true).power.inputOn = true ∧ (sPower .s1 true true).power.pstate = .s1
    ∧ (sPower .s3 true true).power.inputOn = true ∧ (sPower .s3 true true).power.pstate = .s3 ∧ (sPower .s3 true true).power.pwrEn = true
    ∧ (sPower .s3 true false).power.inputOn = true ∧ (sPower .s3 true false).power.pstate = .s3 ∧ (sPower .s3 true false).power.pwrEn = false := by
  decide +kernel

/-- The module with the session, holding itself fenced, in a power state. -/
def sFenced (p : PowerState) : State := (sSess.setRst { sSess.rst with selfFenced := true }).setPower { sSess.power with pstate := p }

theorem wit_PowerCommandsAct : Accepts (sFenced .p0) cmd5 session0 ∧ fencedSelf (sFenced .p0) = true ∧ (sFenced .p0).power.pstate = .p0
    ∧ Accepts (sFenced .s1) cmd5 session0 ∧ (sFenced .s1).power.pstate = .s1 :=
  ⟨⟨by decide +kernel, rfl, by decide +kernel, by decide +kernel, by decide +kernel⟩, by decide +kernel, by decide +kernel,
   ⟨by decide +kernel, rfl, by decide +kernel, by decide +kernel, by decide +kernel⟩, by decide +kernel⟩

/-- The module without a granted extent, core 47 of the Den up. -/
def sCore (d : Nat) : State := atDay d ((s0.setHome { s0.home with exts := [] }).setDen { s0.den with coreUp := BitVec.allOnes 48 })

theorem wit_FailingPartsAreReported_stack : (sCore 0).running = true ∧ (15#4).toNat ∈ stacksOf (sCore 0).variant
    ∧ KMap.find (sCore 0).home.stackSt (15#4).toNat = none ∧ stackOut (sCore 0) (15#4).toNat = false ∧ (sCore 0).home.exts = [] := by
  decide +kernel

theorem wit_FailingPartsAreReported_core : (sCore 256).running = true ∧ (47#6).toNat < 48 ∧ (sCore 256).den.coreUp.getLsbD (47#6).toNat = true
    ∧ KMap.getD (sCore 256).den.lastKick (47#6).toNat 0 + 256 ≤ (sCore 256).day ∧ KMap.getD (sCore 256).den.weekExpiries (47#6).toNat 0 = 0
    ∧ 24 ≤ coresLeft (sCore 256).den := by decide +kernel

/-- R413: a failed channel is noted on its stack. -/
theorem test_channel_failure : next (exec (.channelFailure 15 31) s0) (fun t => (KMap.find t.home.stackSt 15).map (·.failed) == some 0x80000000)
    = true := by decide +kernel

theorem wit_RegisterWritesAct : s0.running = true ∧ s0.bind (0#9).toNat = some bindE ∧ bindE.fabric = false ∧ (s0.port (0#9).toNat).up = true
    ∧ (47#6).toNat < 48 ∧ (sCore 0).running = true ∧ (sCore 0).den.coreUp.getLsbD (47#6).toNat = true := by decide +kernel

/-- R479: thresholds outside their ranges take the nearer bound. -/
theorem test_thresholds : next (exec (.stThreshWrite 0) s0) (fun t => t.power.tThrottle == 85 && t.power.pLimit == 600) = true
    ∧ next (exec (.stThreshWrite 0xFFFFFFFFFFFFFFFF) s0) (fun t => t.power.tThrottle == 105 && t.power.pLimit == 1800) = true := by decide +kernel

theorem wit_RegisterCommandsAreAdmitted : Accepts sSess cmd5 session0 ∧ ([0x0F0000A00000#48] : List (BitVec 48)).length ≤ 512
    ∧ (∀ a ∈ ([0x0F0000A00000#48] : List (BitVec 48)), inWindow a.toNat = true) ∧ (65536#17).toNat ≤ 65536
    ∧ (16711680#24).toNat + (65536#17).toNat ≤ 2 ^ 24 ∧ (511#9).toNat < slicesOf sSess.variant := by
  refine ⟨wit_Accepts, by decide, ?_, by decide +kernel⟩
  intro a h
  rw [List.mem_singleton] at h
  subst h
  decide +kernel

/-- R3: the capability block of IXA-9616-F, read at its addresses. -/
theorem test_capabilities : readReg s0 0x0F0000A00000 = 0x1001810204240C00 ∧ readReg s0 0x0F0000A00008 = 0x0000818480200000 := by decide +kernel

/-! ## The Day, the Equinox and links -/

theorem wit_DaysAndMarkers_off : (sReset .warm).power.inputOn = true ∧ (sReset .warm).running = false ∧ (sReset .warm).fn.reads = [] := by decide +kernel

theorem wit_DaysAndMarkers_day : s0.power.inputOn = true ∧ s0.running = true ∧ s0.fn.reads = [] ∧ s0.rst.units = [] ∧ s0.rst.order = none := by
  decide +kernel

/-- Port 8 leads to the timing parent; 16 Days beyond 4 cycles. -/
def sTime : State :=
  (s0.setEqx { s0.eqx with parent := some 8 }).setTime { s0.time with aligned := true, hasCount := true, over4 := 16, freeRun := true }

theorem wit_DaysAndMarkers_marker : (sTime.port (8#9).toNat).up = true ∧ sTime.eqx.parent = some (8#9).toNat ∧ sTime.time.root = false
    ∧ sTime.running = true ∧ sTime.time.hasCount = true := by decide +kernel

theorem wit_DaysAndMarkers_loss : sTime.running = true ∧ sTime.time.aligned = true ∧ 16 ≤ sTime.time.over4 := by decide +kernel

/-- R22: the Day count goes up by one. -/
theorem test_day : next (exec .dayBoundary (atDay 7 s0)) (fun t => t.day == 8) = true := by decide +kernel

/-- R38: 15 such Days are not enough. -/
theorem test_alignment : next (exec .alignmentLoss sTime) (fun t => !t.time.aligned) = true
    ∧ next (exec .alignmentLoss (sTime.setTime { sTime.time with over4 := 15 })) (fun t => t.time.aligned) = true := by decide +kernel

/-- The module in a phase of the Equinox, a member of a fabric whose root is module 0. -/
def sPhase (n : Nat) : State :=
  (s0.setAlm { s0.alm with cur := { alm1 with members := [0, 1] } }).setEqx { s0.eqx with phase := n, parent := some 8 }

theorem wit_EquinoxProceeds_echo : ((sPhase 3).port (8#9).toNat).up = true ∧ (fabricPorts (sPhase 3)).contains (8#9).toNat = true
    ∧ (sPhase 3).eqx.phase = 3 ∧ (sPhase 3).eqx.unmeasured = [] ∧ ((sPhase 3).port (8#9).toNat).delayValid = false
    ∧ (KMap.getD (sPhase 3).eqx.echoes (8#9).toNat []).length < 255 := by decide +kernel

theorem wit_EquinoxProceeds_tree : ((sPhase 2).port (8#9).toNat).up = true ∧ (fabricPorts (sPhase 2)).contains (8#9).toNat = true
    ∧ isRoot (sPhase 2) = false ∧ (sPhase 2).eqx.phase = 2 := by decide +kernel

theorem wit_EquinoxProceeds_start : (sPhase 5).eqx.phase = 5 ∧ (sPhase 5).eqx.out = false ∧ (sPhase 5).eqx.parent = some (8#9).toNat
    ∧ (sPhase 5).eqx.startCycle = none ∧ (sPhase 4).eqx.phase = 4 := by decide +kernel

theorem wit_EquinoxProceeds_advance : phaseDone (sPhase 4) = true ∧ (sPhase 4).eqx.phase < 5 := by decide +kernel

/-- The start cycle is known. -/
def sStart : State := (sPhase 5).setEqx { (sPhase 5).eqx with startCycle := some 100 }

theorem wit_EquinoxProceeds_zero : sStart.eqx.startCycle = some 100 ∧ sStart.eqx.phase = 5 ∧ sStart.time.hasCount = false ∧ 16 * 100 ≤ 16 * (100#60).toNat + parentDelay sStart := by
  decide +kernel

/-- R31: Day 0 begins, aligned, with the module's count. -/
theorem test_day_zero : next (exec (.equinoxDayZero 100) sStart) (fun t => t.time.aligned && t.time.hasCount && t.day == 0 && t.eqx.phase == 0) = true := by
  decide +kernel

/-- The link of port 8 measured at 1,600 sixteenths of a cycle; a Day count or none. -/
def sJoin (has : Bool) : State :=
  ((s0.updPort 8 (fun p => { p with delay := 1600, delayValid := true })).setTime { s0.time with hasCount := has }).setEqx { s0.eqx with phase := 4, rejoin := true }

theorem wit_JoiningTakesTheCount : ∀ has ∈ [true, false], (sJoin has).running = true ∧ (fabricPorts (sJoin has)).contains (8#9).toNat = true
    ∧ treeLink (sJoin has) (8#9).toNat = true ∧ 4 ≤ (sJoin has).eqx.phase ∧ (sJoin has).time.hasCount = has := by decide +kernel

/-- R35: the count less the delay of 100 cycles. -/
theorem test_join : next (exec (.runningFabricJoin 8 3 50) (sJoin false)) (fun t => t.time.day == 2 && t.time.cycle == 4046) = true := by decide +kernel

/-- A cell that waits for its `ACK`. -/
def cell0 (n : BitVec 16) : Cell :=
  { sof := true, eof := true, cls := 3, bytes := 64, lseq := n, poison := false, pcrc := 0, ccrc := 0, content := filled 64 0 }

/-- The module with cells 4 and 5 sent on port 8 at time 0, and a bulk frame held. -/
def sLink (d : Nat) : State :=
  atDay d (s0.updPort 8 (fun p => { p with unacked := [⟨cell0 4, 0⟩, ⟨cell0 5, 0⟩], tc6Sent := [(7, (frameOf (hdr 0x31 6 64 0) (filled 64 1), 0))],
                                           tc6Wait := [(9, { src := 0x100, seq := 1, addr := 0, time := 0 })] }))

theorem wit_ControlWordsAct : portLive (sLink 0) (8#9).toNat = true ∧ cellAt ((sLink 0).port (8#9).toNat) 4 = some 0
    ∧ ((sLink 0).port (8#9).toNat).sent = [] ∧ (cellAt ((sLink 0).port (8#9).toNat) 5).isSome = true
    ∧ KMap.find ((sLink 0).port (8#9).toNat).tc6Sent (7#16).toNat = some (frameOf (hdr 0x31 6 64 0) (filled 64 1), 0) := by decide +kernel

/-- R101: an `ACK` of cell 4 leaves cell 5. -/
theorem test_ack : next (exec (.ack 8 4) (sLink 0)) (fun t => (t.port 8).unacked.map (·.cell.lseq) == [5]) = true := by decide +kernel

/-- R101: a `NAK` of cell 5 has cell 5 sent again, after the header of no other frame. -/
theorem test_nak : next (exec (.nak 8 5) (sLink 0)) (fun t => (t.port 8).resendQ == [5] && (t.port 8).unacked.length == 2) = true := by decide +kernel

theorem wit_LinksFailAndComeUp_resend : portLive (sLink 1) (8#9).toNat = true ∧ ((sLink 1).port (8#9).toNat).unacked ≠ []
    ∧ ((sLink 1).port (8#9).toNat).ackHeard + 2048 ≤ (sLink 1).now := by decide +kernel

/-- A link whose cell was resent 16 times and that has been silent for 4 Days. -/
def sSilent (n : Nat) : State := atDay 4 (s0.updPort 8 (fun p => { p with unacked := [⟨cell0 4, 0⟩, ⟨cell0 5, n⟩] }))

theorem wit_LinksFailAndComeUp_loss : (sSilent 16).running = true ∧ (∃ c ∈ ((sSilent 16).port (8#9).toNat).unacked, 16 ≤ c.resent)
    ∧ ((sSilent 16).port (8#9).toNat).lastCtrl + 16384 ≤ (sSilent 16).now ∧ portLive (sSilent 16) (8#9).toNat = true := by decide +kernel

/-- R103: the link goes down after the sixteenth resend, not after the fifteenth. -/
theorem test_retx_limit : next (exec (.retxLimit 8) (sSilent 16)) (fun t => !(t.port 8).up) = true
    ∧ next (exec (.retxLimit 8) (sSilent 15)) (fun t => (t.port 8).up) = true := by decide +kernel

/-- The edge port down. -/
def sDown : State := s0.updPort 0 (fun p => { p with up := false })

theorem wit_LinksFailAndComeUp_up : sDown.running = true ∧ sDown.bind (0#9).toNat = some bindE ∧ (sDown.port (0#9).toNat).up = false
    ∧ mayComeUp sDown (0#9).toNat = true := by decide +kernel

/-- The keyed fabric port down in a phase of an Equinox. -/
def sDownF (n : Nat) : State :=
  ((s0.setKp { s0.kp with linkKeys := [(8, { secret := [1], txCtr := [], rxCtr := [], week := 0, keptPrev := none })] }).updPort 8
    (fun p => { p with up := false })).setEqx { s0.eqx with phase := n }

theorem wit_LinksFailAndComeUp_fabric : ∀ n ∈ [1, 3, 4], (sDownF n).running = true ∧ (sDownF n).bind (8#9).toNat = some bindF
    ∧ ((sDownF n).port (8#9).toNat).up = false ∧ mayComeUp (sDownF n) (8#9).toNat = true ∧ bindF.fabric = true ∧ (sDownF n).eqx.phase = n := by decide +kernel

/-- A training: the partner's credits and the order of its lanes. -/
def train0 : Training := { asymmetric := false, credits := [1024, 1024, 1024, 1024, 100, 100, 100], order := [0, 1, 2, 3, 4, 5, 6, 7] }

/-- R104: 400 ns are 10,880 sixteenths of a cycle. -/
theorem test_link_delay : next (exec (.linkUp 0 10880 train0) sDown) (fun t => (t.port 0).up && (t.port 0).delayValid) = true
    ∧ next (exec (.linkUp 0 10881 train0) sDown) (fun t => !(t.port 0).up) = true := by decide +kernel

theorem wit_BulkFramesAreHeld_repeat : (sLink 1).running = true
    ∧ KMap.find ((sLink 1).port (8#9).toNat).tc6Wait (9#16).toNat = some { src := 0x100, seq := 1, addr := 0, time := 0 }
    ∧ 0 + 2048 ≤ (sLink 1).now := by decide +kernel

theorem wit_BulkFramesAreHeld_week : (sLink 4096).running = true
    ∧ KMap.find ((sLink 4096).port (8#9).toNat).tc6Sent (7#16).toNat = some (frameOf (hdr 0x31 6 64 0) (filled 64 1), 0)
    ∧ 0 + 16777216 ≤ (sLink 4096).now := by decide +kernel

/-- R106: a bulk frame is held for a Week and no longer. -/
theorem test_bulk_hold : next (exec (.tc6HoldExpiry 8 7) (sLink 4095)) (fun t => (t.port 8).tc6Sent.length == 1) = true
    ∧ next (exec (.tc6HoldExpiry 8 7) (sLink 4096)) (fun t => (t.port 8).tc6Sent.isEmpty) = true := by decide +kernel

/-- The edge port with spare lane 64, which meets the partner's spare lane 65. -/
def bindS : PortBind := { bindE with spares := [(64, 65)] }

/-- That port, and a lane with a switch ordered for Day 3. -/
def sLane : State :=
  ((s0.setAlm { s0.alm with cur := { alm1 with ports := [(0, bindS), (8, bindF)] } }).setLanes
    [(1, { LaneSt.init 1 with switchDay := some 3, toSpare := some 64 })]).setTime { s0.time with day := 3, cycle := guardStart 8 }

/-- The same with no lane failing. -/
def sSpare : State := sLane.setLanes []

theorem wit_LanesAreSpared_trigger : sSpare.running = true ∧ laneOwner sSpare (7#10).toNat = some (0, bindS)
    ∧ portLive sSpare 0 = true ∧ (sSpare.lane (7#10).toNat).role ≠ 3 ∧ (sSpare.lane (7#10).toNat).role ≠ 1
    ∧ (sSpare.lane (7#10).toNat).toSpare = none ∧ freeSpare (laneErrors sSpare (7#10).toNat) bindS (7#10).toNat = some 64 := by decide +kernel

/-- The same after a control word on port 0. -/
def sHeard : State := sSpare.updPort 0 (fun x => { x with lastCtrl := sSpare.now })

theorem wit_LanesAreSpared_request : portLive sSpare (0#9).toNat = true ∧ sSpare.bind (0#9).toNat = some bindS
    ∧ ownLane sHeard (0#9).toNat bindS (7#10).toNat = some 7 ∧ (sSpare.lane 7).toSpare = none
    ∧ pairedSpare sHeard bindS 7 (65#10).toNat = some 64 := by decide +kernel

theorem wit_LanesAreSpared_guard : sLane.running = true ∧ (sLane.lane (1#10).toNat).switchDay = some 3
    ∧ laneOwner sLane (1#10).toNat = some (0, bindS)
    ∧ (3 < sLane.day ∨ (3 = sLane.day ∧ guardStart 8 ≤ sLane.time.cycle)) := by decide +kernel

/-- R110: in the guard of the named Day, spare lane 64 takes over from lane 1. -/
theorem test_spare_switch : next (exec (.spareSwitchGuard 1) sLane) (fun t => (t.lane 1).role == 3 && (t.lane 64).role == 2 && (t.lane 64).serves == 1)
    = true := by decide +kernel

/-- A cell of a frame whose header is `h`, with the envelope that goes with it (R95, R97). -/
def cellOf (h : Header) (n : BitVec 16) : Cell :=
  let c : Cell := { sof := true, eof := true, cls := h.cls, bytes := 64, lseq := n, poison := false, pcrc := 0, ccrc := 0,
                    content := headerBytes60 h ++ beBytes 4 (crc32c (headerBytes60 h)).toNat }
  { c with ccrc := crc32c (padTo 256 c.content ++ Cell.head c) }

theorem cellGood_cellOf (h : Header) (n : BitVec 16) : cellGood (cellOf h n) = true := by simp only [cellGood, cellOf, Cell.head, beq_self_eq_true]

theorem beNat_beBytes4 (x : Nat) (h : x < 2 ^ 32) : beNat (beBytes 4 x) = x := by
  simp [beBytes, beNat, List.range, List.range.loop]
  omega

theorem headerGood_cellOf (h : Header) (n : BitVec 16) (len : (headerBytes60 h).length = 60) : headerGood (cellOf h n) = true := by
  have t : ∀ l : List Byte, (headerBytes60 h ++ l).take 60 = headerBytes60 h := fun l => by rw [← len, List.take_left]
  have d : ∀ l : List Byte, (headerBytes60 h ++ l).drop 60 = l := fun l => by rw [← len, List.drop_left]
  unfold headerGood cellOf
  simp only [t, d]
  rw [List.take_of_length_le (by simp [beBytes]), beNat_beBytes4 _ (crc32c _).isLt]
  simp

/-- The one cell of the read, as the partner sends it. -/
def cellR (n : BitVec 16) : Cell := cellOf rdA.frame.hdr n

theorem wit_CellsAndFramesMove_cell : portLive s0 (8#9).toNat = true ∧ (cellR 0).cls ≠ 0 ∧ cellGood (cellR 0) = true
    ∧ (cellR 0).lseq = (s0.port (8#9).toNat).rxExpect ∧ ((cellR 0).sof = true → headerGood (cellR 0) = true) :=
  ⟨by decide +kernel, by decide +kernel, cellGood_cellOf _ _, by decide +kernel, fun _ => headerGood_cellOf _ _ (by decide +kernel)⟩

theorem wit_CellsAndFramesMove_refused : portLive s0 (8#9).toNat = true ∧ (cellR 3).cls ≠ 0 ∧ cellGood (cellR 3) = true
    ∧ (cellR 3).lseq ≠ (s0.port (8#9).toNat).rxExpect ∧ (s0.port (8#9).toNat).nakSent = false ∧ s0.now < (s0.port (8#9).toNat).lastAck + 512 :=
  ⟨by decide +kernel, by decide +kernel, cellGood_cellOf _ _, by decide +kernel, by decide +kernel, by decide +kernel⟩

/-- R68: CRC-32C of the nine characters "123456789", the check value published for these parameters. -/
theorem test_crc : crc32c ([0x31, 0x32, 0x33, 0x34, 0x35, 0x36, 0x37, 0x38, 0x39] : List Byte) = 0xE3069283 := by decide +kernel

/-- A frame for module 2 in the output queue of port 8. -/
def queued : QFrame where
  port := 8
  frame := frameOf { hdr 0x10 3 64 0x1000 with dest := 2 } []
  cells := 1
  isReq := true
  copy := none
  inPort := 0
  inLseq := none
  shared := 0
  admitted := 0
  notBefore := 0
  qdepth := 0
  mir := none

/-- The module with that frame, its partner giving credits. -/
def sQueue : State :=
  (s0.setXb { s0.xb with queue := [(1, queued)] }).updPort 8 (fun p => { p with credInit := [1024, 1024, 1024, 1024, 100, 100, 100] })

theorem wit_CellsAndFramesMove_depart : ∃ d, portLive sQueue (8#9).toNat = true ∧ sQueue.bind (8#9).toNat = some bindF
    ∧ slotAt bindF.lanes sQueue.time.cycle < usableSlots bindF.lanes ∧ (sQueue.port (8#9).toNat).txOther = none
    ∧ nextFrame sQueue (8#9).toNat = (some (1, queued), d) := ⟨(nextFrame sQueue 8).2, by decide +kernel⟩

/-- A frame from port 0 that port 8 has begun to send, one cell of it sent, and that has stalled since time 0. -/
def tx0 : TxSt := { first := 0, sent := 1, count := 1, stall := some 0 }

/-- It in the queue, as frame 5 in arrival. -/
def cut0 : QFrame := { queued with frame := { queued.frame with rx := some 5, more := 64 }, inPort := 0, cut := true, begun := some tx0 }

/-- The module with that frame. -/
def sCut : State := atDay 1 ((s0.setXb { s0.xb with queue := [(1, cut0)] }).updPort 8 (fun p => { p with txOther := some 1 }))

theorem wit_CellsAndFramesMove_stall : sCut.running = true ∧ (sCut.port (8#9).toNat).txOther = some 1 ∧ KMap.find sCut.xb.queue 1 = some cut0
    ∧ cut0.begun = some tx0 ∧ tx0.stall = some 0 ∧ 0 + 2048 ≤ sCut.now := by decide +kernel

/-- R125: its tail is poisoned, the port counts it, and nothing of it is still to come. -/
theorem test_stall : next (exec (.cutThroughStallLimit 8) sCut) (fun t => (t.port 8).tailPoison == 1
    && t.xb.queue.all (fun q => q.2.frame.poisoned && q.2.frame.rx == none)) = true := by decide +kernel

/-! ## The Keeper and the Finug port -/

/-- An attestation that a command asked for. -/
def use0 : SignUse := .attest cmd5 7

/-- The Keeper with a good identity, a good cache, that attestation waiting, and some tokens. -/
def sKeeper (tokens : Nat) : State :=
  sSess.setKp { sSess.kp with topCacheOk := true, tokens := tokens, signQueue := [use0], building := true, qRes := 64 }

theorem wit_KeeperSigns_sign : keeperOn (sKeeper 1) = true ∧ use0 ∈ (sKeeper 1).kp.signQueue ∧ maySign (sKeeper 1).kp use0 = true
    ∧ (sKeeper 1).kp.building = true ∧ (sKeeper 1).kp.idOk = true := by decide +kernel

theorem wit_KeeperSigns_index : ({ (sKeeper 1).kp with qNext := 32767 }).qNext < 32768 := by decide +kernel

theorem wit_KeeperSigns_refill : keeperOn s0 = true ∧ s0.kp.signQueue = [] ∧ keeperOn (sKeeper 0) = true ∧ (sKeeper 0).kp.signQueue = use0 :: []
    ∧ (sKeeper 0).kp.tokens = 0 := by decide +kernel

/-- R384: a second adds a token, and 1,024 is the most. -/
theorem test_tokens : next (exec .signTokenRefill (s0.setKp { s0.kp with tokens := 1023 })) (fun t => t.kp.tokens == 1024) = true
    ∧ next (exec .signTokenRefill (s0.setKp { s0.kp with tokens := 1024 })) (fun t => t.kp.tokens == 1024) = true := by decide +kernel

/-- The mailbox free or with a request running. -/
def sMbox (busy : Bool) : State := s0.setKp { s0.kp with mboxBusy := busy }

theorem wit_KeeperFlagsAndMailbox : (sMbox true).kp.relay = none ∧ (sMbox true).kp.asks = [] ∧ keeperOn (sMbox false) = true ∧ (sMbox false).running = true ∧ (sMbox false).kp.mboxBusy = false
    ∧ keeperOn (sMbox true) = true ∧ (sMbox true).running = true ∧ (sMbox true).kp.mboxBusy = true := by decide +kernel

/-- R480: a second command only sets the overrun flag. -/
theorem test_mailbox : next (exec (.kpMboxCmd 0x0050000000000000) (sMbox false)) (fun t => t.kp.mboxBusy && t.kp.mboxCode == 0x50) = true
    ∧ next (exec (.kpMboxCmd 0) (sMbox true)) (fun t => t.kp.mboxOverrun && t.kp.mboxBusy) = true := by decide +kernel

/-- The module with a session, an identity and an owner root or none. -/
def sOwner (root : Option (BitVec 256)) : State := sSess.setKp { sSess.kp with ownerRoot := root }

theorem wit_KeeperCommandsAct : Accepts (sOwner none) cmd5 session0 ∧ (sOwner none).kp.mboxBusy = false ∧ mayIdentify (sOwner none).kp = true ∧ (sOwner none).kp.idOk = true
    ∧ (sOwner none).kp.idFail = false ∧ (sOwner none).kp.identity ≠ 3 ∧ (sOwner none).kp.ownerRoot = none ∧ railsUp (sOwner none) = true
    ∧ (sOwner none).kp.noImage = false ∧ (filled 4 1).length ≤ 65536 ∧ (67108860#32).toNat + (filled 4 1).length ≤ 2 ^ 26 :=
  ⟨⟨by decide +kernel, rfl, by decide +kernel, by decide +kernel, by decide +kernel⟩, by decide +kernel⟩

/-- What verifies is open (log 13): with a signature that does, the rest holds together. -/
theorem wit_KeeperCommandsAct_transfer (sig : List Byte) (h : Config.hssVerify 1 (beBytes 32 2) sig = true) :
    Accepts (sOwner (some 1)) cmd5 session0 ∧ (sOwner (some 1)).kp.ownerRoot = some 1
      ∧ Config.hssVerify 1 (beBytes 32 (2#256).toNat) sig = true :=
  ⟨⟨by decide +kernel, rfl, by decide +kernel, by decide +kernel, by decide +kernel⟩, rfl, h⟩

/-- The module with an image in the slot that does not run. -/
def sImage (bs : List Byte) : State := sSess.setKp { sSess.kp with fwSlots := [(1, bs)] }

/-- The same for an image that verifies. -/
theorem wit_KeeperCommandsAct_activate (bs : List Byte) (h : Config.hssVerify Config.vendorRoot bs bs = true) :
    (let b := KMap.getD (sImage bs).kp.fwSlots (b2n (!(sImage bs).kp.activeSlot)) []
     Config.hssVerify Config.vendorRoot b b = true ∧ (sImage bs).kp.svnFw.toNat ≤ (Config.imageSvn b).toNat) := ⟨h, Nat.zero_le _⟩

/-- R387: an owner root is enrolled where there is none. -/
theorem test_enrol : next (exec (.ownerEnrol cmd5 9) (sOwner none)) (fun t => t.kp.ownerRoot == some 9) = true
    ∧ next (exec (.ownerEnrol cmd5 9) (sOwner (some 1))) (fun t => t.kp.ownerRoot == some 1) = true := by decide +kernel

/-- The Finug port with a frame that nothing has acknowledged. -/
def sFinug (d : Nat) : State := atDay d (s0.setFn { s0.fn with unacked := [(3, [1]), (4, [2])] })

theorem wit_FinugLinkRecovers : finugOn (sFinug 5) = true ∧ ([] : List Byte).length < 20 ∧ (sFinug 5).fn.unacked ≠ []
    ∧ (sFinug 5).fn.ackHeard + 17000 ≤ (sFinug 5).now ∧ finugOn (sFinug 41504) = true ∧ (sFinug 41504).fn.lastFrame + 170000000 ≤ (sFinug 41504).now
    ∧ (sFinug 41504).kp.sessions = [] := by decide +kernel

/-- R461: an `ACK` of 3 frees frame 3; a frame that is too short is counted and refused. -/
theorem test_finug : next (exec (.finugAck false 3) (sFinug 0)) (fun t => t.fn.unacked.map (·.1) == [4]) = true
    ∧ next (exec (.finugFrame []) s0) (fun t => t.fn.crcErr == 1 && t.fn.control == [(true, t.fn.rxExpect)]) = true := by decide +kernel

/-- Which chains prove an identity is open (log 13): with one that does, a handshake opens. -/
theorem wit_SessionsOpenAndEnd_hello (chain : List Byte) (ident : BitVec 256) (h : provenBy (sOwner (some 1)) 1 .control chain = some ident) :
    finugOn (sOwner (some 1)) = true ∧ mayIdentify (sOwner (some 1)).kp = true ∧ (sOwner (some 1)).kp.ownerRoot = some 1
      ∧ provenBy (sOwner (some 1)) 1 .control chain = some ident ∧ (sOwner (some 1)).kp.sessions.length < 4 ∧ (sOwner (some 1)).kp.entropyFail = false :=
  ⟨by decide +kernel, by decide +kernel, rfl, h, by decide +kernel, by decide +kernel⟩

/-- An open handshake. -/
def shake0 : Handshake := { openDay := 0, hello := [1], offer := [2], ident := 5, decapsKey := 1 }

/-- The module with that handshake. -/
def sShake (d : Nat) : State := atDay d (s0.setKp { s0.kp with handshakes := [(6, shake0)] })

/-- Which signatures verify is open (log 13). -/
theorem wit_SessionsOpenAndEnd_accept (ct sig : List Byte) (h : Config.hssVerify shake0.ident (sha256 (shake0.hello ++ shake0.offer ++ ct)) sig = true) :
    finugOn (sShake 4194303) = true ∧ KMap.find (sShake 4194303).kp.handshakes 6 = some shake0
      ∧ (sShake 4194303).kp.signQueue.contains (.offer 6) = false
      ∧ Config.hssVerify shake0.ident (sha256 (shake0.hello ++ shake0.offer ++ ct)) sig = true
      ∧ (sShake 4194303).kp.sessions.length < 4 ∧ (sShake 4194303).day < shake0.openDay + 2 ^ 22 :=
  ⟨by decide +kernel, rfl, by decide +kernel, h, by decide +kernel, by decide +kernel⟩

theorem wit_SessionsOpenAndEnd_shakeEnd : KMap.find (sShake 4194304).kp.handshakes 6 = some shake0
    ∧ shake0.openDay + 2 ^ 22 ≤ (sShake 4194304).day := by decide +kernel

/-- R391: a handshake ends at 2^22 Days, not a Day before. -/
theorem test_handshake : next (exec (.handshakeTimeout 6) (sShake 4194303)) (fun t => t.kp.handshakes.length == 1) = true
    ∧ next (exec (.handshakeTimeout 6) (sShake 4194304)) (fun t => t.kp.handshakes.isEmpty) = true := by decide +kernel

/-- A session on the Day its time is up, and one that has used its commands. -/
def sOldSess (d commands : Nat) : State := atDay d (s0.setKp { s0.kp with sessions := [(1, { session0 with commands := commands })] })

theorem wit_SessionsOpenAndEnd_end : KMap.find (sOldSess 1073741824 4).kp.sessions (1#32).toNat = some session0
    ∧ (session0.openDay + 2 ^ 30 ≤ (sOldSess 1073741824 4).day ∨ 2 ^ 24 ≤ session0.commands)
    ∧ KMap.find (sOldSess 0 16777216).kp.sessions (1#32).toNat = some { session0 with commands := 16777216 } := by decide +kernel

/-- R392: a session ends at 2^30 Days or 2^24 commands. -/
theorem test_session_end : next (exec (.sessionLifetimeEnd 1) (sOldSess 1073741824 4)) (fun t => t.kp.sessions.isEmpty) = true
    ∧ next (exec (.sessionLifetimeEnd 1) (sOldSess 0 16777216)) (fun t => t.kp.sessions.isEmpty) = true
    ∧ next (exec (.sessionLifetimeEnd 1) (sOldSess 1073741823 16777215)) (fun t => t.kp.sessions.length == 1) = true := by decide +kernel

theorem wit_LinkKeysAndTelemetry_begin : Accepts sSess cmd5 session0 ∧ mayIdentify sSess.kp = true ∧ sSess.kp.entropyFail = false
    ∧ portToKey sSess 2 = some 8 ∧ sSess.self.toNat < (2#16).toNat := ⟨wit_Accepts, by decide +kernel⟩

theorem wit_LinkKeysAndTelemetry_subscribe : Accepts sSess cmd5 session0 ∧ (1#7).getLsbD 3 = false := ⟨wit_Accepts, by decide⟩

/-- A session on stream 3, sampled on every eighth Day. -/
def sSample : State := atDay 16 (s0.setKp { s0.kp with sessions := [(1, { session0 with streams := 8, rateLog2 := 3, samples := [0x0F0000A00000] })] })

theorem wit_LinkKeysAndTelemetry_sample : sSample.running = true
    ∧ KMap.find sSample.kp.sessions (1#32).toNat = some { session0 with streams := 8, rateLog2 := 3, samples := [0x0F0000A00000] }
    ∧ (8#7).getLsbD 3 = true ∧ sSample.day % 2 ^ 3 = 0 := by decide +kernel

/-! ## The Almanac and the map -/

/-- The module with a session and a transaction in a state. -/
def sTxn (x : TxnState) : State := sSess.setAlm { sSess.alm with txnState := x, txnId := 6 }

theorem accepts_txn (x : TxnState) : Accepts (sTxn x) cmd5 session0 :=
  ⟨by cases x <;> decide +kernel, rfl, by cases x <;> decide +kernel, by decide +kernel, by decide +kernel⟩

theorem wit_AlmanacIsStaged : Accepts (sTxn .idle) cmd5 session0 ∧ (sTxn .idle).alm.txnState = .idle ∧ Accepts (sTxn .open_) cmd5 session0
    ∧ (sTxn .open_).alm.txnState ≠ .idle ∧ (sTxn .open_).alm.txnState = .open_ ∧ (filled 4 1).length ≤ 65536
    ∧ (50331644#32).toNat + (filled 4 1).length ≤ 48 * 2 ^ 20 ∧ (65536#17).toNat ≤ 65536 :=
  ⟨accepts_txn _, rfl, accepts_txn _, by decide +kernel, rfl, by decide +kernel⟩

/-- Which images pass is open (logs 2 and 13): with one that does, the rest holds together. -/
theorem wit_AlmanacIsStaged_seal (h : sealReason (accepted (sTxn .open_) cmd5 0x22 session0) (sTxn .open_).alm.staged = 0) :
    Accepts (sTxn .open_) cmd5 session0 ∧ (sTxn .open_).alm.txnState = .open_
      ∧ sealReason (accepted (sTxn .open_) cmd5 0x22 session0) (sTxn .open_).alm.staged = 0 := ⟨accepts_txn _, rfl, h⟩

/-- R448: a second `AL_BEGIN` is refused with reason 0x000D. -/
theorem test_al_begin : next (exec (.alBegin cmd5 9 [1]) (sTxn .idle)) (fun t => t.alm.txnState == .open_ && t.alm.txnId == 9) = true
    ∧ next (exec (.alBegin cmd5 9 [1]) (sTxn .open_)) (fun t => t.alm.txnId == 6 && t.fn.out.any (fun a => a.status == 0x10 && a.reason == 0x000D))
      = true := by decide +kernel

theorem wit_AlmanacTransactionsEnd_commit : Accepts (sTxn .sealed) cmd5 session0 ∧ (sTxn .sealed).alm.txnId = 6 ∧ (sTxn .sealed).alm.txnState = .sealed
    ∧ leads (sTxn .sealed) = false ∧ (sTxn .sealed).alm.pending = none ∧ denUp (sTxn .sealed) = true ∧ (sTxn .sealed).alm.leader = none :=
  ⟨accepts_txn _, by decide +kernel⟩

/-- A sealed image in the other bank, under an owner root. -/
def sPrepare (bs : List Byte) : State :=
  let s := (sTxn .sealed).setAlm { (sTxn .sealed).alm with banks := [(1, bs)] }
  s.setKp { s.kp with ownerRoot := some 7 }

/-- What an image holds and whether its signature verifies is open (log 2, 13). -/
theorem wit_AlmanacTransactionsEnd_prepare (bs : List Byte) (img : Almanac) (h : readAlmanac bs = some img) (hs : imageSigned (sPrepare bs) bs = true) :
    denUp (sPrepare bs) = true ∧ (sPrepare bs).alm.txnId = 6 ∧ (sPrepare bs).alm.txnState = .sealed
      ∧ KMap.find (sPrepare bs).alm.banks (otherBank (sPrepare bs)) = some bs ∧ imageSigned (sPrepare bs) bs = true
      ∧ readAlmanac bs = some img ∧ (sPrepare bs).alm.leader = none := ⟨rfl, rfl, rfl, rfl, hs, h, rfl⟩

theorem wit_AlmanacTransactionsEnd_timeout : (let s := atDay (2 ^ 26) (sTxn .open_)
    denUp s = true ∧ s.alm.txnState = .open_ ∧ s.alm.openDay + 2 ^ 26 ≤ s.day) := by
  show denUp (atDay (2 ^ 26) (sTxn .open_)) = true ∧ (atDay (2 ^ 26) (sTxn .open_)).alm.txnState = .open_
    ∧ (atDay (2 ^ 26) (sTxn .open_)).alm.openDay + 2 ^ 26 ≤ (atDay (2 ^ 26) (sTxn .open_)).day
  decide +kernel

/-- A transaction whose participant 2 has not voted since Day 0. -/
def leader0 : LeaderTxn := { txn := 6, participants := [1, 2], votes := [(1, 0)], startDay := 0, askDay := 0, flipDay := none }

/-- The leader of the Chronicle with it. -/
def sVote : State := atDay 65536 ((s0.setCh { s0.ch with role := 3 }).setAlm { s0.alm with leader := some leader0 })

theorem wit_AlmanacTransactionsEnd_vote : denUp sVote = true ∧ leads sVote = true ∧ sVote.alm.leader = some leader0 ∧ leader0.flipDay = none
    ∧ (2#16) ∈ leader0.participants ∧ KMap.find leader0.votes (2#16).toNat = none ∧ leader0.startDay + 65536 ≤ sVote.day := by decide +kernel

/-- Function 4 of composition 5 drained by Day 12. -/
def drain0 : Drain := { comp := some 5, bit := 4, day := 12 }

/-- The module with that drain. -/
def sDrain : State := atDay 12 (s0.setAlm { s0.alm with drains := [(2, drain0)] })

theorem wit_AlmanacTransactionsEnd_drain : KMap.find sDrain.alm.drains 2 = some drain0 ∧ drain0.day ≤ sDrain.day ∧ drain0.bit ≠ 1 := by decide +kernel

/-- The module leading the Chronicle, with a session. -/
def sLead : State := sSess.setCh { sSess.ch with role := 3 }

theorem wit_MapCommandsBecomeEntries : leads sSess = false ∧ leads sLead = true ∧ mustWait sLead .nop = false
    ∧ (judge sLead 0 (.fence fence1) 0).isSome = true ∧ judge sLead 5 (.take extBody) 0 = none ∧ Accepts sSess cmd5 session0 ∧ fence1.action ≠ 7
    ∧ mayAdmit (accepted sSess cmd5 0x49 session0) 0x300 = true :=
  ⟨by decide +kernel, by decide +kernel, by decide +kernel, by decide +kernel, by decide +kernel, wit_Accepts, by decide +kernel, by decide +kernel⟩

/-- R352: a module that does not lead passes the command to the leader. -/
theorem test_map_command : next (exec (.pubRegion cmd5 5 2 0x10000) sSess) (fun t => t.ch.toLeader.length == 1) = true := by decide +kernel

/-! ## Memory requests, atomics, copies and counters -/

/-- A row served at `s`: the state and the request. -/
abbrev U (s : State) (a : Arrival) (op : Nat) : State := served s a op

/-- The request of a row. -/
abbrev R (s : State) (a : Arrival) (op : Nat) : Req := reqOf s a op

theorem pair_eta {α β : Type} {p : α × β} {b : β} (h : p.2 = b) : p = (p.1, b) := by cases p; cases h; rfl

/-- An ownership read of the same line. -/
def rdOwnA : Arrival := arr 8 (hdr 0x11 3 64 0x1000) []

theorem wit_ReadsAnswer_reach : Reaches s0 rdA 0x10 (U s0 rdA 0x10) (R s0 rdA 0x10) ∧ Reaches s0 rdOwnA 0x11 (U s0 rdOwnA 0x11) (R s0 rdOwnA 0x11) :=
  ⟨reaches_of_good (by decide +kernel), reaches_of_good (by decide +kernel)⟩

theorem wit_ReadsAnswer_data : keyRevoked (U s0 rdA 0x10) (R s0 rdA 0x10).hdr = false
    ∧ homeRights (U s0 rdA 0x10) (R s0 rdA 0x10).hdr (R s0 rdA 0x10).hdr.addr false false false = .ok 1 9 ∧ (R s0 rdA 0x10).poisoned = false
    ∧ mustFollow (U s0 rdA 0x10) none (R s0 rdA 0x10) = false ∧ modeOf (U s0 rdA 0x10) (R s0 rdA 0x10).hdr (R s0 rdA 0x10).hdr.addr ≠ 2
    ∧ teFull (U s0 rdA 0x10) 9 (pageOf (R s0 rdA 0x10).hdr.addr) = false
    ∧ (let w := teEnter (sampleHeat (U s0 rdA 0x10) 9 (pageOf (R s0 rdA 0x10).hdr.addr) false) 9 (pageOf (R s0 rdA 0x10).hdr.addr)
       readPiece w [] (R s0 rdA 0x10).hdr.comp.toNat 9 (pageOf (R s0 rdA 0x10).hdr.addr) (byteOf (R s0 rdA 0x10).hdr.addr)
         (R s0 rdA 0x10).hdr.length.toNat = .data (zeros 64)) := by
  refine ⟨by decide +kernel, by decide +kernel, by decide +kernel, by decide +kernel, by decide +kernel, by decide +kernel, ?_⟩
  show readPiece _ _ _ _ _ _ _ = _
  decide +kernel

/-- The module with page 0 in the tray of endpoint 0x300. -/
def sTray : State := sPage { pteT1 with loc := .t2 0x300 7 }

theorem wit_ReadsAnswer_fetch : Reaches sTray rdA 0x10 (U sTray rdA 0x10) (R sTray rdA 0x10) ∧ keyRevoked (U sTray rdA 0x10) (R sTray rdA 0x10).hdr = false
    ∧ readPiece (teEnter (sampleHeat (U sTray rdA 0x10) 9 0 false) 9 0) [] 5 9 0 4096 64 = .fetch :=
  ⟨reaches_of_good (by decide +kernel), by decide +kernel, by decide +kernel⟩

/-- A read in extent 1, which is not granted. -/
def rdOut : Arrival := arr 8 (hdr 0x10 3 64 0x40000000) []

theorem wit_ReadsAnswer_viol : Reaches s0 rdOut 0x10 (U s0 rdOut 0x10) (R s0 rdOut 0x10) ∧ keyRevoked (U s0 rdOut 0x10) (R s0 rdOut 0x10).hdr = false
    ∧ ∃ k h, homeRights (U s0 rdOut 0x10) (R s0 rdOut 0x10).hdr (R s0 rdOut 0x10).hdr.addr false false false = .viol k h :=
  ⟨reaches_of_good (by decide +kernel), by decide +kernel, _, _, rfl⟩

/-- The module once the key of slot 3 is destroyed. -/
def sNoKey : State := s0.setKp { s0.kp with slots := [(3, { KeySlot.init with state := 3, comp := 5 })] }

theorem wit_ReadsAnswer_revoked : Reaches sNoKey rdA 0x10 (U sNoKey rdA 0x10) (R sNoKey rdA 0x10)
    ∧ keyRevoked (U sNoKey rdA 0x10) (R sNoKey rdA 0x10).hdr = true := ⟨reaches_of_good (by decide +kernel), by decide +kernel⟩

/-- A poisoned read. -/
def rdBad : Arrival := { rdA with frame := { rdA.frame with poisoned := true } }

theorem wit_ReadsAnswer_poisoned : Reaches s0 rdBad 0x10 (U s0 rdBad 0x10) (R s0 rdBad 0x10) ∧ (R s0 rdBad 0x10).poisoned = true
    ∧ keyRevoked (U s0 rdBad 0x10) (R s0 rdBad 0x10).hdr = false :=
  ⟨reaches_of_good (by decide +kernel), by decide +kernel, by decide +kernel⟩

/-- The status of the completion that an arrival leaves in the output queue of the port to module 2. -/
def answers (o : Out) (st : BitVec 8) (bs : List Byte) : Bool :=
  next o (fun t => t.xb.queue.any (fun q => q.2.frame.hdr.isResp && q.2.frame.hdr.status == st && q.2.frame.payload == bs))

/-- R177: a page never written reads as zeros. R83: outside the rights zeros come back too, with `OK`. -/
theorem test_read : answers (exec (.rd rdA) s0) 0 (zeros 64) = true ∧ answers (exec (.rd rdOut) s0) 0 (zeros 64) = true
    ∧ answers (exec (.rd rdBad) s0) 0x40 [] = true ∧ answers (exec (.rd rdA) sNoKey) 0x30 [] = true := by decide +kernel

theorem wit_WritesStore_reach : Reaches s0 wrA 0x14 (U s0 wrA 0x14) (R s0 wrA 0x14) := reaches_of_good (by decide +kernel)

theorem wit_WritesStore_ready : keyRevoked (U s0 wrA 0x14) (R s0 wrA 0x14).hdr = false
    ∧ homeRights (U s0 wrA 0x14) (R s0 wrA 0x14).hdr (R s0 wrA 0x14).hdr.addr true false false = .ok 1 9 ∧ (R s0 wrA 0x14).poisoned = false
    ∧ mustFollow (U s0 wrA 0x14) none (R s0 wrA 0x14) = false ∧ modeOf (U s0 wrA 0x14) (R s0 wrA 0x14).hdr (R s0 wrA 0x14).hdr.addr ≠ 2
    ∧ (prepareStore (U s0 wrA 0x14) 9 (pageOf (R s0 wrA 0x14).hdr.addr)).2 = .ready
    ∧ (applyStore (prepareStore (U s0 wrA 0x14) 9 (pageOf (R s0 wrA 0x14).hdr.addr)).1 (R s0 wrA 0x14).hdr 9 (R s0 wrA 0x14).hdr.addr
        (R s0 wrA 0x14).payload).2 = 0 := by decide +kernel

/-- A store in extent 1, which is not granted. -/
def wrOut : Arrival := arr 8 (hdr 0x14 4 64 0x40000000) (filled 64 0xAB)

theorem wit_WritesStore_viol : Reaches s0 wrOut 0x14 (U s0 wrOut 0x14) (R s0 wrOut 0x14) ∧ keyRevoked (U s0 wrOut 0x14) (R s0 wrOut 0x14).hdr = false
    ∧ ∃ k h, homeRights (U s0 wrOut 0x14) (R s0 wrOut 0x14).hdr (R s0 wrOut 0x14).hdr.addr true false false = .viol k h :=
  ⟨reaches_of_good (by decide +kernel), by decide +kernel, _, _, rfl⟩

/-- Extent 0 coherent, its first line held by endpoint 0x101. -/
def sShared : State :=
  let s := s0.updComp 5 (fun x => { x with ext := [(0, { entry9 with mode := 2 })] })
  s.setHome { s.home with dir := [(9 * 2 ^ 23 + 32, { state := .o, holders := [0x101], broadcast := false, age := 0 })] }

theorem wit_WritesStore_holders : Reaches sShared wrA 0x14 (U sShared wrA 0x14) (R sShared wrA 0x14)
    ∧ keyRevoked (U sShared wrA 0x14) (R sShared wrA 0x14).hdr = false
    ∧ homeRights (U sShared wrA 0x14) (R sShared wrA 0x14).hdr (R sShared wrA 0x14).hdr.addr true false false = .ok 1 9
    ∧ modeOf (U sShared wrA 0x14) (R sShared wrA 0x14).hdr (R sShared wrA 0x14).hdr.addr = 2
    ∧ (linesAccess (U sShared wrA 0x14) (R sShared wrA 0x14).hdr .write (accessLines 9 (R sShared wrA 0x14).hdr.addr (R sShared wrA 0x14).payload.length)).2
        = false := ⟨reaches_of_good (by decide +kernel), by decide +kernel⟩

/-- R142: the holder is asked to give the line up before the store is applied. -/
theorem test_store_waits : next (exec (.wr wrA) sShared) (fun t => t.home.held.length == 1 && t.home.binv.length == 1 && t.mem.isEmpty) = true := by
  decide +kernel

/-- Page 0 in T1, resident. -/
def sResident : State := sPage pteT1

theorem wit_WritesKeepOtherStorage : Reaches sResident wrA 0x14 (U sResident wrA 0x14) (R sResident wrA 0x14)
    ∧ keyRevoked (U sResident wrA 0x14) (R sResident wrA 0x14).hdr = false
    ∧ homeRights (U sResident wrA 0x14) (R sResident wrA 0x14).hdr (R sResident wrA 0x14).hdr.addr true false false = .ok 1 9
    ∧ (prepareStore (U sResident wrA 0x14) 9 (pageOf (R sResident wrA 0x14).hdr.addr)).2 = .ready
    ∧ ((prepareStore (U sResident wrA 0x14) 9 (pageOf (R sResident wrA 0x14).hdr.addr)).1.pte 9 0).loc = .t1 2 5
    ∧ ((prepareStore (U sResident wrA 0x14) 9 (pageOf (R sResident wrA 0x14).hdr.addr)).1.pte 9 0).codec = 0
    ∧ (prepareStore (U sResident wrA 0x14) 9 (pageOf (R sResident wrA 0x14).hdr.addr)).1.home.waits = []
    ∧ (prepareStore (U sResident wrA 0x14) 9 (pageOf (R sResident wrA 0x14).hdr.addr)).1.memOk
    ∧ (let x := applyStore (prepareStore (U sResident wrA 0x14) 9 0).1 (R sResident wrA 0x14).hdr 9 (R sResident wrA 0x14).hdr.addr (R sResident wrA 0x14).payload
       Quiet (completeStatus x.1 (R sResident wrA 0x14) x.2)) = true :=
  ⟨reaches_of_good (by decide +kernel), by decide +kernel⟩

/-- R172, R177: the bytes lie in frame 5 of stack 2, at their offset. -/
theorem test_store : next (exec (.wr wrA) sResident) (fun t => Memory.read t.mem (t1Base + (2 * 786432 + 5) * 65536 + 0x1000) == 0xAB
    && Memory.read t.mem (t1Base + (2 * 786432 + 5) * 65536 + 0x103F) == 0xAB && Memory.read t.mem (t1Base + (2 * 786432 + 5) * 65536 + 0x1040) == 0) = true := by
  decide +kernel

/-- A fetch-add of 7 to a 64-bit number at 0x1000. -/
def faddA : Arrival := arr 8 (hdr 0x21 4 8 0x1000) (beBytes 8 7)

theorem wit_AtomicsAct_fresh : Reaches sResident faddA 0x21 (U sResident faddA 0x21) (R sResident faddA 0x21)
    ∧ isCombined (U sResident faddA 0x21) (R sResident faddA 0x21).hdr = false
    ∧ (atomicVaries 0x21 (R sResident faddA 0x21).hdr.etag && (R sResident faddA 0x21).strict) = false
    ∧ keyRevoked (U sResident faddA 0x21) (R sResident faddA 0x21).hdr = false
    ∧ homeRights (U sResident faddA 0x21) (R sResident faddA 0x21).hdr 0x1000 true false (isPinWord (U sResident faddA 0x21) (R sResident faddA 0x21).hdr 0x1000)
        = .ok 1 9
    ∧ (ledgerCheck (U sResident faddA 0x21) 0x100 1 (R sResident faddA 0x21).hdr.isRetry).2 = .fresh ∧ (R sResident faddA 0x21).poisoned = false
    ∧ pageCodec (U sResident faddA 0x21) 9 0 = 0 ∧ mustFollow (U sResident faddA 0x21) none (R sResident faddA 0x21) = false
    ∧ modeOf (U sResident faddA 0x21) (R sResident faddA 0x21).hdr 0x1000 ≠ 2 ∧ (prepareStore (U sResident faddA 0x21) 9 0).2 = .ready
    ∧ isPinWord (prepareStore (U sResident faddA 0x21) 9 0).1 (R sResident faddA 0x21).hdr 0x1000 = false
    ∧ readPiece (prepareStore (U sResident faddA 0x21) 9 0).1 [] 5 9 0 4096 (atomicBytes 0x21 0) = .data (zeros 8)
    ∧ (applyStore (prepareStore (U sResident faddA 0x21) 9 0).1 (R sResident faddA 0x21).hdr 9 0x1000 (atomicApply 0x21 0 (zeros 8) (beBytes 8 7))).2 = 0 :=
  ⟨reaches_of_good (by decide +kernel), by decide +kernel⟩

/-- The module with the atomic recorded, or its source marked expired. -/
def sLedger (hit : Bool) : State :=
  sResident.setHome { sResident.home with
    ledger := if hit then [(pairKey 0x100 1, { op := 0x21, status := 0, day := 0, result := zeros 16 })] else [], marks := if hit then [] else [(0x100, .at_ 1)] }

theorem wit_AtomicsAct_ledger : (ledgerCheck (U (sLedger true) faddA 0x21) 0x100 1 false).2 = .hit 0 (zeros 16)
    ∧ (ledgerCheck (U (sLedger false) faddA 0x21) 0x100 1 false).2 = .stale := by decide +kernel

/-- R146, R165, R167: the old value comes back; a second request with the same `SEQ` is not applied again; one at the expired mark is refused. -/
theorem test_atomic : answers (exec (.atFaddI64 faddA) sResident) 0 (zeros 8) = true
    ∧ next (exec (.atFaddI64 faddA) (sLedger true)) (fun t => t.mem.isEmpty) = true
    ∧ answers (exec (.atFaddI64 faddA) (sLedger false)) 0x21 [] = true := by decide +kernel

/-- The composition Strict, and a fetch-add of FP32. -/
def sStrict : State := sResident.setAlm { sResident.alm with cur := { alm1 with comps := [(5, { comp5 with strict := true })] } }

/-- A fetch-add of FP32. -/
def faddF : Arrival := arr 8 (hdr 0x22 4 8 0x1000) (zeros 8)

theorem wit_AtomicsAct_strict : Reaches sStrict faddF 0x22 (U sStrict faddF 0x22) (R sStrict faddF 0x22)
    ∧ atomicVaries 0x22 (R sStrict faddF 0x22).hdr.etag = true ∧ (R sStrict faddF 0x22).strict = true
    ∧ isCombined (U sStrict faddF 0x22) (R sStrict faddF 0x22).hdr = false := ⟨reaches_of_good (by decide +kernel), by decide +kernel⟩

/-- R60: `NONDETERMINISTIC` (0x13). -/
theorem test_strict : answers (exec (.atFaddF32 faddF) sStrict) 0x13 [] = true := by decide +kernel

/-- A combined fetch-add of module 2: two members. -/
def faddC : Arrival :=
  arr 8 { hdr 0x21 4 48 0x1000 with src := 2 } (words [2 * 2 ^ 56, 0, 0x100 * 2 ^ 48 + 1 * 2 ^ 16, 3, 0x100 * 2 ^ 48 + 2 * 2 ^ 16, 4])

theorem wit_AtomicsAct_combined : Reaches sResident faddC 0x21 (U sResident faddC 0x21) (R sResident faddC 0x21) ∧ isFadd 0x21 = true
    ∧ faddC.frame.hdr.opcode.toNat = 0x21 ∧ isCombined (U sResident faddC 0x21) (R sResident faddC 0x21).hdr = true
    ∧ (atomicVaries 0x21 (R sResident faddC 0x21).hdr.etag && (R sResident faddC 0x21).strict) = false
    ∧ keyRevoked (U sResident faddC 0x21) (R sResident faddC 0x21).hdr = false
    ∧ (parseMembers (R sResident faddC 0x21).payload).head?.map (·.src) = some 0x100
    ∧ homeRights (U sResident faddC 0x21) { (R sResident faddC 0x21).hdr with src := 0x100 } 0x1000 true false
        (isPinWord (U sResident faddC 0x21) (R sResident faddC 0x21).hdr 0x1000) = .ok 1 9
    ∧ (R sResident faddC 0x21).poisoned = false ∧ pageCodec (U sResident faddC 0x21) 9 0 = 0
    ∧ mustFollow (U sResident faddC 0x21) none (R sResident faddC 0x21) = false ∧ modeOf (U sResident faddC 0x21) (R sResident faddC 0x21).hdr 0x1000 ≠ 2
    ∧ (prepareStore (U sResident faddC 0x21) 9 0).2 = .ready := ⟨reaches_of_good (by decide +kernel), by decide +kernel⟩

/-- R152: the second member's old value is the first's new value. -/
theorem test_combined : answers (exec (.combinedFetchAdd faddC) sResident) 0
    (words [2 * 2 ^ 56, 0, 0x100 * 2 ^ 48 + 1 * 2 ^ 16, 0, 0x100 * 2 ^ 48 + 2 * 2 ^ 16, 3]) = true := by decide +kernel

/-- Page 0 in T1 and page 1, where a counter lies, in T0. -/
def sCopy : State :=
  s0.setHome { s0.home with exts := [(9, { ext9 with pages := [(0, pteT1), (1, { pteT1 with loc := .t0 0 0 })] })], usedT1 := [(2, [5])], usedT0 := [(0, [0])] }

/-- A copy of 64 bytes from 0 to 0x8000 with its counter at 0x10000. -/
def cpA : Arrival := arr 8 { hdr 0x30 4 64 0 with etag := 0x10000 } (words [0, 0x8000, 64 * 2 ^ 24, 0, 0, 0, 0, 0])

theorem wit_CopiesAndCounters_start : Reaches sCopy cpA 0x30 (U sCopy cpA 0x30) (R sCopy cpA 0x30) ∧ funcOn (U sCopy cpA 0x30) 5 6 = true
    ∧ keyRevoked (U sCopy cpA 0x30) (R sCopy cpA 0x30).hdr = false ∧ (R sCopy cpA 0x30).poisoned = false
    ∧ (R sCopy cpA 0x30).hdr.addr.toNat = wordAt (R sCopy cpA 0x30).payload 0 ∧ bits 63 24 (wordAt (R sCopy cpA 0x30).payload 2) ≠ 0
    ∧ homedElsewhere (U sCopy cpA 0x30) (R sCopy cpA 0x30).hdr (wordAt (R sCopy cpA 0x30).payload 0) = false
    ∧ counterOk (U sCopy cpA 0x30) (R sCopy cpA 0x30).hdr (R sCopy cpA 0x30).hdr.etag = some (9 * 2 ^ 30 + 65536) ∧ 9 * 2 ^ 30 + 65536 < 2 ^ 50 :=
  ⟨reaches_of_good (by decide +kernel), by decide +kernel⟩

/-- A piece of a copy. -/
def cpD : Arrival := arr 8 (hdr 0x31 6 64 0x1000) (filled 64 0xCD)

theorem wit_CopiesAndCounters_piece : Reaches sResident cpD 0x31 (U sResident cpD 0x31) (R sResident cpD 0x31)
    ∧ keyRevoked (U sResident cpD 0x31) (R sResident cpD 0x31).hdr = false ∧ pieceRights (U sResident cpD 0x31) (R sResident cpD 0x31) = .ok 1 9
    ∧ (R sResident cpD 0x31).poisoned = false ∧ modeOf (U sResident cpD 0x31) (R sResident cpD 0x31).hdr 0x1000 ≠ 2
    ∧ (prepareStore (U sResident cpD 0x31) 9 0).2 = .ready
    ∧ (applyStore (prepareStore (U sResident cpD 0x31) 9 0).1 (R sResident cpD 0x31).hdr 9 0x1000 (filled 64 0xCD)).2 = 0 :=
  ⟨reaches_of_good (by decide +kernel), by decide +kernel⟩

/-- The completion of a request of this module's own, from module 2. -/
def ownA (op : BitVec 8) (st : BitVec 8) : Arrival := arr 8 { hdr op 4 0 0 with src := 2, seq := 77, status := st, flags := flagResp } []

/-- The module with that request out. -/
def sOwn (why : Own) (op : BitVec 8) : State :=
  sCopy.setXb { sCopy.xb with own := [(pairKey 2 77, { why := why, dest := 2, opcode := op, addr := 0, etag := 0 })] }

theorem wit_CopiesAndCounters_end : Returns (sOwn (.piece 4 64) 0x31) (ownA 0x31 0) (returned (sOwn (.piece 4 64) 0x31) (ownA 0x31 0))
    (asCompletion (ownA 0x31 0).frame) ∧ (asCompletion (ownA 0x31 0).frame).poisoned = false
    ∧ findOwn (returned (sOwn (.piece 4 64) 0x31) (ownA 0x31 0)) (asCompletion (ownA 0x31 0).frame)
        = some (pairKey 2 77, { why := .piece 4 64, dest := 2, opcode := 0x31, addr := 0, etag := 0 }) :=
  ⟨returns_of (by decide +kernel), by decide +kernel⟩

/-- An armed wait on that counter for a target. -/
def armA (target : Nat) (wake : Nat) : Arrival := arr 8 (hdr 0x32 4 16 0x10000) (words [target, wake * 2 ^ 48 + 16])

theorem wit_CopiesAndCounters_arm : ∀ p ∈ [(0, 0), (0, 0x100), (1, 0)],
    good sCopy (armA p.1 p.2) 0x32 = true ∧ keyRevoked (U sCopy (armA p.1 p.2) 0x32) (R sCopy (armA p.1 p.2) 0x32).hdr = false
    ∧ (R sCopy (armA p.1 p.2) 0x32).poisoned = false
    ∧ counterOk (U sCopy (armA p.1 p.2) 0x32) (R sCopy (armA p.1 p.2) 0x32).hdr 0x10000 = some (9 * 2 ^ 30 + 65536)
    ∧ bits 15 0 (wordAt (R sCopy (armA p.1 p.2) 0x32).payload 1) ≠ 0 ∧ wordAt (R sCopy (armA p.1 p.2) 0x32).payload 0 = p.1
    ∧ counterAt (U sCopy (armA p.1 p.2) 0x32) 9 1 0 = 0 ∧ (U sCopy (armA p.1 p.2) 0x32).home.waits.length < 65536 := by decide +kernel

/-- R158: a target that is reached answers at once, and one that is not holds the counter's page. -/
theorem test_arm : answers (exec (.ctrArm (armA 0 0)) sCopy) 0 [] = true
    ∧ next (exec (.ctrArm (armA 1 0)) sCopy) (fun t => t.home.waits.length == 1 && (t.pte 9 1).hold == 1) = true := by decide +kernel

/-! ## Reduce -/

/-- A node of collective 1: `SUM` (R236) of INT32, two inputs, one chunk of 4 elements, its result multicast. -/
def node1 : NodeEntry where
  collId := 1
  op := 0
  inFmt := 0xA
  outFmt := 0xA
  comp := 5
  nContrib := 2
  lo := 0
  hi := 1
  chunkElems := 4
  chunks := 1
  outKind := 0
  mcast := 3
  outEp := 0
  deadline := 100
  die := false
  engMask := 1
  row := 0
  outGfa := 0
  inputs := [0, 1]

/-- The record of its chunk, with input 1 folded. -/
def record1 (folded : List Nat) : ChunkRecord where
  collId := 1
  lo := 0
  hi := 1
  step := 0
  chunk := 0
  comp := 5
  status := 0x50
  day := 0
  folded := folded
  engine := 0

/-- The module with that node, and records or none. -/
def sNode (l : KMap ChunkRecord) : State :=
  (s0.setAlm { s0.alm with cur := { alm1 with nodes := [node1], mcast := [(3, [0, 8])] } }).setEng { s0.eng with records := l }

/-- Contributor 1's four elements. -/
def contribA : Arrival :=
  arr 8 { hdr 0x40 2 16 0 with etag := BitVec.ofNat 64 (1 * 2 ^ 40 + 1) } (filled 16 1)

theorem wit_ContributionsAreFolded_tag : tagColl contribA.frame.hdr.etag = 1 ∧ tagIdx contribA.frame.hdr.etag = 1 ∧ tagChunk contribA.frame.hdr.etag = 0 := by
  decide +kernel

theorem wit_ContributionsAreFolded_contrib : ∀ l ∈ [[], [(4, record1 [1])], [(4, record1 [0])]], good (sNode l) contribA 0x40 = true
    ∧ isTransient 1 = false ∧ nodeFor (U (sNode l) contribA 0x40) 1 1 (isModule (U (sNode l) contribA 0x40) 0x100) = some node1
    ∧ (partition (U (sNode l) contribA 0x40) 5 .reduce).isEmpty = false
    ∧ dieAvail (U (sNode l) contribA 0x40) .reduce [0] 0 ≠ .absent ∧ findChunk (U (sNode l) contribA 0x40) node1 0 0 = none
    ∧ frameElems node1.op.toNat (inputCode node1 false) node1.row false 16 = some 4 ∧ keyRevoked (U (sNode l) contribA 0x40) contribA.frame.hdr = false
    ∧ findRecord (U (sNode l) contribA 0x40) node1 0 0 = l.head?.map (·.2) ∧ funcOn (U (sNode l) contribA 0x40) 5 1 = true
    ∧ shareGone (U (sNode l) contribA 0x40) (R (sNode l) contribA 0x40) .reduce [chunkEngine node1 0] = false
    ∧ queuedBefore (U (sNode l) contribA 0x40) (R (sNode l) contribA 0x40) .reduce = false
    ∧ accUsed (U (sNode l) contribA 0x40) (chunkEngine node1 0) + accBytes node1 ((U (sNode l) contribA 0x40).strict 5) ≤ 1048576 := by decide +kernel

/-- R248: one to a chunk that is closed is answered with the record's status, one that was folded with `OK`. -/
theorem test_contrib : answers (exec (.reContrib contribA) (sNode [(4, record1 [0])])) 0x50 [] = true
    ∧ answers (exec (.reContrib contribA) (sNode [(4, record1 [1])])) 0 [] = true
    ∧ next (exec (.reContrib contribA) (sNode [])) (fun t => t.eng.chunks.length == 1) = true := by decide +kernel

/-- A result that passes. -/
def resultA : Arrival := arr 8 { hdr 0x41 2 16 0 with etag := BitVec.ofNat 64 (1 * 2 ^ 40) } (filled 16 1)

theorem wit_ContributionsAreFolded_result : Lands (sNode []) (8#9).toNat (asRequest 0x41 resultA.frame) (landed (sNode []) 8 (asRequest 0x41 resultA.frame))
    (taken (sNode []) 8 (asRequest 0x41 resultA.frame))
    ∧ (landed (sNode []) 8 (asRequest 0x41 resultA.frame)).alm.cur.nodes.find? (fun n => n.collId == tagColl resultA.frame.hdr.etag && n.comp == 5)
      = some node1 := ⟨lands_of (by decide +kernel), by decide +kernel⟩

/-- A chunk opened on Day 0. -/
def chunk1 : Chunk := { node := node1, step := 0, chunk := 0, engine := 0, openDay := 0, strict := false, epoch := 0, inputs := [], search := none }

/-- The module with that chunk, the record of another, and a frame in an engine's queue. -/
def sChunk (d : Nat) : State :=
  atDay d (s0.setEng { s0.eng with chunks := [(6, chunk1)], records := [(7, record1 [])], queue := [(2, { kind := .reduce, engine := 0, req := q0 })] })

theorem wit_ContributionsAreFolded_time : KMap.find (sChunk 100).eng.chunks 6 = some chunk1 ∧ KMap.find (sChunk 100).eng.attns 6 = none
    ∧ chunk1.openDay + chunk1.node.deadline ≤ (sChunk 100).day ∧ KMap.find (sChunk 4096).eng.records 7 = some (record1 [])
    ∧ (record1 []).day + 4096 ≤ (sChunk 4096).day ∧ (sChunk 0).eng.queue = [(2, { kind := .reduce, engine := 0, req := q0 })] := by decide +kernel

/-- R248: a record goes after 4,096 Days, not before. -/
theorem test_record : next (exec (.chunkRecordExpiry 7) (sChunk 4095)) (fun t => (KMap.find t.eng.records 7).isSome) = true
    ∧ next (exec (.chunkRecordExpiry 7) (sChunk 4096)) (fun t => (KMap.find t.eng.records 7).isNone) = true := by decide +kernel

/-- A Reduce command: the sum of two operands of 4 INT32 elements each, at 0 and at 0x1000, its result returned. -/
def reA (w0 : Nat) : Arrival := arr 8 (hdr 0x42 4 128 0) (words [w0, 0, 0, 0, 0, 0, 0x1000, 0, 0, 0, 0, 0, 0, 0, 0, 0])

/-- Its first word, with the given operator. -/
def reWord (op : Nat) : Nat := op * 2 ^ 60 + 0xA * 2 ^ 56 + 0xA * 2 ^ 52 + 1 * 2 ^ 45 + 1 * 2 ^ 42 + 4

theorem wit_ReduceCommandsRun_run : Reaches s0 (reA (reWord 0)) 0x42 (U s0 (reA (reWord 0)) 0x42) (R s0 (reA (reWord 0)) 0x42)
    ∧ engineAvail (U s0 (reA (reWord 0)) 0x42) (R s0 (reA (reWord 0)) 0x42) .reduce bothDies = .run ∧ funcOn (U s0 (reA (reWord 0)) 0x42) 5 0 = true
    ∧ (R s0 (reA (reWord 0)) 0x42).poisoned = false
    ∧ reCmdOk (U s0 (reA (reWord 0)) 0x42) (R s0 (reA (reWord 0)) 0x42).hdr (parseReCmd (R s0 (reA (reWord 0)) 0x42).payload) 128 = true
    ∧ ((parseReCmd (R s0 (reA (reWord 0)) 0x42).payload).fresh && (R s0 (reA (reWord 0)) 0x42).strict) = false
    ∧ keyRevoked (U s0 (reA (reWord 0)) 0x42) (R s0 (reA (reWord 0)) 0x42).hdr = false
    ∧ queuedBefore (U s0 (reA (reWord 0)) 0x42) (R s0 (reA (reWord 0)) 0x42) .reduce = false
    ∧ engineBehind (U s0 (reA (reWord 0)) 0x42) (R s0 (reA (reWord 0)) 0x42) = false
    ∧ ((parseReCmd (R s0 (reA (reWord 0)) 0x42).payload).opnds.map (fun g =>
        readOperand (U s0 (reA (reWord 0)) 0x42) (R s0 (reA (reWord 0)) 0x42).hdr g (parseReCmd (R s0 (reA (reWord 0)) 0x42).payload).opndBytes)).flatMap (·.need) = []
    ∧ (parseReCmd (R s0 (reA (reWord 0)) 0x42).payload).ret = true := ⟨reaches_of_good (by decide +kernel), by decide +kernel⟩

/-- An operator code that R236 reserves. -/
theorem wit_ReduceCommandsRun_malformed : Reaches s0 (reA (reWord 0xF)) 0x42 (U s0 (reA (reWord 0xF)) 0x42) (R s0 (reA (reWord 0xF)) 0x42)
    ∧ reCmdOk (U s0 (reA (reWord 0xF)) 0x42) (R s0 (reA (reWord 0xF)) 0x42).hdr (parseReCmd (R s0 (reA (reWord 0xF)) 0x42).payload) 128 = false :=
  ⟨reaches_of_good (by decide +kernel), by decide +kernel⟩

/-- The composition Strict, its functions as given. -/
def sFunc (strict : Bool) (f : BitVec 8) : State :=
  s0.setAlm { s0.alm with cur := { alm1 with comps := [(5, { comp5 with strict := strict, funcEn := f })] } }

/-- The command with fresh random words. -/
def reFresh : Arrival := reA (reWord 0 + 2 ^ 48)

theorem wit_ReduceCommandsRun_fresh : Reaches (sFunc true 0xFF) reFresh 0x42 (U (sFunc true 0xFF) reFresh 0x42) (R (sFunc true 0xFF) reFresh 0x42)
    ∧ (parseReCmd (R (sFunc true 0xFF) reFresh 0x42).payload).fresh = true ∧ (R (sFunc true 0xFF) reFresh 0x42).strict = true
    ∧ reCmdOk (U (sFunc true 0xFF) reFresh 0x42) (R (sFunc true 0xFF) reFresh 0x42).hdr (parseReCmd (R (sFunc true 0xFF) reFresh 0x42).payload) 128 = true
    ∧ engineAvail (U (sFunc true 0xFF) reFresh 0x42) (R (sFunc true 0xFF) reFresh 0x42) .reduce bothDies = .run := ⟨reaches_of_good (by decide +kernel), by decide +kernel⟩

theorem wit_ReduceCommandsRun_off : Reaches (sFunc false 0) (reA 0) 0x42 (U (sFunc false 0) (reA 0) 0x42) (R (sFunc false 0) (reA 0) 0x42)
    ∧ engineAvail (U (sFunc false 0) (reA 0) 0x42) (R (sFunc false 0) (reA 0) 0x42) .reduce bothDies = .run ∧ funcOn (U (sFunc false 0) (reA 0) 0x42) 5 0 = false :=
  ⟨reaches_of_good (by decide +kernel), by decide +kernel⟩

/-- R86, R261: the sum of zeros, a reserved operator, fresh words in Strict mode, and the function off. -/
theorem test_reduce : answers (exec (.reCmd (reA (reWord 0))) s0) 0 (zeros 16) = true ∧ answers (exec (.reCmd (reA (reWord 0xF))) s0) 0x10 [] = true
    ∧ answers (exec (.reCmd reFresh) (sFunc true 0xFF)) 0x13 [] = true ∧ answers (exec (.reCmd (reA 0)) (sFunc false 0)) 0x11 [] = true := by
  decide +kernel

/-! ## Search -/

/-- The warren of `spec1` at this module: partition 0 in extent 0. -/
def warren1 : Warren := { spec := { spec1 with runs := [{ run1 with extFirst := 0 }] }, pFirst := 0, pLocal := 1, inIdx := 0, spareA := 2, spareB := 3, extFirst := 0 }

/-- Its partition, empty. -/
def part1 : Part := { ext := 0, gen := 0, body := [], side := [], bitmap := [], pend := [], dir := [], harvesting := false }

/-- The module with that warren. -/
def sWarren : State :=
  s0.setEng { s0.eng with warrens := [(warrenKey 5 1, warren1)], parts := [(partKey 5 1 0, part1)],
                          spares := [(spareKey (warrenKey 5 1) 0, 2)] }

/-- A search for the best of one inline query. -/
def searchA : Arrival :=
  arr 8 { hdr 0x48 4 80 0 with etag := BitVec.ofNat 64 (1 * 2 ^ 40) } (words [1 * 2 ^ 45 + 15 * 2 ^ 36 + 2 ^ 35 + 1 * 2 ^ 16, 0, 0, 0, 0, 0, 0, 0] ++ filled 16 1)

theorem wit_SearchesAndUpdatesProceed_search : Reaches sWarren (searchArrival 0 searchA) 0x48 (U sWarren (searchArrival 0 searchA) 0x48)
      (R sWarren (searchArrival 0 searchA) 0x48)
    ∧ engineAvail (U sWarren (searchArrival 0 searchA) 0x48) (R sWarren (searchArrival 0 searchA) 0x48) .score (warrenDies (U sWarren (searchArrival 0 searchA) 0x48) 5 1) = .run ∧ funcOn (U sWarren (searchArrival 0 searchA) 0x48) 5 2 = true
    ∧ (R sWarren (searchArrival 0 searchA) 0x48).poisoned = false ∧ 64 ≤ (R sWarren (searchArrival 0 searchA) 0x48).payload.length
    ∧ bits 63 62 (wordAt (R sWarren (searchArrival 0 searchA) 0x48).payload 0) = 0
    ∧ findWarren (U sWarren (searchArrival 0 searchA) 0x48) 5 (.ofNat 24 (bits 63 40 (R sWarren (searchArrival 0 searchA) 0x48).hdr.etag.toNat)) = some warren1
    ∧ searchOk (U sWarren (searchArrival 0 searchA) 0x48) (R sWarren (searchArrival 0 searchA) 0x48) warren1 = true
    ∧ keyRevoked (U sWarren (searchArrival 0 searchA) 0x48) (R sWarren (searchArrival 0 searchA) 0x48).hdr = false
    ∧ (reqUnits (U sWarren (searchArrival 0 searchA) 0x48) (R sWarren (searchArrival 0 searchA) 0x48) .reduce).isEmpty = false
    ∧ queuedBefore (U sWarren (searchArrival 0 searchA) 0x48) (R sWarren (searchArrival 0 searchA) 0x48) .score = false
    ∧ warren1.spec.runs.length ≤ 1 ∧ bit 35 (wordAt (R sWarren (searchArrival 0 searchA) 0x48).payload 0) = true :=
  ⟨reaches_of_good (by decide +kernel), by decide +kernel⟩

/-- An insert or delete of entry 9. -/
def updateA (kind : Nat) : Arrival :=
  arr 8 { hdr 0x48 4 88 0 with etag := BitVec.ofNat 64 (1 * 2 ^ 40) } (words [kind * 2 ^ 62 + 1 * 2 ^ 16, 0, 0, 0, 0, 0, 0, 0, 9] ++ filled 16 1)

theorem wit_SearchesAndUpdatesProceed_update : ∀ k ∈ [1, 2], good sWarren (searchArrival k (updateA k)) 0x48 = true
    ∧ engineAvail (U sWarren (searchArrival k (updateA k)) 0x48) (R sWarren (searchArrival k (updateA k)) 0x48) .score (warrenDies (U sWarren (searchArrival k (updateA k)) 0x48) 5 1) = .run ∧ funcOn (U sWarren (searchArrival k (updateA k)) 0x48) 5 2 = true
    ∧ (R sWarren (searchArrival k (updateA k)) 0x48).poisoned = false ∧ 64 ≤ (R sWarren (searchArrival k (updateA k)) 0x48).payload.length
    ∧ updateOk (R sWarren (searchArrival k (updateA k)) 0x48) = true
    ∧ bits 63 62 (wordAt (R sWarren (searchArrival k (updateA k)) 0x48).payload 0) = k
    ∧ findWarren (U sWarren (searchArrival k (updateA k)) 0x48) 5 1 = some warren1
    ∧ (parseItems warren1.spec (k == 1) 1 ((R sWarren (searchArrival k (updateA k)) 0x48).payload.drop 64)).map (·.2.id) = [9]
    ∧ partitionOf 9 warren1.spec.pTotal.toNat = 0
    ∧ 64 + itemsBytes warren1.spec (k == 1) 1 ≤ (R sWarren (searchArrival k (updateA k)) 0x48).payload.length
    ∧ (KMap.find (U sWarren (searchArrival k (updateA k)) 0x48).eng.parts (partKey 5 1 0)).isSome = true
    ∧ keyRevoked (U sWarren (searchArrival k (updateA k)) 0x48) (R sWarren (searchArrival k (updateA k)) 0x48).hdr = false := by decide +kernel

/-- A search admitted with that request. -/
def search1 (started : Bool) : Search where
  req := R sWarren (searchArrival 0 searchA) 0x48
  coordinator := true
  mergeId := 0
  mergeEp := 1
  inIdx := 0
  snap := 0
  started := started
  done := false
  views := if started then [(0, part1)] else []
  lists := []
  statuses := []
  deadline := 100

/-- The module with that search, and an update that waits. -/
def sSearch (started : Bool) (d : Nat) : State :=
  atDay d (sWarren.setEng { sWarren.eng with
    searches := [(5, search1 started)],
    updates := [(6, { req := q0, part := partKey 5 1 0, items := [], stamp := 1, count := 0, day := 0 })] })

theorem wit_SearchesAndUpdatesProceed_start : KMap.find (sSearch false 0).eng.searches 5 = some (search1 false)
    ∧ findWarren (sSearch false 0) 5 (.ofNat 24 (bits 63 40 (search1 false).req.hdr.etag.toNat)) = some warren1 ∧ (search1 false).started = false
    ∧ (∀ q ∈ (sSearch false 0).eng.updates, q.2.part / 2 ^ 16 = warrenKey 5 1 → (search1 false).snap < q.2.stamp)
    ∧ (ownExtent (sSearch false 0) 5 part1.ext).isSome = true := by decide +kernel

theorem wit_SearchesAndUpdatesProceed_end : KMap.find (sSearch true 0).eng.searches 5 = some (search1 true) ∧ (search1 true).started = true
    ∧ (search1 true).done = false ∧ (search1 true).coordinator = true ∧ warren1.spec.runs.length ≤ 1
    ∧ (scanLists (sSearch true 0) (search1 true) warren1.spec).2.1.toNat < 0x10 := by decide +kernel

theorem wit_SearchesAndUpdatesProceed_time : ∃ x : HeldUpdate, KMap.find (sSearch true 1024).eng.updates 6 = some x ∧ x.day + 1024 ≤ (sSearch true 1024).day :=
  ⟨_, rfl, by decide +kernel⟩

/-- R276: an insert is answered and its entry is in the side list, for the Day after. -/
theorem test_insert : answers (exec (.warrenInsert (updateA 1)) sWarren) 0 [] = true
    ∧ next (exec (.warrenInsert (updateA 1)) sWarren) (fun t => (KMap.find t.eng.parts (partKey 5 1 0)).any (fun p => p.side.map (fun e => (e.1.id, e.2)) == [(9, 1)]))
      = true := by decide +kernel

/-- The partition with one side entry for each of its 16 places. -/
def partFull : Part := { part1 with side := List.replicate 8 ({ id := 9, vec := [], attr := [] }, 1) }

/-- The module with that partition: half full, `HARVEST_FILL` 4. -/
def sHarvest (h : KMap HarvestSt) : State := sWarren.setEng { sWarren.eng with parts := [(partKey 5 1 0, partFull)], harvests := h }

theorem wit_HarvestsProceed_start : KMap.find (sHarvest []).eng.parts (partKey 5 1 (0#16).toNat) = some partFull
    ∧ KMap.find (sHarvest []).eng.warrens (partKey 5 1 (0#16).toNat / 2 ^ 16) = some warren1 ∧ harvestDue (sHarvest []) (partKey 5 1 (0#16).toNat) = true
    ∧ (sHarvest []).eng.harvests = [] ∧ (sHarvest []).eng.parts = [(partKey 5 1 (0#16).toNat, partFull)]
    ∧ (KMap.find (sHarvest []).eng.spares (spareKey (partKey 5 1 (0#16).toNat / 2 ^ 16) (extentDie (sHarvest []) 5 partFull.ext))).isSome = true := by
  decide +kernel

/-- A Harvest of it, and one whose flip is past. -/
def harvest1 (old : Option (Nat × BitVec 6)) : HarvestSt :=
  { part := partKey 5 1 0, die := 0, lineDay := 0, start := partFull, next := none, oldExt := old }

theorem wit_HarvestsProceed_copy : harvestOn (sHarvest [(3, harvest1 none)]) (b2n false) = some (3, harvest1 none)
    ∧ KMap.find (sHarvest [(3, harvest1 none)]).eng.parts (harvest1 none).part = some partFull
    ∧ KMap.find (sHarvest [(3, harvest1 none)]).eng.warrens ((harvest1 none).part / 2 ^ 16) = some warren1 := by decide +kernel

theorem wit_HarvestsProceed_release : (sHarvest [(3, harvest1 (some (0, 0)))]).eng.harvests = [(3, harvest1 (some (0, 0)))]
    ∧ (harvest1 (some (0, 0))).oldExt = some (0, 0) ∧ (harvest1 (some (0, 0))).die = b2n false
    ∧ (sHarvest [(3, harvest1 (some (0, 0)))]).eng.searches.any (fun x => x.2.views.any (fun v => v.2.ext == 0 && v.2.gen == 0)) = false := by
  decide +kernel

/-! ## KV pages, attention and gathers -/

/-- A record open with one layer, one head and dimension 16 of BF16. -/
def seq1 : SeqRec := { SeqRec.empty 5 with state := 1, nLayers := 1, hKv := 1, headDim := 16, fmt := 2, tpp := 16, stride := 4 }

/-- A row of a table of 4 rows of 16 FP32 elements at 0x2000, and a graph at 0x3000. -/
def object1 (graph : Bool) : GatherObj := { obj := if graph then 2 else 1, graph := graph, fmt := 0, rowElems := 16, count := 4, base := 0x2000, edges := 0x3000, delmap := 0 }

/-- The module with extent 0 as a KV pool, a table and a graph, and records. -/
def sKv (l : KMap SeqRec) : State :=
  (s0.setAlm { s0.alm with cur := { alm1 with comps := [(5, { comp5 with kvPool := [0], objects := [object1 false, object1 true] })] } }).setEng
    { s0.eng with seqs := l }

/-- An append to record 3: 64 bytes. -/
def appendA : Arrival := arr 8 (hdr 0x15 4 64 0x3000) (filled 64 1)

theorem wit_KvCommandsAct_append : Reaches (sKv [(seqKey 5 3, seq1)]) appendA 0x15 (U (sKv [(seqKey 5 3, seq1)]) appendA 0x15) (R (sKv [(seqKey 5 3, seq1)]) appendA 0x15)
    ∧ funcOn (U (sKv [(seqKey 5 3, seq1)]) appendA 0x15) 5 4 = true
    ∧ keyRevoked (U (sKv [(seqKey 5 3, seq1)]) appendA 0x15) (R (sKv [(seqKey 5 3, seq1)]) appendA 0x15).hdr = false
    ∧ homeRights (U (sKv [(seqKey 5 3, seq1)]) appendA 0x15) (R (sKv [(seqKey 5 3, seq1)]) appendA 0x15).hdr 0x3000 true true false = .ok 1 9
    ∧ (R (sKv [(seqKey 5 3, seq1)]) appendA 0x15).poisoned = false ∧ (0x3000#64).toNat % 4096 = 0 ∧ (0x3000#64).toNat % 2 ^ 30 < 64 * 65536
    ∧ (seqHome (U (sKv [(seqKey 5 3, seq1)]) appendA 0x15) 5 (extOf 0x3000 * 1024 + (0x3000#64).toNat % 2 ^ 30 / 4096)).isSome = true
    ∧ funcOn (U (sFunc false 0) appendA 0x15) 5 4 = false ∧ good (sFunc false 0) appendA 0x15 = true :=
  ⟨reaches_of_good (by decide +kernel), by decide +kernel⟩

/-- A control command on record 3: the layout of `seq1` in words 1 and 2. -/
def kvA (kind : Nat) : Arrival :=
  attnArrival kind (arr 8 { hdr 0x49 4 64 0 with etag := BitVec.ofNat 64 (3 * 2 ^ 32) } (words [kind * 2 ^ 61, 16 * 2 ^ 38 + 2 * 2 ^ 35 + 16 * 2 ^ 19 + 4 * 2 ^ 3, 0, 0, 0, 0, 0, 0]))

theorem wit_KvCommandsAct_control : ∀ k ∈ [1, 2, 3, 4], good (sKv []) (kvA k) 0x49 = true ∧ bits 63 61 (wordAt (R (sKv []) (kvA k) 0x49).payload 0) = k
    ∧ funcOn (U (sKv []) (kvA k) 0x49) 5 4 = true ∧ (R (sKv []) (kvA k) 0x49).poisoned = false ∧ (seqHome (U (sKv []) (kvA k) 0x49) 5 3).isSome = true
    ∧ 64 ≤ (R (sKv []) (kvA k) 0x49).payload.length ∧ keyRevoked (U (sKv []) (kvA k) 0x49) (R (sKv []) (kvA k) 0x49).hdr = false
    ∧ good (sFunc false 0) (kvA k) 0x49 = true ∧ funcOn (U (sFunc false 0) (kvA k) 0x49) 5 4 = false := by decide +kernel

/-- The create as the record's home holds it. -/
def qKv (k : Nat) : Req := R (sKv []) (kvA k) 0x49

theorem wit_KvCommandsAct_run : ∃ t bs, runKv (sKv []) (qKv 1) 3 = .done t 0 bs ∧ runCreate (sKv []) (qKv 1) 3 = .done t 0 bs
    ∧ (seqOf (sKv []) (qKv 1).hdr.comp 3).state ≠ 1 := ⟨_, _, rfl, rfl, by decide +kernel⟩

theorem wit_KvCommandsAct_record : (seqOf (sKv []) (qKv 3).hdr.comp 3).state ≠ 1
    ∧ (seqOf (sKv [(seqKey 5 3, { seq1 with scans := 1 })]) (qKv 4).hdr.comp 3).state = 1
    ∧ (seqOf (sKv [(seqKey 5 3, { seq1 with scans := 1 })]) (qKv 4).hdr.comp 3).scans > 0 := by decide +kernel

/-- One command in a record's line since Day 0. -/
def sLine (d : Nat) : State := atDay d ((sKv []).setEng { (sKv []).eng with kvHeld := [(5, { req := qKv 1, seqId := 3, day := 0 })] })

theorem wit_KvCommandsAct_line : ∃ t bs, (sLine 0).eng.kvHeld = [(5, { req := qKv 1, seqId := 3, day := 0 })]
    ∧ runKv (sLine 0) (qKv 1) 3 = .done t 0 bs ∧ KMap.find (sLine 1024).eng.kvHeld 5 = some { req := qKv 1, seqId := 3, day := 0 }
    ∧ 0 + 1024 ≤ (sLine 1024).day := ⟨_, _, rfl, rfl, by decide +kernel, by decide +kernel⟩

/-- R301, R308: the create answers word 0 of its record and two zero lengths; the record is open. -/
theorem test_kv_create : next (exec (.kvCreate (kvA 1)) (sKv [])) (fun t => (seqOf t 5 3).state == 1 && (seqOf t 5 3).headDim == 16 && t.eng.kvHeld.isEmpty)
    = true := by decide +kernel

/-- R310: a truncate of a record that is not open. -/
theorem test_kv_truncate : answers (exec (.kvTruncate (kvA 3)) (sKv [])) 0x10 [] = true := by decide +kernel

/-- An attention request over record 3, homed here, with one BF16 query inline, result to the completion. -/
def attnA : Arrival :=
  attnArrival 0 (arr 8 { hdr 0x49 4 104 0 with etag := BitVec.ofNat 64 (3 * 2 ^ 32) }
    (words [2 * 2 ^ 40 + 2 ^ 34 + 1 * 2 ^ 16, 0, 0, 0x3F800000 * 2 ^ 32, 0, 0, 0, 0, 3 * 2 ^ 32 + 1 * 2 ^ 16] ++ filled 32 0))

/-- The module with record 3 open. -/
def sAttn : State := sKv [(seqKey 5 3, seq1)]

theorem wit_AttentionProceeds_open : Reaches sAttn (attnArrival 0 attnA) 0x49 (U sAttn (attnArrival 0 attnA) 0x49) (R sAttn (attnArrival 0 attnA) 0x49)
    ∧ bits 63 61 (wordAt (R sAttn (attnArrival 0 attnA) 0x49).payload 0) = 0 ∧ engineAvail (U sAttn (attnArrival 0 attnA) 0x49) (R sAttn (attnArrival 0 attnA) 0x49) .score (seqDies (U sAttn (attnArrival 0 attnA) 0x49) 5 3) = .run
    ∧ funcOn (U sAttn (attnArrival 0 attnA) 0x49) 5 3 = true ∧ (R sAttn (attnArrival 0 attnA) 0x49).poisoned = false
    ∧ attnHead (R sAttn (attnArrival 0 attnA) 0x49).payload ≤ (R sAttn (attnArrival 0 attnA) 0x49).payload.length
    ∧ wordAt (R sAttn (attnArrival 0 attnA) 0x49).payload 6 / 2 ^ 16 = 0 ∧ wordAt (R sAttn (attnArrival 0 attnA) 0x49).payload 7 / 2 ^ 46 = 0
    ∧ keyRevoked (U sAttn (attnArrival 0 attnA) 0x49) (R sAttn (attnArrival 0 attnA) 0x49).hdr = false
    ∧ attnSegs (R sAttn (attnArrival 0 attnA) 0x49).payload = [(3, (U sAttn (attnArrival 0 attnA) 0x49).self)]
    ∧ segRights (U sAttn (attnArrival 0 attnA) 0x49) (R sAttn (attnArrival 0 attnA) 0x49).hdr 3 = true
    ∧ (seqHome (U sAttn (attnArrival 0 attnA) 0x49) 5 3).isSome = true
    ∧ attnFits seq1 (wordAt (R sAttn (attnArrival 0 attnA) 0x49).payload 0) (bits 31 24 (R sAttn (attnArrival 0 attnA) 0x49).hdr.etag.toNat) = true
    ∧ bit 39 (wordAt (R sAttn (attnArrival 0 attnA) 0x49).payload 0) = false
    ∧ bits 31 16 (wordAt (R sAttn (attnArrival 0 attnA) 0x49).payload 0) = 1
    ∧ queuedBefore (U sAttn (attnArrival 0 attnA) 0x49) (R sAttn (attnArrival 0 attnA) 0x49) .score = false
    ∧ (reqUnits (U sAttn (attnArrival 0 attnA) 0x49) (R sAttn (attnArrival 0 attnA) 0x49) .reduce).isEmpty = false
    ∧ wordAt (R sAttn (attnArrival 0 attnA) 0x49).payload 5 = 0 ∧ attnHeads (wordAt (R sAttn (attnArrival 0 attnA) 0x49).payload 0) * lseBytesLen 16 ≤ 4096
    ∧ bit 34 (wordAt (R sAttn (attnArrival 0 attnA) 0x49).payload 0) = true
    ∧ attnHead (R sAttn (attnArrival 0 attnA) 0x49).payload + 32 ≤ (R sAttn (attnArrival 0 attnA) 0x49).payload.length
    ∧ (openTransients (U sAttn (attnArrival 0 attnA) 0x49)).length < 256 := ⟨reaches_of_good (by decide +kernel), by decide +kernel⟩

/-- A scan of record 3, or of one outside the rights. -/
def scan1 (seq : Nat) (started : Bool) : KvScan where
  req := R sAttn (attnArrival 0 attnA) 0x49
  seqId := seq
  layer := 0
  coordinator := some 2
  mergeId := 7
  mergeEp := 1
  segIdx := 0
  last := true
  started := started
  ended := 0
  queries := filled 32 0
  assembly := false
  deadline := 100

/-- The request at its coordinator. -/
def attn1 : Attn where
  req := R sAttn (attnArrival 0 attnA) 0x49
  mergeId := 7
  segs := 1
  heads := 1
  row := 16
  final := false
  outFmt := 0
  outGfa := 0
  partials := []
  deadline := 100
  strict := false

/-- The module with that scan and that request. -/
def sScan (k : KvScan) : State := sAttn.setEng { sAttn.eng with kvScans := [(4, k)], attns := [(2, attn1)] }

theorem wit_AttentionProceeds_start : KMap.find (sScan (scan1 0xFFFFFFFF false)).eng.kvScans 4 = some (scan1 0xFFFFFFFF false)
    ∧ (scan1 0xFFFFFFFF false).assembly = false ∧ (scan1 0xFFFFFFFF false).started = false ∧ (scan1 0xFFFFFFFF false).seqId = 0xFFFFFFFF
    ∧ scanReady (sScan (scan1 0xFFFFFFFF false)) 4 (scan1 0xFFFFFFFF false) = true
    ∧ engineAvail (sScan (scan1 0xFFFFFFFF false)) (scan1 0xFFFFFFFF false).req .score (seqDies (sScan (scan1 0xFFFFFFFF false)) 5 0xFFFFFFFF) ≠ .wait := by decide +kernel

theorem wit_AttentionProceeds_end : KMap.find (sScan (scan1 3 true)).eng.kvScans 4 = some (scan1 3 true) ∧ (scan1 3 true).assembly = false
    ∧ (scan1 3 true).started = true ∧ (sScan (scan1 3 true)).home.operandWaits = [] ∧ (scanRecords (sScan (scan1 3 true)) (scan1 3 true)).2.toNat < 0x10
    ∧ (scan1 3 true).coordinator = some 2 ∧ (scan1 3 true).seqId ≠ 0xFFFFFFFF := by decide +kernel

/-- A partial of module 2, whole or poisoned. -/
def partialA (p : Bool) : Arrival :=
  { arr 8 { hdr 0x4A 5 80 0 with src := 2, etag := 7 } (zeros 80) with
    frame := { frameOf { hdr 0x4A 5 80 0 with src := 2, etag := 7 } (zeros 80) with poisoned := p } }

theorem wit_AttentionProceeds_partial (p : Bool) : Lands (sScan (scan1 3 true)) (8#9).toNat (asRequest 0x4A (partialA p).frame)
      (landed (sScan (scan1 3 true)) 8 (asRequest 0x4A (partialA p).frame)) (taken (sScan (scan1 3 true)) 8 (asRequest 0x4A (partialA p).frame))
    ∧ KMap.first? (landed (sScan (scan1 3 true)) 8 (asRequest 0x4A (partialA p).frame)).eng.attns (fun _ y => y.mergeId == bits 23 0 (7#64).toNat)
        = some (2, attn1)
    ∧ attn1.req.hdr.comp = 5 ∧ (taken (sScan (scan1 3 true)) 8 (asRequest 0x4A (partialA p).frame)).poisoned = p
    ∧ (taken (sScan (scan1 3 true)) 8 (asRequest 0x4A (partialA p).frame)).edge = false
    ∧ (taken (sScan (scan1 3 true)) 8 (asRequest 0x4A (partialA p).frame)).hdr.status.toNat < 0x10 :=
  ⟨lands_of (by cases p <;> decide +kernel), by cases p <;> decide +kernel⟩

/-- A partial that an endpoint sends to this module. -/
def partialE : Frame := asRequest 0x4A (frameOf { hdr 0x4A 5 80 0 with etag := 7 } (zeros 80))

theorem wit_AttentionProceeds_edge :
    (let s := sScan (scan1 3 true)
     let r := portReq s bindE 0 none partialE
     Lands s (0#9).toNat partialE (doneWith (frameHeard s 0 r.hdr) r) r ∧ r.edge = true ∧ attn1.req.hdr.comp = r.hdr.comp
       ∧ KMap.first? (doneWith (frameHeard s 0 r.hdr) r).eng.attns (fun _ y => y.mergeId == bits 23 0 r.hdr.etag.toNat) = some (2, attn1)) :=
  ⟨⟨bindE, by decide +kernel, by decide +kernel, rfl, by decide +kernel, by decide +kernel, .inl (by decide +kernel), .inr (by decide +kernel),
    .inr (.inl (by decide +kernel)), rfl⟩, by decide +kernel⟩

/-- A gather, scatter or bag of one row of the table, its lists inline. -/
def gatherA (op : BitVec 8) (i : Nat) : Arrival :=
  arr 8 { hdr op 4 144 0 with etag := BitVec.ofNat 64 (1 * 2 ^ 40) } (words [2 ^ 24 + 1, 0, 0, 0, 0, 0, 0, 0] ++ beBytes 4 i ++ zeros 4
    ++ (if op = 0x52 then beBytes 4 0 ++ beBytes 4 1 else zeros 8) ++ filled 64 0)

/-- What R343 checks of it, and its lists. -/
def gatherHyp (s : State) (op : BitVec 8) (i : Nat) : Bool :=
  let a := gatherA op i
  let u := U s a op.toNat
  let r := R s a op.toNat
  let d := parseGather r.payload
  let o := object1 false
  let lists := gatherLists u r d o
  good s a op.toNat && findObject u r.hdr false == some o
    && (gatherChecks u none r 5 d.deadline (gatherDies u r (some o)) (decide (64 ≤ r.payload.length) && gatherOk u r.hdr d o r.payload.length)).isNone
    && (lists.flatMap (·.need)).isEmpty && lists.all (fun l => l.status == 0)
    && wordsOf d.idxBytes ((lists.map (·.bytes)).getD 0 []) == [i]
    && (op != 0x52 || offsetsOk d.n (wordsOf 4 ((lists.map (·.bytes)).getD 2 [])))
    && (op != 0x51 || (readyRows u r.hdr o [i]).2 == none)
    && ((readOperand u r.hdr (o.base + i * o.stride) o.stride).need.isEmpty && (readOperand u r.hdr (o.base + i * o.stride) o.stride).status == 0)

theorem wit_GathersRun_gather : gatherHyp (sKv []) 0x50 3 = true ∧ gatherHyp (sKv []) 0x51 3 = true ∧ gatherHyp (sKv []) 0x52 3 = true ∧ 3 < (object1 false).count := by decide +kernel

theorem wit_GathersRun_outside : good (sKv []) (gatherA 0x50 4) 0x50 = true ∧ 4 ≥ (object1 false).count := by decide +kernel

/-- R330: the last row of the table, and an index that is not in it. -/
theorem test_gather : answers (exec (.geGather (gatherA 0x50 3)) (sKv [])) 0 (zeros 64) = true
    ∧ answers (exec (.geGather (gatherA 0x50 4)) (sKv [])) 0x10 [] = true := by decide +kernel

/-- A walk of one hop from node 0 of the graph. -/
def walkA : Arrival :=
  arr 8 { hdr 0x54 4 72 0 with etag := BitVec.ofNat 64 (2 * 2 ^ 40) } (words [1 * 2 ^ 39 + 2 ^ 38 + 1 * 2 ^ 16, 1 * 2 ^ 48, 0, 0, 0, 0, 0, 0] ++ zeros 8)

theorem wit_GathersRun_walk : Reaches (sKv []) walkA 0x54 (U (sKv []) walkA 0x54) (R (sKv []) walkA 0x54)
    ∧ findObject (U (sKv []) walkA 0x54) (R (sKv []) walkA 0x54).hdr true = some (object1 true)
    ∧ (gatherChecks (U (sKv []) walkA 0x54) none (R (sKv []) walkA 0x54) 5 (parseWalk (R (sKv []) walkA 0x54).payload).deadline
        (gatherDies (U (sKv []) walkA 0x54) (R (sKv []) walkA 0x54) (some (object1 true)))
        (walkOk (U (sKv []) walkA 0x54) (R (sKv []) walkA 0x54).hdr (parseWalk (R (sKv []) walkA 0x54).payload) 72)).isNone = true
    ∧ (parseWalk (R (sKv []) walkA 0x54).payload).inl = true ∧ (parseWalk (R (sKv []) walkA 0x54).payload).outGfa = 0
    ∧ (wordsOf 4 (((R (sKv []) walkA 0x54).payload.drop 64).take 4)).any (fun n => decide (n ≥ (object1 true).count)) = false
    ∧ (runWalk (U (sKv []) walkA 0x54) (R (sKv []) walkA 0x54).hdr (object1 true) (parseWalk (R (sKv []) walkA 0x54).payload) [0]).need = []
    ∧ (runWalk (U (sKv []) walkA 0x54) (R (sKv []) walkA 0x54).hdr (object1 true) (parseWalk (R (sKv []) walkA 0x54).payload) [0]).status.toNat < 0x10 :=
  ⟨reaches_of_good (by decide +kernel), by decide +kernel⟩

/-- The module with record 3 open and a counter in T0 on page 1. -/
def sAsm : State := sAttn.setHome { sCopy.home with exts := sCopy.home.exts }

/-- An assembly of positions 0 to 3 of record 3. -/
def asmA : Arrival :=
  arr 8 { hdr 0x53 4 64 0 with etag := BitVec.ofNat 64 (3 * 2 ^ 32) } (words [1 * 2 ^ 16, 3, 0, 0x10000, 0, 0, 0, 0])

theorem wit_GathersRun_kvasm : Reaches sAsm asmA 0x53 (U sAsm asmA 0x53) (R sAsm asmA 0x53)
    ∧ 64 ≤ (R sAsm asmA 0x53).payload.length ∧ segRights (U sAsm asmA 0x53) (R sAsm asmA 0x53).hdr 3 = true
    ∧ (gatherChecks (U sAsm asmA 0x53) none (R sAsm asmA 0x53) 4 (bits 31 16 (wordAt (R sAsm asmA 0x53).payload 0))
        (dieOfPort (R sAsm asmA 0x53).port :: seqDies (U sAsm asmA 0x53) 5 3)
        (kvasmOk (U sAsm asmA 0x53) (R sAsm asmA 0x53).hdr (R sAsm asmA 0x53).payload)).isNone = true := ⟨reaches_of_good (by decide +kernel), by decide +kernel⟩

theorem wit_GathersRun_deadline : ∃ w : GatherWait,
    KMap.find (atDay 12 (s0.setEng { s0.eng with gwaits := [(3, { req := q0, deadline := 12 })] })).eng.gwaits 3 = some w ∧ w.deadline ≤ 12 :=
  ⟨_, rfl, Nat.le_refl _⟩

/-! ## Completions, coded groups, the Chronicle and health -/

theorem wit_CompletionsEndWaits_own : ∀ w ∈ [Own.binv (9 * 2 ^ 23) 2, .fetch 4, .combine 3],
    findOwn (returned (sOwn w 0x18) (ownA 0x18 0)) (asCompletion (ownA 0x18 0).frame)
      = some (pairKey 2 77, { why := w, dest := 2, opcode := 0x18, addr := 0, etag := 0 })
    ∧ ((sOwn w 0x18).bind (8#9).toNat == some bindF && portLive (sOwn w 0x18) (8#9).toNat && (asCompletion (ownA 0x18 0).frame).hdr.dest == (sOwn w 0x18).self)
      = true ∧ (asCompletion (ownA 0x18 0).frame).poisoned = false := by decide +kernel

theorem wit_CompletionsEndWaits_fetch :
    (let s := (sOwn (.fetch 4) 0x10).setHome { (sOwn (.fetch 4) 0x10).home with fetches := [(4, fetch0)] }
     Returns s (ownA 0x10 0) (returned s (ownA 0x10 0)) (asCompletion (ownA 0x10 0).frame) ∧ KMap.find (returned s (ownA 0x10 0)).home.fetches 4 = some fetch0) :=
  ⟨returns_of (by decide +kernel), by rfl⟩

/-- One holder left of a line. -/
def sBinv : State :=
  s0.setHome { s0.home with binv := [(9 * 2 ^ 23, binv0)], dir := [(9 * 2 ^ 23, { state := .o, holders := [0x101], broadcast := false, age := 0 })] }

theorem wit_CompletionsEndWaits_line : ∃ d : DirEntry, KMap.find sBinv.home.binv (9 * 2 ^ 23) = some binv0 ∧ binv0.await = [0x101]
    ∧ KMap.find sBinv.home.dir (9 * 2 ^ 23) = some d ∧ (d.state = .o ∨ binv0.evict = true) := ⟨_, rfl, rfl, rfl, .inl rfl⟩

/-- A completion of module 2 for endpoint 0x100, whose first hop this is. -/
def passA : Arrival := arr 8 { hdr 0x10 4 64 0 with src := 2, dest := 0x100, flags := flagResp } (zeros 64)

theorem wit_CompletionsEndWaits_pass : s0.bind passA.port.toNat = some bindF ∧ bindF.fabric = true ∧ portLive s0 passA.port.toNat = true
    ∧ (asCompletion passA.frame).hdr.dest ≠ s0.self ∧ localPort s0 (asCompletion passA.frame).hdr.dest = some 0
    ∧ (let r := portReq s0 bindF 8 none (asCompletion passA.frame)
       nextPort (endOut (frameHeard s0 8 r.hdr) (reqFrame r)) r.hdr.src r.hdr.dest r.hdr.cls = some 0) :=
  ⟨by decide +kernel, by decide +kernel, by decide +kernel, by decide +kernel, by decide +kernel, by decide +kernel⟩

/-- An open combine entry of a read or a fetch-add, its window over. -/
def combine1 (read : Bool) : Combine :=
  { isRead := read, members := [q0], egress := 8, line := 0, opened := 0, sentSeq := none, home := 2, isOpen := true }

/-- The module with that entry. -/
def sWindow (read : Bool) : State := atDay 1 (s0.setXb { s0.xb with combine := [(3, combine1 read)] })

theorem wit_CompletionsEndWaits_window : ∀ b ∈ [true, false], KMap.find (sWindow b).xb.combine 3 = some (combine1 b) ∧ (combine1 b).isOpen = true
    ∧ (combine1 b).opened + ((sWindow b).port (combine1 b).egress).w ≤ (sWindow b).now ∧ (combine1 b).isRead = b := by decide +kernel

/-- A coded flow of two data members, decoded here: they arrive at cycles 10 and 11 of ports 0 and 16, the parity at cycle 12 of port 8. -/
def flow1 : Flow where
  comp := 5
  src := 0x200
  dst := 0x100
  inPort := 0
  outPorts := [0]
  latency := 0
  expected := []
  ecK := 2
  encoder := 0
  sends := []
  decoder := 1
  targets := []
  members := [(0, 10), (16, 11), (8, 12)]

/-- A member's frame. -/
def memberF : Frame := frameOf (hdr 0x14 0 64 0x1000) (filled 64 2)

/-- The module at a cycle of the template that runs the flow, with members held. -/
def sCoded (cycle : Nat) (m : KMap (Option Frame)) : State :=
  let s := s0.setAlm { s0.alm with cur := { alm1 with flows := [(6, flow1)], templates := [(1, { runs := [(0, [(0, 1, 6)])] })] } }
  (s.setXb { s.xb with template := some 1, ec := if m.isEmpty then [] else [(groupKey 6 0, { members := m, day := 0 })] }).setTime { s.time with cycle := cycle }

theorem wit_CodedGroupsDecode_member : ∀ c ∈ [6, 14], portLive (sCoded c []) (0#9).toNat = true ∧ decodedFlow (sCoded c []) (6#16).toNat = some flow1
    ∧ (flow1.groupMembers (0#16).toNat)[(0#4).toNat]? = some (0, 10) ∧ (sCoded c []).time.cycle ≤ 10 + 4 ∧ 10 ≤ (sCoded c []).time.cycle + 4 := by
  decide +kernel

/-- The parity of two equal members. -/
def parityF : Frame := parityFrame 6 0 flow1 [memberF, memberF] memberF.hdr

/-- The decode cycle, with all members in or with the second lost. -/
def sDecode (whole : Bool) : State :=
  sCoded 28 (if whole then [(0, some memberF), (1, some memberF), (2, some parityF)] else [(0, some memberF), (2, some parityF)])

theorem wit_CodedGroupsDecode_decode : ∀ b ∈ [true, false], (sDecode b).running = true ∧ decodedFlow (sDecode b) (6#16).toNat = some flow1
    ∧ flow1.groupMembers (0#16).toNat ≠ [] ∧ flow1.decodeAt (0#16).toNat ≤ (sDecode b).time.cycle ∧ flow1.ecK = 2
    ∧ KMap.find (sDecode b).xb.ec (groupKey (6#16).toNat (0#16).toNat)
      = some { members := if b then [(0, some memberF), (1, some memberF), (2, some parityF)] else [(0, some memberF), (2, some parityF)], day := 0 }
    ∧ (∀ h ∈ [memberF, memberF, parityF], h.hdr.comp = flow1.comp ∧ some h.hdr.tenant = ((sDecode b).compEntry flow1.comp).map (·.tenant))
    ∧ (sDecode b).compEntry flow1.comp = some comp5 ∧ memberF.hdr.tenant = comp5.tenant
    ∧ groupCheck ((sDecode b).setXb { (sDecode b).xb with ec := [] }) memberF.hdr = none
    ∧ memberViolation ((sDecode b).setXb { (sDecode b).xb with ec := [] }) memberF = none := by decide +kernel

/-- A member that stores outside the rights of the composition. -/
def memberV : Frame := frameOf (hdr 0x14 0 64 0x40000000) (filled 64 2)

theorem wit_CodedGroupsDecode_violation :
    (let s := sCoded 28 [(0, some memberF), (1, some memberV), (2, some (parityFrame 6 0 flow1 [memberF, memberV] memberF.hdr))]
     s.running = true ∧ decodedFlow s (6#16).toNat = some flow1 ∧ flow1.decodeAt (0#16).toNat ≤ s.time.cycle
     ∧ groupCheck (s.setXb { s.xb with ec := [] }) memberF.hdr = none ∧ memberViolation (s.setXb { s.xb with ec := [] }) memberF = none
     ∧ (memberViolation (s.setXb { s.xb with ec := [] }) memberV).isSome = true) := by
  refine ⟨by decide +kernel, by decide +kernel, by decide +kernel, by decide +kernel, by decide +kernel, by decide +kernel⟩

/-- R50, R52: the parity of two equal members gives back either of them. -/
theorem test_rebuild : rebuild parityF [memberF] memberF.hdr.comp memberF.hdr.tenant = memberF := by decide +kernel

/-- The module as the encoder of a flow from port 0 whose members arrive at cycles 10 and 30. -/
def sEncode (cycle : Nat) (ec : KMap EcGroup) : State :=
  let f := { flow1 with encoder := 1, decoder := 2, expected := [10, 30], sends := [8, 16, 24] }
  let s := s0.setAlm { s0.alm with cur := { alm1 with flows := [(6, f)], templates := [(1, { runs := [(0, [(0, 1, 6)])] })] } }
  (s.setXb { s.xb with template := some 1, ec := ec }).setTime { s.time with cycle := cycle }

/-- A data member on its way out. -/
def reqE (cycle : Nat) : Req := { hdr := { memberF.hdr with cls := 0, src := 0x200 }, payload := memberF.payload, port := 0, lseq := none, edge := true, day := 0, cycle := cycle, poisoned := false, strict := false, flow := some 6 }

/-- R50: the parity frame goes out on its own path with the last data member of its group. -/
theorem test_encoder : (memberSent (sEncode 10 []) (reqE 10)).xb.ec.map (·.1) = [groupKey 6 0]
    ∧ (memberSent (sEncode 30 (memberSent (sEncode 10 []) (reqE 10)).xb.ec) (reqE 30)).xb.queue.map (fun q => (q.2.port, q.2.frame.hdr.opcode)) = [(24, 0x70)]
    ∧ flowPorts (sEncode 30 []) (reqE 30) = [16] := by
  decide +kernel

/-- R46: a member five cycles off its cycle is not held. -/
theorem test_member : next (exec (.ecMemberArrival 6 0 0 (arr 0 memberF.hdr memberF.payload)) (sCoded 14 []))
      (fun t => (KMap.find t.xb.ec (groupKey 6 0)).any (fun g => (KMap.find g.members 0).any (·.isSome))) = true
    ∧ next (exec (.ecMemberArrival 6 0 0 (arr 0 memberF.hdr memberF.payload)) (sCoded 15 []))
      (fun t => (KMap.find t.xb.ec (groupKey 6 0)).all (fun g => (KMap.find g.members 0).all (·.isNone))) = true := by decide +kernel

/-- The Chronicle in a role on a Day, with an entry that member 3 has not answered, and one being settled. -/
def sRole (role : BitVec 2) (d : Nat) : State :=
  atDay d ((s0.setAlm { s0.alm with cur := { alm1 with members := [1, 2, 3] } }).setCh
    { s0.ch with role := role, term := 4, rank := 1, log := [(1, { index := 1, term := 4, comp := 0, day := 0, epoch := 0, body := .nop })],
                 unacked := [(1, [(3, 0)])], settle := [(1, { asked := [2], holds := [], answered := [], day := 0 })] })

theorem wit_ChronicleTimersAct : (sRole 3 64).running = true ∧ (sRole 3 64).ch.role = 3 ∧ (sRole 3 64).ch.lastSent + 64 ≤ (sRole 3 64).day
    ∧ (sRole 1 320).running = true ∧ (sRole 1 320).ch.role = 1 ∧ (sRole 1 320).ch.lastHeard + 256 + 64 * (sRole 1 320).ch.rank ≤ (sRole 1 320).day
    ∧ (sRole 2 128).running = true ∧ (sRole 2 128).ch.role = 2 ∧ (sRole 2 128).ch.candSince + 128 ≤ (sRole 2 128).day
    ∧ (KMap.find (sRole 3 16).ch.log (1#64).toNat).isSome = true ∧ KMap.find (sRole 3 16).ch.unacked (1#64).toNat = some [(3, 0)] ∧ 0 + 16 ≤ (sRole 3 16).day
    ∧ KMap.find (sRole 3 64).ch.settle (1#64).toNat = some { asked := [2], holds := [], answered := [], day := 0 } := by decide +kernel

/-- R350: 319 Days are not enough for rank 1, 320 are. -/
theorem test_election : next (exec .electionTimeout (sRole 1 319)) (fun t => t.ch.role == 1) = true
    ∧ next (exec .electionTimeout (sRole 1 320)) (fun t => t.ch.role == 2 && t.ch.term == 5) = true := by decide +kernel

/-- An old epoch whose grace ends on Day 9. -/
def sGrace : State := atDay 9 (s0.updComp 5 (fun x => { x with epoch := 2, graceEnd := some 9 }))

theorem wit_ChronicleTimersAct_grace : (sGrace.comp 5).graceEnd = some 9 ∧ 9 ≤ sGrace.day ∧ epochInForce sGrace 5 1 = true := by decide +kernel

/-- R361: the older epoch is in force until then. -/
theorem test_grace : next (exec (.graceEnd 5) sGrace) (fun t => !epochInForce t 5 1 && epochInForce t 5 2) = true := by decide +kernel

/-- A vote request of a term from member 2, its log of one entry of term `last`. -/
def voteA (term last : Nat) : Arrival := arr 8 { hdr 0x80 1 48 0 with src := 2 } (words [0, term * 2 ^ 32 + 2 ^ 24, 0, 0, last, 1])

theorem wit_ChronicleFramesAreTaken_vote : ∀ l ∈ [4, 3], good (sRole 1 0) (voteA 5 l) 0x80 = true
    ∧ bits 63 32 (wordAt (R (sRole 1 0) (voteA 5 l) 0x80).payload 1) > (U (sRole 1 0) (voteA 5 l) 0x80).ch.term
    ∧ (U (sRole 1 0) (voteA 5 l) 0x80).ch.role ≠ 0 ∧ (U (sRole 1 0) (voteA 5 l) 0x80).alm.cur.members.contains 2 = true
    ∧ (U (sRole 1 0) (voteA 5 l) 0x80).ch.votedTerm < 5
    ∧ lastTerm (U (sRole 1 0) (voteA 5 l) 0x80) = 4 ∧ lastIndex (U (sRole 1 0) (voteA 5 l) 0x80) = 1 := by decide +kernel

/-- R351: a candidate with an older log gets no vote, one with as good a log does. -/
theorem test_vote : next (exec (.voteReq (voteA 5 4)) (sRole 1 0)) (fun t => t.ch.votedTerm == 5 && t.ch.term == 5) = true
    ∧ next (exec (.voteReq (voteA 5 3)) (sRole 1 0)) (fun t => t.ch.votedTerm == 0 && t.ch.term == 5) = true := by decide +kernel

/-- An entry for a Day: the grant of extent 7 at module 1, or a `NOP`. -/
def entry2 (d : Nat) (grant : Bool) : Entry :=
  { index := 2, term := 4, comp := 5, day := d, epoch := 1, body := if grant then .grant { extBody with extIdx := 7 } else .nop }

/-- Its frame, with the index that is committed. -/
def entryA (e : Entry) (commit : Nat) (ask : W64) : Arrival :=
  arr 8 { hdr 0x80 1 (BitVec.ofNat 16 (entryBytes e commit).length) ask with src := 2 } (entryBytes e commit)

theorem wit_ChronicleFramesAreTaken_entry : ∀ p ∈ [(10, 1), (10, 2), (5, 2)], (sRole 1 5).rst.selfFenced = false
    ∧ good (sRole 1 5) (entryA (entry2 p.1 true) p.2 0) 0x80 = true
    ∧ bits 31 24 (wordAt (R (sRole 1 5) (entryA (entry2 p.1 true) p.2 0) 0x80).payload 1) ≠ 1
    ∧ parseEntry (R (sRole 1 5) (entryA (entry2 p.1 true) p.2 0) 0x80).payload = some (entry2 p.1 true, p.2)
    ∧ (U (sRole 1 5) (entryA (entry2 p.1 true) p.2 0) 0x80).ch.term ≤ (entry2 p.1 true).term
    ∧ (involved (U (sRole 1 5) (entryA (entry2 p.1 true) p.2 0) 0x80) 5 (entry2 p.1 true).body).contains 1 = true
    ∧ holdsEntry (U (sRole 1 5) (entryA (entry2 p.1 true) p.2 0) 0x80) 2 = false := by decide +kernel

/-- A question of R354 about the entry. -/
theorem wit_ChronicleFramesAreTaken_question : good (sRole 1 5) (entryA (entry2 10 true) 2 1) 0x80 = true
    ∧ (R (sRole 1 5) (entryA (entry2 10 true) 2 1) 0x80).hdr.addr = 1 := by decide +kernel

/-- R355, R356: a committed entry is held for its Day; one whose Day has come fences the module. -/
theorem test_entry : next (exec (.chEntry (entryA (entry2 10 true) 2 0)) (sRole 1 5)) (fun t => (KMap.find t.ch.entries 2).isSome && !t.rst.selfFenced) = true
    ∧ next (exec (.chEntry (entryA (entry2 5 true) 2 0)) (sRole 1 5)) (fun t => t.rst.selfFenced) = true
    ∧ next (exec (.chEntry (entryA (entry2 10 true) 1 0)) (sRole 1 5)) (fun t => (KMap.find t.ch.entries 2).isNone && (KMap.find t.ch.log 2).isSome) = true := by
  decide +kernel

theorem wit_ChronicleFramesAreTaken_answer :
    findOwn (returned (sOwn (.vote 2 false) 0x80) (ownA 0x80 0)) (asCompletion (ownA 0x80 0).frame)
      = some (pairKey 2 77, { why := .vote 2 false, dest := 2, opcode := 0x80, addr := 0, etag := 0 })
    ∧ (asCompletion (ownA 0x80 0).frame).hdr.status.toNat < 0x10 := by decide +kernel

theorem wit_ChronicleFramesAreTaken_return : Returns (sOwn (.vote 2 false) 0x80) (ownA 0x80 0) (returned (sOwn (.vote 2 false) 0x80) (ownA 0x80 0))
    (asCompletion (ownA 0x80 0).frame) := returns_of (by decide +kernel)

/-- A heartbeat of module 2 to its neighbour. -/
def beatA : Arrival := arr 8 { hdr 0x81 1 8 0 with src := 2 } (words [7 * 2 ^ 56 + 9 * 2 ^ 48])

theorem wit_HealthFramesAndVerdicts_beat : Lands s0 beatA.port.toNat (toHere s0 beatA.frame 0x81) (landed s0 8 (toHere s0 beatA.frame 0x81))
      (taken s0 8 (toHere s0 beatA.frame 0x81))
    ∧ (landed s0 8 (toHere s0 beatA.frame 0x81)).bind beatA.port.toNat = some bindF := ⟨lands_of (by decide +kernel), by decide +kernel⟩

/-- R414: the penalties of the heartbeat are noted. -/
theorem test_heartbeat : next (exec (.heartbeat beatA) s0) (fun t => (t.port 8).health.hbSeen && (t.port 8).health.hbEcc == 7 && (t.port 8).health.hbTemp == 9)
    = true := by decide +kernel

/-- Port 8 with a low score since Day 0. -/
def sSoft (d : Nat) : State :=
  let s := atDay d s0
  s.updPort 8 (fun p => { p with health := { p.health with fLink := 0xFFFF, fHb := 0xFFFF, fEcc := 0xFFFF, fTemp := 0xFFFF, softLinkDay := some 0, softPeerDay := some 0 } })

theorem wit_HealthFramesAndVerdicts_soft : (sSoft 64).running = true ∧ (sSoft 64).bind (8#9).toNat = some bindF ∧ ((sSoft 64).port (8#9).toNat).up = true
    ∧ ((sSoft 64).port (8#9).toNat).health.peerScore < (sSoft 64).alm.cur.policy.scoreSoft
    ∧ ((sSoft 64).port (8#9).toNat).health.linkScore < (sSoft 64).alm.cur.policy.scoreSoft
    ∧ ((sSoft 64).port (8#9).toNat).health.softPeerDay = some 0 ∧ ((sSoft 64).port (8#9).toNat).health.softLinkDay = some 0 ∧ 0 + 64 ≤ (sSoft 64).day := by
  decide +kernel

/-- Endpoint 0x100 silent: its port down. -/
def sGone : State := s0.updPort 0 (fun p => { p with up := false })

/-- The report of the silence. -/
def gone1 : Report := { subject := 0x100, port := 0, kind := 0, cls := 1, score := 0xFF, witnesses := 1, first := 1, day := 0 }

/-- The module with a silent endpoint and the count of its silence. -/
def sLost : State := sGone.setHealth { sGone.health with hbTable := [(0x100, 16)] }

theorem wit_HealthFramesAndVerdicts_lost : sLost.running = true ∧ sLost.alm.cur.ports.find? (fun p => p.2.ep == 0x100) = some (0, bindE)
    ∧ BitVec.ofNat 3 (partnerKind sLost bindE) = gone1.kind ∧ homeSwitch sLost gone1 = sLost.self ∧ isFenced sLost 0x100 = false
    ∧ sLost.alm.cur.policy.hbDead ≤ KMap.getD sLost.health.hbTable (0x100#16).toNat 0 ∧ linksGone sLost 0x100 = true
    ∧ KMap.find sLost.health.resend (resendKey gone1) = none := by decide +kernel

/-- The verdict sent on Day 0, nothing heard of it. -/
def sResend : State := atDay 64 (s0.setHealth { s0.health with resend := [(resendKey gone1, (gone1, 0))] })

theorem wit_HealthFramesAndVerdicts_resend : sResend.running = true ∧ sResend.health.resend = [(resendKey gone1, (gone1, 0))] ∧ gone1.subject = 0x100
    ∧ 0 + 64 ≤ sResend.day := by decide +kernel

/-- A report of module 2: merged by a home switch, or a witness's. -/
def reportA (r : Report) : Arrival := arr 8 { hdr 0x82 1 32 0 with src := 2 } (reportBytes r)

theorem wit_HealthFramesAndVerdicts_report : ∀ n ∈ [0, 1],
    ((sRole 3 0).bind (8#9).toNat == some bindF && portLive (sRole 3 0) (8#9).toNat && (asRequest 0x82 (reportA { gone1 with first := BitVec.ofNat 16 n }).frame).hdr.cls != 0
      && (asRequest 0x82 (reportA { gone1 with first := BitVec.ofNat 16 n }).frame).hdr.dest == (sRole 3 0).self) = true
    ∧ leads (landed (sRole 3 0) 8 (asRequest 0x82 (reportA { gone1 with first := BitVec.ofNat 16 n }).frame)) = true
    ∧ (parseReport (taken (sRole 3 0) 8 (asRequest 0x82 (reportA { gone1 with first := BitVec.ofNat 16 n }).frame)).payload).first = BitVec.ofNat 16 n
    ∧ (parseReport (taken (sRole 3 0) 8 (asRequest 0x82 (reportA { gone1 with first := BitVec.ofNat 16 n }).frame)).payload).cls ≠ 2 := by decide +kernel

/-- A report of module 2 that module 9 took no part, as it reaches the root of the Equinox, and elsewhere. -/
theorem wit_HealthFramesAndVerdicts_root : ∀ b ∈ [true, false],
    (let s := (sRole 3 0).setTime { (sRole 3 0).time with root := b }
     let a := asRequest 0x82 (reportA { gone1 with subject := 9, kind := 1, cls := 8, first := 2 }).frame
     (s.bind 8 == some bindF && (portLive s 8 && (a.hdr.cls != 0 && (a.rx == none && ((decide (a.hdr.opcode.toNat < 0x70) || !a.poisoned)
       && (a.hdr.opcode == 0x41 || a.hdr.dest == s.self)))))) = true
     ∧ (landed s 8 a).time.root = b ∧ (parseReport (taken s 8 a).payload).kind = 1 ∧ (parseReport (taken s 8 a).payload).cls = 8
     ∧ leads (landed s 8 a) = true) := by decide +kernel

/-- A job's order to fence endpoint 0x100, passed on by module 2. -/
def fenceA : Arrival := arr 8 { hdr 0x85 1 8 0 with src := 2 } (words [0x100 * 2 ^ 48 + 4 * 2 ^ 43])

theorem wit_HealthFramesAndVerdicts_fence : Lands (sRole 3 0) fenceA.port.toNat (asRequest 0x85 fenceA.frame) (landed (sRole 3 0) 8 (asRequest 0x85 fenceA.frame))
      (taken (sRole 3 0) 8 (asRequest 0x85 fenceA.frame))
    ∧ (sRole 3 0).bind fenceA.port.toNat = some bindF ∧ (landed (sRole 3 0) 8 (asRequest 0x85 fenceA.frame)).bind fenceA.port.toNat = some bindF
    ∧ leads (landed (sRole 3 0) 8 (asRequest 0x85 fenceA.frame)) = true ∧ bindF.fabric = true
    ∧ (taken (sRole 3 0) 8 (asRequest 0x85 fenceA.frame)).hdr.comp = 5 := ⟨lands_of (by decide +kernel), by decide +kernel⟩

/-- The lender's notice for lend 7. -/
def noticeA : Arrival := arr 8 { hdr 0x84 1 8 0 with src := 2 } (words [7 * 2 ^ 56])

/-- The module with lend 7 open, or ended. -/
def sNotice (ended : Bool) : State := s0.setHome { s0.home with lends := [(7, { lend0 with notice := none, ended := ended })] }

theorem wit_HealthFramesAndVerdicts_notice : ∀ e ∈ [true, false],
    ((sNotice e).bind (8#9).toNat == some bindF && portLive (sNotice e) (8#9).toNat && (asRequest 0x84 noticeA.frame).hdr.cls != 0
      && (asRequest 0x84 noticeA.frame).hdr.dest == (sNotice e).self) = true
    ∧ KMap.find (landed (sNotice e) 8 (asRequest 0x84 noticeA.frame)).home.lends (bits 63 56 (wordAt noticeA.frame.payload 0))
      = some { lend0 with notice := none, ended := e }
    ∧ bit 55 (wordAt noticeA.frame.payload 0) = false ∧ lend0.lender = noticeA.frame.hdr.src := by decide +kernel

/-- R206: the first notice withdraws the lend. -/
theorem test_notice : next (exec (.lendNotice noticeA) (sNotice false)) (fun t => (KMap.find t.home.lends 7).any (fun l => l.notice == some 0)) = true := by
  decide +kernel

/-! ## The machine -/

/-- A queue is first in, first out; an empty one lets a cycle pass. -/
theorem test_step : next (step (s0.setPending [.pwrEn false, .pwrEn true])) (fun t => !t.power.pwrEn && t.pending == [.pwrEn true]) = true
    ∧ next (step s0) (fun t => t.now == s0.now + 1 && t.pending.isEmpty) = true := by decide +kernel

theorem wit_StepKeepsTheInvariant : s0.memOk ∧ s0.variant = .f9616 := by decide +kernel

theorem wit_CapabilitiesAreFixed : s0.variant = .f9616 ∧ ({ s0 with variant := .p9616 } : State).variant = .p9616
    ∧ ({ s0 with variant := .f9608 } : State).variant = .f9608 := by decide +kernel

theorem wit_CompletionsEcho : completes q0.hdr = true ∧ ([] : List Byte).length < 65536 ∧ q0.hdr.cls ≠ 0 ∧ answersLater s0 q0 = false := by decide +kernel

/-- A Reduce command of endpoint 0x100, the `n`th request that the module took. -/
def qRe (n : Nat) : Req := { R s0 (reA 0) 0x42 with ord := n }

/-- The module with the first of them still waiting for its engine. -/
def sEarlier : State := s0.setEng { s0.eng with queue := [(2, { kind := .reduce, engine := 0, req := qRe 1 })] }

theorem wit_CompletionsEcho_later : completes (qRe 2).hdr = true ∧ (qRe 2).hdr.cls ≠ 0 ∧ answersLater sEarlier (qRe 2) = true
    ∧ answersLater sEarlier (qRe 1) = false := by decide +kernel

/-- R19: a completion waits for that of an earlier command. -/
theorem test_answer_order : (complete sEarlier (qRe 2) 1 0 [] false 0).xb.queue = [] ∧ (complete sEarlier (qRe 2) 1 0 [] false 0).eng.parked.length = 1
    ∧ (complete sEarlier (qRe 1) 1 0 [] false 0).xb.queue.length = 1 := by decide +kernel

/-- A read under an epoch that is not in force. -/
def rdStale (e : BitVec 16) : Arrival := arr 8 { rdA.frame.hdr with epoch := e } []

theorem wit_StaleEpochsAreRefused : ∀ n ∈ [0xFFFF, 1], s0.bind (rdStale (BitVec.ofNat 16 n)).port.toNat = some bindF ∧ portLive s0 (rdStale (BitVec.ofNat 16 n)).port.toNat = true
    ∧ (reqOf s0 (rdStale (BitVec.ofNat 16 n)) 0x10).hdr.cls ≠ 0 ∧ bindF.fabric = true
    ∧ isModule (frameHeard s0 8 (reqOf s0 (rdStale (BitVec.ofNat 16 n)) 0x10).hdr) (reqOf s0 (rdStale (BitVec.ofNat 16 n)) 0x10).hdr.src = false
    ∧ epochInForce (frameHeard s0 8 (reqOf s0 (rdStale (BitVec.ofNat 16 n)) 0x10).hdr) (reqOf s0 (rdStale (BitVec.ofNat 16 n)) 0x10).hdr.comp (reqOf s0 (rdStale (BitVec.ofNat 16 n)) 0x10).hdr.epoch = false := by
  decide +kernel

/-- R364: older and newer are refused alike. -/
theorem test_stale : answers (exec (.rd (rdStale 1)) s0) 0x20 (zeros 8) = true ∧ answers (exec (.rd (rdStale 0xFFFF)) s0) 0x20 (zeros 8) = true := by
  decide +kernel

end Sys2Proof.Tests
end

section
/-! SUPPORT. The capability block (R3): what its two registers read is a function of the variant alone, and no command changes the variant. -/

namespace Sys2Proof.Machine

/-- The address of `AL_CAP_UNITS` (R3). -/
@[simp] theorem decodeReg_capUnits : decodeReg 0x0F0000A00000 = some .capUnits := by decide

/-- The address of `AL_CAP_MEM` (R3). -/
@[simp] theorem decodeReg_capMem : decodeReg 0x0F0000A00008 = some .capMem := by decide

theorem readReg_capUnits (s : State) : readReg s 0x0F0000A00000 = capUnits s.variant := by
  simp [readReg, regValue]

theorem readReg_capMem (s : State) : readReg s 0x0F0000A00008 = capMem s.variant := by
  simp [readReg, regValue]

/-- Whatever a command's meaning makes of the state, `commit` puts the variant back that the module was made with. -/
theorem exec_keeps_variant (c : Instr) (s : State) : Completes (exec c s) (fun t => t.variant = s.variant) := by
  obtain ⟨t, ht⟩ := exec_commit c s
  exact ⟨_, ht, rfl⟩

/-- The units of each variant (R2), in the fields of the block's two registers (R3). -/
theorem capabilities_of_variant :
    (capUnits .f9616 = 0x1001810204240C00 ∧ capMem .f9616 = 0x0000818480200000)
    ∧ (capUnits .p9616 = 0x1002400204240C00 ∧ capMem .p9616 = 0x0000818480200000)
    ∧ (capUnits .f9608 = 0x1003810202240C00 ∧ capMem .f9608 = 0x0000418240200000) := by decide

/-- Settles O56: the block reads as its variant says, and every command keeps the variant. -/
theorem capabilitiesAreFixed : Obligations.CapabilitiesAreFixed := by
  unfold Obligations.CapabilitiesAreFixed
  obtain ⟨hf9616, hp9616, hf9608⟩ := capabilities_of_variant
  constructor
  · intro s
    rw [readReg_capUnits, readReg_capMem]
    refine ⟨fun hv => ?_, fun hv => ?_, fun hv => ?_⟩
    · exact hv ▸ hf9616
    · exact hv ▸ hp9616
    · exact hv ▸ hf9608
  · intro c s
    obtain ⟨t, ht, hv⟩ := exec_keeps_variant c s
    refine ⟨t, ht, ?_, ?_⟩
    · rw [readReg_capUnits, readReg_capUnits, hv]
    · rw [readReg_capMem, readReg_capMem, hv]

end Sys2Proof.Machine
end

section
/-! SUPPORT. Completions (R79, R19): what the header of a completion takes over from its request, and when the completion is sent or kept. -/

namespace Sys2Proof.Machine

section Header
variable (s : State) (h : Header) (src : Ep) (status : BitVec 8) (len : Nat) (mv : Bool)

@[simp] theorem completionHeader_etag : (completionHeader s h src status len mv).etag = h.etag := rfl
@[simp] theorem completionHeader_seq : (completionHeader s h src status len mv).seq = h.seq := rfl
@[simp] theorem completionHeader_addr : (completionHeader s h src status len mv).addr = h.addr := rfl
@[simp] theorem completionHeader_stepLo : (completionHeader s h src status len mv).stepLo = h.stepLo := rfl
@[simp] theorem completionHeader_epoch : (completionHeader s h src status len mv).epoch = h.epoch := rfl
@[simp] theorem completionHeader_opcode : (completionHeader s h src status len mv).opcode = h.opcode := rfl
@[simp] theorem completionHeader_dest : (completionHeader s h src status len mv).dest = h.src := rfl
@[simp] theorem completionHeader_src : (completionHeader s h src status len mv).src = src := rfl

/-- `MAY_VARY` is another bit of the flags than `RESP`. -/
@[simp] theorem completionHeader_isResp : (completionHeader s h src status len mv).isResp = true := by
  change (flagResp ||| if mv then flagMayVary else 0).getLsbD 9 = true
  cases mv <;> decide

variable {len} in
/-- A payload shorter than 64 KiB has its length in the header's 16 bits. -/
theorem completionHeader_length (hlen : len < 65536) : (completionHeader s h src status len mv).length.toNat = len :=
  (BitVec.toNat_ofNat len 16).trans (Nat.mod_eq_of_lt hlen)

end Header

variable {s : State} {r : Req}

/-- With no earlier command of its source open, a completion is sent at once (R19). -/
theorem sendAnswer_of_not_answersLater (f : Frame) (nb : Nat) (h : answersLater s r = false) :
    sendAnswer s r f nb = sendCompletion (releaseBulk s r) f nb := by
  simp [sendAnswer, h]

/-- A completion that has to wait is kept under a name of its own, whole and with its time (R19). -/
theorem sendAnswer_parks (f : Frame) (nb : Nat) (h : answersLater s r = true) :
    KMap.find (sendAnswer s r f nb).eng.parked s.nextId = some { req := r, frame := f, notBefore := nb } := by
  simp [sendAnswer, h, State.fresh, KMap.find_put]

/-- What `complete` does with a request that yields a completion: it sends one. Only a TC0 request changes the state before, and returns
another status than the one given: the worst of its step (R80). -/
theorem complete_eq_sendAnswer (src : Ep) (status : BitVec 8) (payload : List Byte) (mv : Bool) (nb : Nat) (h : completes r.hdr = true) :
    ∃ (t : State) (st : BitVec 8), complete s r src status payload mv nb
        = sendAnswer t r { hdr := completionHeader t r.hdr src st payload.length mv, payload := payload, poisoned := false } nb
      ∧ (r.hdr.cls ≠ 0 → t = s ∧ st = status) := by
  simp only [complete, h, if_true]
  exact ⟨_, _, rfl, fun hcls => ⟨if_neg fun h0 => hcls h0.1, if_neg hcls⟩⟩

/-- Settles O57: every completion goes through `sendAnswer` with the header that `completionHeader` makes of its request's; that it waits for
an earlier command of its source is log 77. -/
theorem completionsEcho : Obligations.CompletionsEcho := by
  unfold Obligations.CompletionsEcho
  intro s r src status payload mv nb hcompl hlen
  obtain ⟨t, st, hsend, hcls⟩ := complete_eq_sendAnswer (s := s) src status payload mv nb hcompl
  refine ⟨t, completionHeader t r.hdr src st payload.length mv, hsend, hcls, ?_⟩
  rw [hsend]
  have hlength := completionHeader_length t r.hdr src st mv hlen
  simp only [completionHeader_etag, completionHeader_seq, completionHeader_addr, completionHeader_stepLo, completionHeader_epoch,
    completionHeader_opcode, completionHeader_dest, completionHeader_src, completionHeader_isResp, hlength, true_and]
  exact ⟨fun hnow => sendAnswer_of_not_answersLater _ nb hnow, fun hlater => ⟨t.nextId, _, sendAnswer_parks _ nb hlater, rfl, rfl, rfl⟩⟩

end Sys2Proof.Machine
end

section
/-! SUPPORT. Check 2 of R86 (R363, R364): what its answer carries, and that a request of an epoch not in force goes no further. -/

namespace Sys2Proof.Machine

/-! ## Bytes of a word (R67) -/

theorem beBytes_length (n v : Nat) : (beBytes n v).length = n := by simp [beBytes]

/-- The last byte is the least significant one. -/
theorem beBytes_succ (n v : Nat) : beBytes (n + 1) v = beBytes n (v / 256) ++ [BitVec.ofNat 8 v] := by
  have hhigh : ∀ i ∈ List.range n, BitVec.ofNat 8 (v / 256 ^ (n + 1 - 1 - i)) = BitVec.ofNat 8 (v / 256 / 256 ^ (n - 1 - i)) := by
    intro i hi
    have hin : n + 1 - 1 - i = (n - 1 - i) + 1 := by have := List.mem_range.mp hi; omega
    rw [hin, Nat.pow_succ', Nat.div_div_eq_div_mul]
  rw [beBytes, List.range_succ, List.map_append, List.map_congr_left hhigh]
  simp [beBytes]

theorem beNat_append_singleton (bs : List Byte) (b : Byte) : beNat (bs ++ [b]) = beNat bs * 256 + b.toNat := by
  simp [beNat, List.foldl_append]

/-- A number written as `n` bytes and read again is the number, as far as `n` bytes hold it. -/
theorem beNat_beBytes (n v : Nat) : beNat (beBytes n v) = v % 256 ^ n := by
  induction n generalizing v with
  | zero => simp [beBytes, beNat, Nat.mod_one]
  | succ n ih =>
    rw [beBytes_succ, beNat_append_singleton, ih, BitVec.toNat_ofNat, Nat.pow_succ' (m := 256) (n := n), Nat.mod_mul]
    omega

/-- The first word of a payload of one word. -/
theorem wordAt_wordsBytes_singleton {v : Nat} (hv : v < 2 ^ 64) : wordAt (wordsBytes [v]) 0 = v := by
  have hlen := beBytes_length 8 v
  have htake : (beBytes 8 v).take 8 = beBytes 8 v := List.take_of_length_le (Nat.le_of_eq hlen)
  simp only [wordAt, wordsBytes, List.flatMap_cons, List.flatMap_nil, List.append_nil, Nat.mul_zero, List.drop_zero, htake, hlen,
    Nat.sub_self, Nat.pow_zero, Nat.mul_one, beNat_beBytes]
  exact Nat.mod_eq_of_lt (by omega)

/-! ## The payload of a `STALE_EPOCH` completion (R364) -/

section StalePayload
variable (s : State) (c : BitVec 12)

theorem staleBytes_length : (staleBytes s c).length = 8 := by
  simp [staleBytes, wordsBytes, beBytes_length]

theorem wordAt_staleBytes : wordAt (staleBytes s c) 0 = (s.comp c).epoch.toNat * 2 ^ 48 + (s.comp c).epochDay % 2 ^ 48 :=
  wordAt_wordsBytes_singleton (by have := (s.comp c).epoch.isLt; omega)

theorem staleBytes_epoch : bits 63 48 (wordAt (staleBytes s c) 0) = (s.comp c).epoch.toNat := by
  rw [wordAt_staleBytes, bits]
  have := (s.comp c).epoch.isLt
  omega

theorem staleBytes_day : bits 47 0 (wordAt (staleBytes s c) 0) = (s.comp c).epochDay % 2 ^ 48 := by
  rw [wordAt_staleBytes, bits]
  omega

end StalePayload

/-! ## What stands before check 2 -/

/-- What a port notes of a frame is no part of the Almanac. -/
theorem frameHeard_alm (s : State) (port : Nat) (h : Header) : (frameHeard s port h).alm = s.alm := by
  unfold frameHeard
  dsimp only
  split <;> rfl

theorem advanceMark_comps (s : State) (src : Ep) (seq : BitVec 32) : (advanceMark s src seq).comps = s.comps := by
  unfold advanceMark
  split
  · split <;> rfl
  · rfl

theorem advanceMembers_comps (s : State) (r : Req) : (advanceMembers s r).comps = s.comps := by
  unfold advanceMembers
  induction parseMembers r.payload generalizing s with
  | nil => rfl
  | cons m ms ih => rw [List.foldl_cons, ih, advanceMark_comps]

/-- The marks are no part of what the module holds of a composition. -/
theorem markSource_comps (s : State) (r : Req) : (markSource s r).comps = s.comps := by
  unfold markSource
  dsimp only
  split <;> split <;> simp only [advanceMembers_comps, advanceMark_comps]

section Marked
variable (s : State) (r : Req)

@[simp] theorem markSource_comp (c : BitVec 12) : (markSource s r).comp c = s.comp c := by
  simp only [State.comp, markSource_comps]

@[simp] theorem markSource_self : (markSource s r).self = s.self := by
  simp only [State.self, markSource_alm]

@[simp] theorem markSource_isModule (e : Ep) : isModule (markSource s r) e = isModule s e := by
  simp only [isModule, markSource_self, markSource_alm]

@[simp] theorem markSource_epochInForce (c : BitVec 12) (e : BitVec 16) : epochInForce (markSource s r) c e = epochInForce s c e := by
  simp only [epochInForce, markSource_comp]

@[simp] theorem markSource_staleBytes (c : BitVec 12) : staleBytes (markSource s r) c = staleBytes s c := by
  simp only [staleBytes, markSource_comp]

end Marked

/-! ## Check 2 -/

/-- Check 2 comes before checks 3 and the age limit, and fails at the first hop and behind it alike. -/
theorem earlyCheck_stale {s : State} {h : Header} (edge : Bool) (hsrc : isModule s h.src = false)
    (hepoch : epochInForce s h.comp h.epoch = false) : earlyCheck s edge h = some (0x20, staleBytes s h.comp) := by
  simp [earlyCheck, hsrc, hepoch]

/-- A request that fails check 2 is answered here; its marks are those of any request (R166). -/
theorem admitReq_stale {s : State} {r : Req} (hsrc : isModule s r.hdr.src = false) (hepoch : epochInForce s r.hdr.comp r.hdr.epoch = false)
    (here : State → Req → State) :
    admitReq s r here = complete (freeReq (markSource s r) r) r s.self 0x20 (staleBytes s r.hdr.comp) false 0 := by
  have hcheck : earlyCheck (markSource s r) r.edge r.hdr = some (0x20, staleBytes s r.hdr.comp) := by
    rw [earlyCheck_stale r.edge (by rwa [markSource_isModule]) (by rwa [markSource_epochInForce]), markSource_staleBytes]
  simp only [admitReq, hcheck, markSource_self]

/-- A request row whose request passes check 1 and fails check 2. -/
theorem arriveReq_stale {s : State} {a : Arrival} {op : Nat} {b : PortBind} {r : Req} {t : State} (hop : op < 256)
    (hcompl : noCompletionOps.contains op = false) (hb : s.bind a.port.toNat = some b) (hlive : portLive s a.port.toNat = true)
    (hr : portReq s b a.port.toNat none (asRequest op a.frame) = r) (ht : frameHeard s a.port.toNat r.hdr = t) (hcls : r.hdr.cls ≠ 0)
    (hformat : b.fabric = true ∨ formatOk t b r.hdr (reqSize r) = true) (hsrc : isModule t r.hdr.src = false)
    (hepoch : epochInForce t r.hdr.comp r.hdr.epoch = false) :
    commit s (arriveReq s a op)
      = After s (complete (freeReq (markSource t r) r) r s.self 0x20 (staleBytes t r.hdr.comp) false 0) := by
  have hself : t.self = s.self := by simp only [State.self, ← ht, frameHeard_alm]
  have hcheck1 : (!b.fabric && !formatOk t b r.hdr (reqSize r)) = false := by
    rcases hformat with h | h <;> simp [h]
  rw [arriveReq, arrive_request hlive hb hop hcompl (hr ▸ hcls), After]
  simp only [hr, ht, hcheck1, Bool.false_eq_true, if_false, admitReq_stale hsrc hepoch, hself]

/-- Settles O58: each row's request arrives as `arriveReq` says, passes check 1 and fails check 2; older and newer epochs alike, since the check
asks only whether the epoch is in force. -/
theorem staleEpochsAreRefused : Obligations.StaleEpochsAreRefused := by
  unfold Obligations.StaleEpochsAreRefused
  intro p hp s a b hb hlive r t hcls hformat hsrc hepoch
  have hrow : exec (p.1 a) s = commit s (arriveReq s a p.2) ∧ p.2 < 256 ∧ noCompletionOps.contains p.2 = false := by
    simp only [List.mem_cons, List.not_mem_nil, or_false] at hp
    rcases hp with rfl | rfl | rfl | rfl | rfl | rfl | rfl | rfl | rfl | rfl | rfl | rfl <;> exact ⟨rfl, by decide, by decide⟩
  obtain ⟨hexec, hop, hcompl⟩ := hrow
  refine ⟨staleBytes t r.hdr.comp, ?_, staleBytes_length t _, staleBytes_epoch t _, staleBytes_day t _⟩
  rw [hexec]
  exact arriveReq_stale hop hcompl hb hlive rfl rfl hcls hformat hsrc hepoch

end Sys2Proof.Machine
end

section
/-! SUPPORT. The bytes of a frame's header (R67, R68): each word is read back as it was written, and `HCRC` covers the first 60 bytes. -/

namespace Sys2Proof.Machine

/-! ## Words written one after another -/

theorem wordsBytes_cons (v : Nat) (vs : List Nat) : wordsBytes (v :: vs) = beBytes 8 v ++ wordsBytes vs := rfl

theorem wordsBytes_length (vs : List Nat) : (wordsBytes vs).length = 8 * vs.length := by
  induction vs with
  | nil => rfl
  | cons v vs ih =>
    rw [wordsBytes_cons, List.length_append, beBytes_length, ih, List.length_cons]
    omega

/-- The word that begins some bytes is read back. -/
theorem wordAt_beBytes_zero {v : Nat} (hv : v < 2 ^ 64) (bs : List Byte) : wordAt (beBytes 8 v ++ bs) 0 = v := by
  have htake : (beBytes 8 v ++ bs).take 8 = beBytes 8 v := List.take_left' (beBytes_length 8 v)
  simp only [wordAt, Nat.mul_zero, List.drop_zero, htake, beBytes_length, Nat.sub_self, Nat.pow_zero, Nat.mul_one, beNat_beBytes]
  exact Nat.mod_eq_of_lt hv

/-- The words behind the first are those of the bytes behind its eight. -/
theorem wordAt_beBytes_succ (v : Nat) (bs : List Byte) (n : Nat) : wordAt (beBytes 8 v ++ bs) (n + 1) = wordAt bs n := by
  have hdrop : (beBytes 8 v ++ bs).drop (8 * (n + 1)) = bs.drop (8 * n) := by
    rw [Nat.mul_succ, Nat.add_comm, ← List.drop_drop, List.drop_left' (beBytes_length 8 v)]
  simp only [wordAt, hdrop]

/-- Words written one after another are read back, whatever bytes follow them. -/
theorem wordAt_wordsBytes {vs : List Nat} (hvs : ∀ v ∈ vs, v < 2 ^ 64) (bs : List Byte) {n : Nat} (hn : n < vs.length) :
    wordAt (wordsBytes vs ++ bs) n = vs[n] := by
  induction vs generalizing n with
  | nil => exact absurd hn (Nat.not_lt_zero n)
  | cons v vs ih =>
    rw [wordsBytes_cons, List.append_assoc]
    cases n with
    | zero => exact wordAt_beBytes_zero (hvs v List.mem_cons_self) _
    | succ n =>
      rw [wordAt_beBytes_succ, ih (fun w hw => hvs w (List.mem_cons_of_mem v hw)) (Nat.lt_of_succ_lt_succ hn)]
      rfl

/-! ## The words of a header -/

section HeaderWords
variable (h : Header)

theorem headerWords_lt : ∀ v ∈ headerWords h, v < 2 ^ 64 := by
  have := h.version.isLt; have := h.cls.isLt; have := h.opcode.isLt; have := h.flags.isLt; have := h.dest.isLt; have := h.src.isLt
  have := h.comp.isLt; have := h.epoch.isLt; have := h.tenant.isLt; have := h.keySlot.isLt; have := h.keyGen.isLt; have := h.status.isLt
  have := h.seq.isLt; have := h.length.isLt; have := h.stepLo.isLt; have := h.tstamp.isLt
  intro v hv
  simp only [headerWords, List.mem_cons, List.not_mem_nil, or_false] at hv
  rcases hv with rfl | rfl | rfl | rfl | rfl | rfl | rfl | rfl
  case inr.inr.inr.inl => exact h.addr.isLt
  case inr.inr.inr.inr.inl => exact h.etag.isLt
  all_goals omega

/-- The first 60 bytes are the seven words that hold fields and half of the last, which is zero until `HCRC` stands in it. -/
theorem headerBytes60_eq : headerBytes60 h = wordsBytes ((headerWords h).take 7) ++ (beBytes 8 0).take 4 := by
  have hwords : wordsBytes (headerWords h) = wordsBytes ((headerWords h).take 7) ++ beBytes 8 0 := by
    simp [headerWords, wordsBytes]
  have hlen : (wordsBytes ((headerWords h).take 7)).length = 56 := by rw [wordsBytes_length]; rfl
  rw [headerBytes60, hwords, List.take_append, List.take_of_length_le (by omega), hlen]

theorem headerBytes60_length : (headerBytes60 h).length = 60 := by
  rw [headerBytes60, List.length_take, wordsBytes_length]
  rfl

/-- A word of the header as it is sent. -/
theorem wordAt_headerBytes {n : Nat} (hn : n < 7) : wordAt (headerBytes h) n = (headerWords h)[n]'(Nat.lt_of_lt_of_le hn (by simp [headerWords])) := by
  have hlen : ((headerWords h).take 7).length = 7 := rfl
  rw [headerBytes, headerBytes60_eq, List.append_assoc,
    wordAt_wordsBytes (fun v hv => headerWords_lt h v (List.mem_of_mem_take hv)) _ (hlen ▸ hn), List.getElem_take]

theorem headerBytes_length : (headerBytes h).length = 64 := by
  rw [headerBytes, List.length_append, headerBytes60_length, beBytes_length]

/-- The last four bytes hold the checksum of the 60 before them (R68). -/
theorem hcrcPasses_headerBytes : hcrcPasses (headerBytes h) = true := by
  have hlast : ((headerBytes h).drop 60).take 4 = beBytes 4 (hcrc h).toNat := by
    rw [headerBytes, List.drop_left' (headerBytes60_length h)]
    exact List.take_of_length_le (Nat.le_of_eq (beBytes_length 4 _))
  have hfirst : (headerBytes h).take 60 = headerBytes60 h := List.take_left' (headerBytes60_length h)
  have hcrc_lt : (hcrc h).toNat < 256 ^ 4 := (hcrc h).isLt
  rw [hcrcPasses, hlast, hfirst, beNat_beBytes, Nat.mod_eq_of_lt hcrc_lt, hcrc, beq_self_eq_true]

end HeaderWords

/-- Bits of a number, read as a bit vector of just their width. -/
theorem ofNat_bits_eq {w : Nat} {x : BitVec w} {hi lo v : Nat} (h : bits hi lo v = x.toNat) : BitVec.ofNat w (bits hi lo v) = x := by
  rw [h, BitVec.ofNat_toNat, BitVec.setWidth_eq]

/-- The fields of the words of a header are the header's own: each lies above the sum of those to its right. -/
theorem parseHeader_headerBytes (h : Header) : parseHeader (headerBytes h) = h := by
  have hw := fun n hn => wordAt_headerBytes h (n := n) hn
  have := h.version.isLt; have := h.cls.isLt; have := h.opcode.isLt; have := h.flags.isLt; have := h.dest.isLt; have := h.src.isLt
  have := h.comp.isLt; have := h.epoch.isLt; have := h.tenant.isLt; have := h.keySlot.isLt; have := h.keyGen.isLt; have := h.status.isLt
  have := h.seq.isLt; have := h.length.isLt; have := h.stepLo.isLt; have := h.tstamp.isLt
  obtain ⟨version, cls, opcode, flags, dest, src, comp, epoch, tenant, keySlot, keyGen, status, seq, length, addr, etag, stepLo, tstamp⟩ := h
  simp only [parseHeader, hw 0 (by decide), hw 1 (by decide), hw 2 (by decide), hw 3 (by decide), hw 4 (by decide), hw 5 (by decide),
    headerWords, List.getElem_cons_zero, List.getElem_cons_succ, Header.mk.injEq, BitVec.ofNat_toNat, BitVec.setWidth_eq, true_and]
  refine ⟨?_, ?_, ?_, ?_, ?_, ?_, ?_, ?_, ?_, ?_, ?_, ?_, ?_, ?_, ?_, ?_⟩
  all_goals
    apply ofNat_bits_eq
    simp only [bits]
    omega

/-- Settles O60: word by word for the fields, and the last four bytes for `HCRC`. -/
theorem headerRoundTrip : Obligations.HeaderRoundTrip := by
  unfold Obligations.HeaderRoundTrip
  exact fun h => ⟨parseHeader_headerBytes h, hcrcPasses_headerBytes h, headerBytes_length h⟩

end Sys2Proof.Machine
end

section
/-! SUPPORT. Steps: a waiting command runs on the state with the rest of the queue, and whatever runs ends in `commit`, which keeps the variant and
the queue and leaves storage in its canonical form. -/

namespace Sys2Proof.Machine

theorem step_pending_cons (c : Instr) (q : List Instr) (s : State) : step (s.setPending (c :: q)) = exec c (s.setPending q) := rfl

theorem step_of_pending_cons {s : State} {c : Instr} {q : List Instr} (h : s.pending = c :: q) : step s = exec c (s.setPending q) := by
  simp [step, h]

theorem step_of_pending_nil {s : State} (h : s.pending = []) : step s = tick s := by
  simp [step, h]

/-- Settles O54: the two cases of `step`. -/
theorem stepTakesTheFrontCommand : Obligations.StepTakesTheFrontCommand := by
  unfold Obligations.StepTakesTheFrontCommand
  exact ⟨step_pending_cons, fun s h => step_of_pending_nil h⟩

theorem commit_keeps (s t : State) :
    Completes (commit s t) (fun u => u.memOk ∧ u.variant = s.variant ∧ u.pending = s.pending) :=
  ⟨_, rfl, Memory.canon_wf t.mem, rfl, rfl⟩

/-- Settles O55: by the two cases of `step`; each ends in `commit`. -/
theorem stepKeepsTheInvariant : Obligations.StepKeepsTheInvariant := by
  unfold Obligations.StepKeepsTheInvariant
  rintro s v ⟨-, rfl⟩
  cases hq : s.pending with
  | nil =>
    rw [step_of_pending_nil hq, tick, List.tail_nil, ← hq]
    exact commit_keeps s _
  | cons c q =>
    rw [step_of_pending_cons hq]
    obtain ⟨t, ht⟩ := exec_commit c (s.setPending q)
    rw [ht, List.tail_cons]
    exact commit_keeps (s.setPending q) t

/-- Settles O59: the state after reset lists nothing in storage, in the queue or at the ports. -/
theorem resetStarts : Obligations.ResetStarts := by
  unfold Obligations.ResetStarts
  exact ⟨rfl, rfl, rfl, rfl, rfl⟩

end Sys2Proof.Machine
end

section
/-! SUPPORT. Commands that run only while the module runs, and what those of the timers do when they are due: peers asked again (R144, R191), waits
that end (R158, R163, R166, R176, R189, R506) and lends that end (R207, R208). -/

namespace Sys2Proof.Machine

/-- A command of the module's own clock or services takes its effect, and what may now go on goes on. -/
theorem whileRunning_after {s u : State} (f : State → State) (hrun : s.running = true) (hf : f s = u) : whileRunning s f = After s u := by
  rw [whileRunning, if_pos hrun, hf, After]

theorem KMap.find_singleton {α : Type} (k : Nat) (v : α) : KMap.find [(k, v)] k = some v := if_pos rfl

theorem KMap.del_singleton {α : Type} (k : Nat) (v : α) : KMap.del [(k, v)] k = [] := if_pos rfl

variable {s : State}

/-! ## Peers that do not answer -/

theorem resendFetch_due {id : Nat} {f : Fetch} (hfind : KMap.find s.home.fetches id = some f) (hdue : f.lastDay + 64 ≤ s.day) :
    resendFetch s id =
      (let t := s.setHome { s.home with fetches := KMap.put s.home.fetches id { f with lastDay := s.day } }
       let o : OwnReq := { why := .fetch id, dest := f.ep, opcode := f.frame.hdr.opcode, addr := f.frame.hdr.addr, etag := f.frame.hdr.etag }
       sendRequest (t.setXb { t.xb with own := KMap.put t.xb.own (pairKey f.ep f.frame.hdr.seq) o })
         { f.frame with hdr := { f.frame.hdr with flags := f.frame.hdr.flags ||| flagRetry } }) := by
  simp only [resendFetch, hfind, if_neg (Nat.not_lt.mpr hdue)]

theorem binvAgain_due {line : Nat} {ep : Ep} {b : BinvSt} (hfind : KMap.find s.home.binv line = some b) (hmem : ep ∈ b.await)
    (hdue : b.lastDay + 64 ≤ s.day) (hopen : s.day < b.firstDay + 1024) :
    binvAgain s line ep = b.await.foldl (fun s e => repeatBinv s b.comp line e)
      (s.setHome { s.home with binv := KMap.put s.home.binv line { b with lastDay := s.day } }) := by
  have hgo : (!b.await.contains ep || decide (s.day < b.lastDay + 64) || decide (s.day ≥ b.firstDay + 1024)) = false := by
    simp [hmem, Nat.not_lt.mpr hdue, Nat.not_le.mpr hopen]
  simp only [binvAgain, hfind, hgo, Bool.false_eq_true, if_false]

/-- Settles O1. That a back-invalidate goes again to every endpoint still awaited is log 118. -/
theorem silentPeersAskedAgain : Obligations.SilentPeersAskedAgain := by
  unfold Obligations.SilentPeersAskedAgain
  exact ⟨fun s id f hrun hfind hdue => whileRunning_after (resendFetch · id) hrun (resendFetch_due hfind hdue),
    fun s line ep b hrun hfind hmem hdue hopen => whileRunning_after (binvAgain · line ep) hrun (binvAgain_due hfind hmem hdue hopen)⟩

/-! ## Waits that end -/

theorem flaggedTimeout_due {id : Nat} {f : FlagHeld} (hfind : KMap.find s.xb.flagged id = some f) (hflag : f.flagged = true)
    (hdue : f.day + 4096 ≤ s.day) :
    flaggedTimeout s id = completeStatus (freeReq (s.setXb { s.xb with flagged := KMap.del s.xb.flagged id }) f.req) f.req 0x50 := by
  have hgo : (!f.flagged || decide (s.day < f.day + 4096)) = false := by simp [hflag, Nat.not_lt.mpr hdue]
  simp only [flaggedTimeout, hfind, hgo, Bool.false_eq_true, if_false]

theorem noPath_due {id : Nat} {w : PathWait} (hfind : KMap.find s.xb.waiting id = some w) (hdue : w.day + 64 ≤ s.day)
    (hpath : nextPort s w.req.hdr.src w.req.hdr.dest w.req.hdr.cls = none) (hreq : w.req.hdr.isResp = false) (hsrc : w.req.hdr.src ≠ s.self) :
    noPath s id = completeStatus (freeReq (s.setXb { s.xb with waiting := KMap.del s.xb.waiting id }) w.req) w.req 0x50 := by
  have hgo : ¬ (s.day < w.day + 64 ∨ (nextPort s w.req.hdr.src w.req.hdr.dest w.req.hdr.cls).isSome = true ∨ w.req.hdr.isResp = true) := by
    simp [hpath, hreq, Nat.not_lt.mpr hdue]
  simp only [noPath, hfind, if_neg hgo, if_pos hsrc]

theorem waitEnds_due {id : Nat} {w : ArmedWait} (hfind : KMap.find s.home.waits id = some w) (hdue : w.deadline ≤ s.day) :
    waitEnds s id = completeStatus (addHold (s.setHome { s.home with waits := KMap.del s.home.waits id }) (w.counter / 2 ^ 30)
      (w.counter / 65536 % 2 ^ 14) false) w.req 0x50 := by
  simp only [waitEnds, hfind, if_neg (Nat.not_lt.mpr hdue)]

/-- The one request held for its page's frame of T1 fails, and the promotion ordered for it is ordered no more. -/
theorem allocTimeout_due {id : Nat} {h : HeldReq} (hheld : s.home.held = [(id, h)]) (hwhy : h.why = .alloc) (hdue : h.day + 1024 ≤ s.day)
    (hmove : moveOf s h.homeExt h.page = none) (hfull : allocFrames s (moveUnits (s.extCodec h.homeExt).1) = none) :
    allocTimeout s id = failWork (s.setHome { s.home with orders := KMap.keep s.home.orders (fun _ o =>
      !(o.homeExt == h.homeExt && o.page == h.page && o.kind == .promote)) }) h.req 0x50 := by
  have hgo : ¬ ((h.why ≠ .alloc ∧ h.why ≠ .promote) ∨ s.day < h.day + 1024 ∨ (moveOf s h.homeExt h.page).isSome = true
      ∨ (allocFrames s (moveUnits (s.extCodec h.homeExt).1)).isSome = true) := by
    simp [hwhy, hmove, hfull, Nat.not_lt.mpr hdue]
  have hmine : (h.homeExt == h.homeExt && h.page == h.page && (h.why == .alloc || h.why == .promote || h.why == .behind)) = true := by
    simp [hwhy]
  simp only [allocTimeout, hheld, KMap.find_singleton, if_neg hgo, List.filter_cons, hmine, if_true, List.filter_nil, List.map_cons, List.map_nil,
    List.foldl_cons, List.foldl_nil]

theorem ledgerExpires_due {src : Ep} {seq : BitVec 32} {l : LedgerRec} (hfind : KMap.find s.home.ledger (pairKey src seq) = some l)
    (hdue : l.day + 8192 ≤ s.day) (hmark : markOf s src = none) :
    ledgerExpires s src seq =
      s.setHome { s.home with ledger := KMap.del s.home.ledger (pairKey src seq), marks := KMap.put s.home.marks src.toNat (.at_ seq) } := by
  have hmark' : markOf (s.setHome { s.home with ledger := KMap.del s.home.ledger (pairKey src seq) }) src = none := hmark
  simp only [ledgerExpires, hfind, if_neg (Nat.not_lt.mpr hdue), hmark']
  rfl

/-! ## A request that waited for a path -/

theorem neighbours_setXb (x : XbSt) (m : Ep) : neighbours (s.setXb x) m = neighbours s m := rfl

theorem hopLevels_setXb (x : XbSt) (fuel : Nat) (seen frontier : List Ep) : hopLevels (s.setXb x) fuel seen frontier = hopLevels s fuel seen frontier := by
  induction fuel generalizing seen frontier with
  | zero => rfl
  | succ n ih => simp only [hopLevels, neighbours_setXb, ih]

/-- The crossbar's state is no part of the routes. -/
theorem nextPort_setXb (x : XbSt) (src dest : Ep) (cls : BitVec 3) : nextPort (s.setXb x) src dest cls = nextPort s src dest cls := by
  have htowards : ∀ m, portsTowards (s.setXb x) m = portsTowards s m := fun m => by
    unfold portsTowards
    rw [hopLevels_setXb]
    rfl
  unfold nextPort
  simp only [htowards]
  rfl

/-- Behind the first hop a request of `TC1` to `TC7` takes the path that the routes give. -/
theorem choosePort_inner {r : Req} (hedge : r.edge = false) (hcls : r.hdr.cls ≠ 0) :
    choosePort s r = (s, nextPort s r.hdr.src r.hdr.dest r.hdr.cls, false) := by
  rw [choosePort, if_neg hcls, hedge]
  rfl

theorem offerCombine_noCombine {r : Req} (h : r.hdr.noCombine = true) (port : Nat) : offerCombine s r port = none := by
  simp [offerCombine, readCombines, faddCombines, h]

/-- Only the first hop encodes. -/
theorem memberSent_inner {r : Req} (hedge : r.edge = false) : memberSent s r = s := by
  simp [memberSent, encodedAt, hedge]

theorem tryWaiting_goes {id p : Nat} {w : PathWait} (hwait : s.xb.waiting = [(id, w)]) (hedge : w.req.edge = false) (hcls : w.req.hdr.cls ≠ 0)
    (hreq : w.req.hdr.isResp = false) (hno : w.req.hdr.noCombine = true) (hcomb : s.xb.combine = [])
    (hpath : nextPort s w.req.hdr.src w.req.hdr.dest w.req.hdr.cls = some p) :
    tryWaiting s id = forwardReq (s.setXb { s.xb with waiting := [] }) w.req p := by
  have hpath' : nextPort (s.setXb { s.xb with waiting := [] }) w.req.hdr.src w.req.hdr.dest w.req.hdr.cls = some p := by
    rw [nextPort_setXb, hpath]
  have hbehind : ∀ j, behindCombine (s.setXb { s.xb with waiting := [] }) w.req j = false := fun j => by simp [behindCombine, hcomb]
  simp only [tryWaiting, hwait, KMap.find_singleton, KMap.del_singleton, List.any_cons, List.any_nil, Nat.lt_irrefl, decide_false, Bool.false_and,
    Bool.or_false, hreq, Bool.false_eq_true, if_false, choosePort_inner hedge hcls, hpath', hbehind, offerCombine_noCombine hno, memberSent_inner hedge]

/-- Settles O3: one lemma per wait. -/
theorem waitsEnd : Obligations.WaitsEnd := by
  unfold Obligations.WaitsEnd
  refine ⟨⟨?_, ?_, ?_, ?_⟩, ?_, ?_⟩
  · exact fun s id f hrun hfind hflag hdue => whileRunning_after (flaggedTimeout · id) hrun (flaggedTimeout_due hfind hflag hdue)
  · exact fun s id w hrun hfind hdue hpath hreq hsrc => whileRunning_after (noPath · id) hrun (noPath_due hfind hdue hpath hreq hsrc)
  · intro s id w hfind hdue
    simp only [exec, execCtrArmDeadline, waitEnds_due hfind hdue, After]
  · exact fun s id h hrun hheld hwhy hdue hmove hfull => whileRunning_after (allocTimeout · id) hrun (allocTimeout_due hheld hwhy hdue hmove hfull)
  · exact fun s src seq l hrun hfind hdue hmark => whileRunning_after (ledgerExpires · src seq) hrun (ledgerExpires_due hfind hdue hmark)
  · exact fun s id w p hrun hwait hedge hcls hreq hno hcomb hpath =>
      whileRunning_after (tryWaiting · id) hrun (tryWaiting_goes hwait hedge hcls hreq hno hcomb hpath)

/-! ## Lends -/

theorem lendDrained_drained {id : Nat} {l : Lend} (hfind : KMap.find s.home.lends id = some l) (hopen : l.ended = false)
    (hnotice : l.notice.isSome = true) (hpages : pagesAt s (inLend id) = []) (hfetches : fetchesIn s l = []) (holds : s.home.olds = []) :
    lendDrained s id = sendRelease (endLend s id l) id l.lender := by
  have hn : l.notice.isNone = false := by simpa using hnotice
  simp only [lendDrained, hfind, hopen, hn, hpages, hfetches, holds, List.isEmpty_nil, List.any_nil, Bool.not_true, Bool.or_false,
    Bool.false_eq_true, if_false]

theorem lendExpires_due {id d : Nat} {l : Lend} (hfind : KMap.find s.home.lends id = some l) (hopen : l.ended = false) (hnotice : l.notice = some d)
    (hdue : d + 65536 ≤ s.day) (hpages : pagesAt s (inLend id) = []) (hfetches : fetchesIn s l = []) : lendExpires s id = endLend s id l := by
  have hgo : ¬ (l.ended = true ∨ s.day < d + 65536) := by simp [hopen, Nat.not_lt.mpr hdue]
  simp only [lendExpires, hfind, hnotice, if_neg hgo, hpages, hfetches, poisonFetches, List.foldl_nil, List.isEmpty_nil, if_true]

/-- Settles O4: the two ends of a withdrawn lend. -/
theorem lendsEnd : Obligations.LendsEnd := by
  unfold Obligations.LendsEnd
  exact ⟨fun s id l hrun hfind hopen hnotice hpages hfetches holds =>
      whileRunning_after (lendDrained · id.toNat) hrun (lendDrained_drained hfind hopen hnotice hpages hfetches holds),
    fun s id l d hrun hfind hopen hnotice hdue hpages hfetches =>
      whileRunning_after (lendExpires · id.toNat) hrun (lendExpires_due hfind hopen hnotice hdue hpages hfetches)⟩

end Sys2Proof.Machine
end

section
/-! SUPPORT. Moves of pages (R181 to R189), and what the Scrub engines and the sweeps do when their turn comes (R370, R401, R403, R498). -/

namespace Sys2Proof.Machine

/-- A command of the Den's services takes its effect while the module runs, and commands whose time has come are answered too. -/
theorem ifRunning_afterAll {s u : State} (f : State → State) (hrun : s.running = true) (hf : f s = u) :
    commit s (if s.running then finishAll (f s) else s) = AfterAll s u := by
  rw [if_pos hrun, hf, AfterAll]

variable {s : State}

/-! ## Orders -/

theorem denOrder_notT2 {he : Nat} (page : Nat) {dest : Tier} (ep : Ep) (trayPage : Nat) (hext : (s.homeExt he).isSome = true) (hdest : dest ≠ .t2) :
    denOrder s he page dest ep trayPage = orderMove s { homeExt := he, page := page, dest := dest, ep := 0, trayPage := trayPage, kind := .den } := by
  have hnone : (s.homeExt he).isNone = false := by simpa using hext
  simp only [denOrder, hdest, decide_false, Bool.false_and, hnone, Bool.or_false, Bool.false_eq_true, if_false]

/-- The one order that waits for a frame of T1 starts. -/
theorem frameFree_promote {id : Nat} {o : MoveOrder} (horders : s.home.orders = [(id, o)]) (hkind : o.kind = .promote) :
    frameFree s = startMove s id := by
  simp [frameFree, horders, hkind, MoveKind.rank]

theorem homeExt_singleton {he : Nat} {x : HomeExt} (hexts : s.home.exts = [(he, x)]) : s.homeExt he = some x := by
  rw [State.homeExt, hexts, KMap.find_singleton]

theorem pte_singleton {he page : Nat} {x : HomeExt} {p : Pte} (hexts : s.home.exts = [(he, x)]) (hpages : x.pages = [(page, p)]) : s.pte he page = p := by
  simp only [State.pte, homeExt_singleton hexts, KMap.getD, hpages, KMap.find_singleton, Option.getD_some]

/-- The only page there is, if it may go. -/
theorem coldPages_singleton {he page : Nat} {x : HomeExt} {p : Pte} (hexts : s.home.exts = [(he, x)]) (hpages : x.pages = [(page, p)])
    (hstate : p.state = .resident) (htier : p.loc.tier = .t1) (hpin : p.pin = false) (hwritten : p.written = false) (hanchor : p.anchor = false)
    (hhold : p.hold = 0) (hcodec : isF p.codec.toNat = false) : coldPages s = [(he, page)] := by
  have hlead : octetLead s he page = true := by simp [octetLead, movePages, pte_singleton hexts hpages, hcodec]
  simp [coldPages, hexts, hpages, hstate, htier, hpin, hwritten, hanchor, hhold, hlead, sortBy, insertBy]

/-- A page is ordered to a tray where no lend has room. -/
theorem demotionNext_tray {d : Demotion} {q : Nat × Nat} (hshort : d.short ≠ 0) (hroom : setAside d.room q.1 q.2 = none) :
    (d.next q).state = orderMove d.state { homeExt := q.1, page := q.2, dest := .t2, ep := 0, trayPage := 0, kind := .den } := by
  simp only [Demotion.next, if_neg hshort, hroom]

theorem demoteCold_singleton {he page : Nat} (hcold : coldPages s = [(he, page)]) (horders : s.home.orders = [])
    (hshort : freeFrames s < s.alm.cur.settings.t1FreeFloor) (hroom : setAside s he page = none) :
    demoteCold s = orderMove s { homeExt := he, page := page, dest := .t2, ep := 0, trayPage := 0, kind := .den } := by
  simp only [demoteCold, hcold, horders, List.foldl_cons, List.foldl_nil]
  exact demotionNext_tray (q := (he, page)) (Nat.sub_ne_zero_of_lt hshort) hroom

/-- Settles O5: the Den's order, the promotion that a free frame starts, and the demotion that a shortage orders. -/
theorem movesAreOrdered : Obligations.MovesAreOrdered := by
  unfold Obligations.MovesAreOrdered
  refine ⟨?_, ?_, ?_⟩
  · intro s he page dest tray trayPage hrun hext hdest
    exact whileRunning_after (denOrder · he.toNat page.toNat dest tray trayPage.toNat) hrun (denOrder_notT2 _ tray _ hext hdest)
  · intro s id o hrun horders hkind
    exact whileRunning_after frameFree hrun (frameFree_promote horders hkind)
  · intro s he page x p hrun hexts hpages hstate htier hpin hwritten hanchor hhold hcodec horders hshort hlend
    have hroom : setAside s he page = none := by
      simp only [setAside, homeExt_singleton hexts, Option.bind_some, hlend, Option.map_none]
    exact whileRunning_after demoteCold hrun
      (demoteCold_singleton (coldPages_singleton hexts hpages hstate htier hpin hwritten hanchor hhold hcodec) horders hshort hroom)

/-! ## Moves under way -/

/-- The only order there is goes before no other. -/
theorem startOrder_singleton {id : Nat} {o : MoveOrder} (horders : s.home.orders = [(id, o)]) : startOrder s id = startMove s id := by
  have hfirst : goesBefore (id, o) (id, o) = false := by simp [goesBefore]
  simp only [startOrder, horders, KMap.find_singleton, List.any_cons, List.any_nil, hfirst, Bool.false_and, Bool.or_false, Bool.false_eq_true, if_false]

theorem endPass_copied {id : Nat} {m : MoveRec} (hfind : KMap.find s.home.moves id = some m)
    (hcopied : (moveGroup s m).any (fun x => moveWaits s x.1) = false) (hown : m.src.lower = false ∨ m.dst.lower = false ∨ m.passes ≠ 0) :
    endPass s id =
      if m.dirty.length > 32 ∧ m.passes < 3 then
        s.setHome { s.home with moves := KMap.put s.home.moves id { m with passes := m.passes + 1, dirty := [] } }
      else flipGroup s (moveGroup s m) := by
  have hrelay : (m.src.lower && m.dst.lower && m.passes == 0) = false := by
    rcases hown with h | h | h <;> simp [h]
  simp only [endPass, hfind, hcopied, hrelay, Bool.false_eq_true, if_false, Nat.add_lt_iff_lt_sub_right]

theorem freeSource_unused {id : Nat} {o : OldSource} (hfind : KMap.find s.home.olds id = some o) (hunused : o.accesses = 0) :
    freeSource s id = dropLoc (s.setHome { s.home with olds := KMap.del s.home.olds id }) o.loc o.units := by
  simp only [freeSource, hfind, hunused, Nat.lt_irrefl, gt_iff_lt, if_false]

/-- Settles O6: the start, the passes and the end of a move. -/
theorem movesRun : Obligations.MovesRun := by
  unfold Obligations.MovesRun
  refine ⟨?_, ?_, ?_⟩
  · exact fun s id o hrun horders => whileRunning_after (startOrder · id) hrun (startOrder_singleton horders)
  · exact fun s id m hrun hfind hcopied hown => whileRunning_after (endPass · id) hrun (endPass_copied hfind hcopied hown)
  · exact fun s id o hrun hfind hunused => whileRunning_after (freeSource · id) hrun (freeSource_unused hfind hunused)

/-! ## Scrubs -/

/-- With nothing out to trays and lenders, the first page of an item that has begun is the one that is finished. -/
theorem scrubPage_first {e id p : Nat} {i : ScrubItem} {rest : List Nat} (hitem : firstItem s = some (id, i)) (hbegun : i.begun = true)
    (hpages : i.pages = p :: rest) (hout : s.home.fetches = []) (hstep : s.power.step < 3) (heng : (s.engine .scrub e).state = .service) :
    scrubPage s e = (scrubbedPage (s.setScrub (KMap.put s.scrub id { i with pages := i.pages.filter (· != p) })) i.homeExt p).updEngine .scrub e
      (fun x => { x with c0 := satAdd 32 x.c0 1 }) := by
  have hruns : (!scrubRuns s || (s.engine .scrub e).state != .service) = false := by simp [scrubRuns, hstep, heng]
  have hfirst : i.pages.find? (fun p => !zerosOut s id i.homeExt p) = some p := by simp [hpages, zerosOut, hout]
  have hitself : { i with begun := true } = i := by rw [← hbegun]
  simp only [scrubPage, hitem, hruns, Bool.false_eq_true, if_false, beginItem, hbegun, if_true, hitself, hfirst]

/-- An item of which nothing is left leaves the queue with what its kind asks for. -/
theorem scrubItem_done {id : Nat} {i : ScrubItem} (hitem : firstItem s = some (id, i)) (hpages : i.pages = []) (hframes : i.trayFrames = 0)
    (hout : s.home.fetches = []) :
    (i.kind = .keyLost → scrubItem s = (s.setScrub (KMap.del s.scrub id)).updExt i.homeExt extentClean)
      ∧ (i.kind = .extent → scrubItem s = propose (s.setScrub (KMap.del s.scrub id)) i.comp (.done (.ofNat 20 i.idx)) 0) := by
  constructor
  all_goals
    intro hkind
    simp only [scrubItem, hitem, hpages, hframes, hout, hkind, List.isEmpty_nil, Bool.not_true, Nat.lt_irrefl, gt_iff_lt, decide_false, List.any_nil,
      Bool.or_false, Bool.false_eq_true, if_false]

/-- Settles O8: one page of the first item, and the end of an item of either kind. -/
theorem scrubsProceed : Obligations.ScrubsProceed := by
  unfold Obligations.ScrubsProceed
  constructor
  · intro s e id p i rest hrun hitem hbegun hpages hout hstep heng
    exact whileRunning_after (scrubPage · e.toNat) hrun (scrubPage_first hitem hbegun hpages hout hstep heng)
  · intro s id i hrun hitem hpages hframes hout
    obtain ⟨hlost, hext⟩ := scrubItem_done hitem hpages hframes hout
    exact ⟨fun hkind => ifRunning_afterAll scrubItem hrun (hlost hkind), fun hkind => ifRunning_afterAll scrubItem hrun (hext hkind)⟩

/-! ## Sweeps -/

theorem sweepPage_t1 {slot he page stack frame f : Nat} {w : Sweep} {k : KeySlot} {rest : List (Nat × Nat)} (hw : KMap.find s.sweeps slot = some w)
    (hk : KMap.find s.kp.slots slot = some k) (hscrub : s.scrub = []) (hstep : s.power.step < 3) (hahead : pagesAhead s k = (he, page) :: rest)
    (hstate : (s.pte he page).state = .resident) (hloc : (s.pte he page).loc = .t1 stack frame) (hcodec : isF (s.pte he page).codec.toNat = false)
    (hfree : freeRunFrom s stack 1 (frameFuel s stack 1) 0 = some f) :
    sweepPage s slot =
      (let t := takeFrames s stack f 1
       let u := t.setMem (Memory.writeBytes t.mem (t1Base + (stack * 786432 + f) * 65536) (Memory.readBytes t.mem (t1Base + (stack * 786432 + frame) * 65536) 65536))
       sweepSwitch u slot { w with pagesLeft := (he, page) :: rest } he page (.t1 stack f)) := by
  have hruns : (!scrubRuns s || !s.scrub.isEmpty) = false := by simp [scrubRuns, hstep, hscrub]
  have hmoving : ¬ (s.pte he page).state = .moving := by simp [hstate]
  simp only [sweepPage, hw, hk, hruns, hahead, if_neg hmoving, hloc, hcodec, hfree, Bool.false_eq_true, if_false]

/-- With no page left the sweep ends. -/
theorem sweepDone_none {slot : Nat} {w : Sweep} {k : KeySlot} (hw : KMap.find s.sweeps slot = some w) (hk : KMap.find s.kp.slots slot = some k)
    (hahead : pagesAhead s k = []) :
    sweepDone s slot =
      (s.setKp { s.kp with slots := KMap.put s.kp.slots slot { k with state := 1, keys := KMap.keep k.keys (fun g _ => g == k.gen.toNat),
                                                                      sweepExt := 0, sweepPage := 0 } }).setSweeps (KMap.del s.sweeps slot) := by
  simp only [sweepDone, hw, hk, hahead, List.isEmpty_nil, if_true, sweepEnds]

/-- Settles O9: one page of a sweep in T1, and its end. -/
theorem sweepsProceed : Obligations.SweepsProceed := by
  unfold Obligations.SweepsProceed
  constructor
  · intro s slot w k he page stack frame f rest hrun hw hk hscrub hstep hahead hstate hloc hcodec hfree
    exact whileRunning_after (sweepPage · slot.toNat) hrun (sweepPage_t1 hw hk hscrub hstep hahead hstate hloc hcodec hfree)
  · intro s slot w k hrun hw hk hahead
    exact ifRunning_afterAll (sweepDone · slot.toNat) hrun (sweepDone_none hw hk hahead)

end Sys2Proof.Machine
end

section
/-! SUPPORT. Resets (R484, R493 to R497) and the Sett's samples (R486, R488): how they are ordered, how they end and what a sample decides. -/

namespace Sys2Proof.Machine

/-- A command of the control node that its session accepts takes its effect, and commands whose time has come are answered. -/
theorem commandRow_afterAll {s u : State} {m : CmdRef} {x : Session} (code : Nat) (f : State → State) (h : Accepts s m x)
    (hf : f (accepted s m code x) = u) : commandRow s m code f = AfterAll s u := by
  rw [commandRow_accepts h, hf]

variable {s : State}

/-! ## What acceptance leaves as it was -/

section Accepted
variable (s) (m : CmdRef) (code : Nat) (x : Session)

@[simp] theorem accepted_variant : (accepted s m code x).variant = s.variant := rfl
@[simp] theorem accepted_rst : (accepted s m code x).rst = s.rst := rfl
@[simp] theorem accepted_power : (accepted s m code x).power = s.power := rfl
@[simp] theorem accepted_alm : (accepted s m code x).alm = s.alm := rfl
@[simp] theorem accepted_day : (accepted s m code x).day = s.day := rfl
@[simp] theorem accepted_engine (k : EngineKind) (n : Nat) : (accepted s m code x).engine k n = s.engine k n := rfl
@[simp] theorem accepted_enginePresent (k : EngineKind) (n : Nat) : enginePresent (accepted s m code x) k n = enginePresent s k n := rfl
@[simp] theorem accepted_fencedSelf : fencedSelf (accepted s m code x) = fencedSelf s := rfl

end Accepted

/-! ## Orders -/

/-- The first order for an engine stands, with the command that it will answer. -/
theorem orderUnit_first {k : EngineKind} {n : Nat} (m : Option CmdRef) (hnone : KMap.find s.rst.units (engKey k n) = none) :
    orderUnit s k n m = s.setRst { s.rst with units := KMap.put s.rst.units (engKey k n) (s.day, m) } := by
  simp only [orderUnit, hnone, Option.isSome_none, Bool.false_eq_true, if_false]

/-- An order of a package reset stands whatever is ordered already. -/
theorem orderReset_package (s : State) : orderReset s .package none = s.setRst { s.rst with order := some .package } := by
  unfold orderReset
  split <;> rfl

theorem orderReset_first {c : ResetClass} {m : CmdRef} (hnone : s.rst.order = none) :
    orderReset s c (some m) = s.setRst { s.rst with order := some c, answerTo := some m } := by
  simp only [orderReset, hnone, Option.isSome_some, if_true]

/-- Settles O11: an engine's or a slice's own fault, and the control node's three commands. -/
theorem resetsAreOrdered : Obligations.ResetsAreOrdered := by
  unfold Obligations.ResetsAreOrdered
  refine ⟨?_, ?_, ?_, ?_⟩
  · intro s k n hrun hpresent hservice hnone
    simp only [exec, execEngineNoProgress, hrun, hpresent, hservice, orderUnit_first none hnone, beq_self_eq_true, Bool.and_self, if_true]
  · intro s n hrun hn
    simp only [exec, execT0CarveError, hrun, hn, orderReset_package, decide_true, Bool.and_self, if_true]
  · intro s m x k n hacc hpresent hservice hnone
    refine commandRow_afterAll 0x58 _ hacc ?_
    have hgo : (enginePresent s k n.toNat && (s.engine k n.toNat).state != .retired) = true := by simp [hpresent, hservice]
    have hnone' : KMap.find (accepted s m 0x58 x).rst.units (engKey k n.toNat) = none := hnone
    simp only [accepted_enginePresent, accepted_engine, hgo, if_true, orderUnit_first _ hnone', accepted_rst, accepted_day]
  · intro s m x hacc hnone
    have hnone' : (accepted s m 0x58 x).rst.order = none := hnone
    exact ⟨commandRow_afterAll 0x58 (orderReset · .warm (some m)) hacc (orderReset_first hnone'),
      commandRow_afterAll 0x58 (orderReset · .package (some m)) hacc (orderReset_first hnone')⟩

/-! ## Ends -/

theorem updEngine_congr {k : EngineKind} {n : Nat} {f g : EngineSt → EngineSt} (h : f (s.engine k n) = g (s.engine k n)) :
    s.updEngine k n f = s.updEngine k n g := by
  rw [State.updEngine, h, State.updEngine]

/-- With no chunk open a retired engine leaves nothing to close. -/
theorem closeRetired_none (h : s.eng.chunks = []) : closeRetired s = s := by
  rw [closeRetired, h, List.foldl_nil]

theorem closeRetired_updEngine (h : s.eng.chunks = []) (x : ResetSt) (k : EngineKind) (n : Nat) (f : EngineSt → EngineSt) :
    closeRetired ((s.setRst x).updEngine k n f) = (s.setRst x).updEngine k n f := closeRetired_none h

theorem endUnit_due {k : EngineKind} {n d : Nat} (hfind : KMap.find s.rst.units (engKey k n) = some (d, none)) (hdue : d + 17 ≤ s.day)
    (hheld : (s.engine k n).state = .held) (hchunks : s.eng.chunks = []) :
    endUnit s k n = (s.setRst { s.rst with units := KMap.del s.rst.units (engKey k n) }).updEngine k n
      (fun e => { e with state := if 3 ≤ (s.engine k n).weekResets then .retired else .service }) := by
  have hgo : ¬ (s.day < d + 1 + unitDays ∨ (s.engine k n).state = .service) := by
    have : ¬ s.day < d + 1 + 16 := by omega
    simp [unitDays, this, hheld]
  simp only [endUnit, hfind, if_neg hgo]
  rw [closeRetired_updEngine hchunks, ite_self]
  apply updEngine_congr
  have hheld' : ((s.setRst { s.rst with units := KMap.del s.rst.units (engKey k n) }).engine k n).state = .held := hheld
  simp [hheld']

theorem warmEnds_due {d : Nat} (hrun : s.rst.running = some (.warm, d)) (hdue : d ≤ s.day) :
    warmEnds s = answerReset (holdFenced (answerUnits (dueActions (coreStarts s)))) := by
  simp only [warmEnds, hrun, if_neg (Nat.not_lt.mpr hdue)]

theorem packageEnds_due {d : Nat} (hrun : s.rst.running = some (.package, d)) (hdue : d ≤ s.day) :
    packageEnds s = answerReset (holdFenced (dueActions (rebuildTables (coreStarts (s.setScrub []))))) := by
  simp only [packageEnds, hrun, if_neg (Nat.not_lt.mpr hdue)]

/-- Settles O12: one lemma per class of reset. -/
theorem resetsEnd : Obligations.ResetsEnd := by
  unfold Obligations.ResetsEnd
  refine ⟨?_, ?_, ?_⟩
  · intro s k n d hrun hfind hdue hheld hchunks
    simp only [exec, execUnitResetEnd, hrun, if_true, endUnit_due hfind hdue hheld hchunks, After]
  · intro s d hrun hdue
    simp only [exec, execWarmResetEnd, warmEnds_due hrun hdue, AfterAll]
  · intro s d hrun hdue
    simp only [exec, execPackageResetEnd, packageEnds_due hrun hdue, AfterAll]

/-! ## Samples -/

/-- A loop keeps what each of its turns keeps. -/
theorem foldl_keeps {α β : Type} (g : State → α) {f : State → β → State} (hf : ∀ s b, g (f s b) = g s) (l : List β) (s : State) :
    g (l.foldl f s) = g s := by
  induction l generalizing s with
  | nil => rfl
  | cons b l ih => rw [List.foldl_cons, ih, hf]

@[simp] theorem note_power (s : State) (stream : Nat) (body : List W64) : (note s stream body).power = s.power :=
  foldl_keeps State.power (fun s p => by split <;> rfl) _ _

/-- A change of the throttle step leaves the filters. -/
theorem setStep_tMax (s : State) (n : Nat) : (setStep s n).power.tMax = s.power.tMax := by
  unfold setStep
  split
  · rfl
  · rw [note_power]
    rfl

theorem settSample_below {r : SettReading} (hon : s.power.inputOn = true) (hcool : (takeSample s.power r).tMax < 110) (hwake : r.wakeLow = false) :
    settSample s r = setStep (s.setPower (takeSample s.power r)) (stepAfter (takeSample s.power r) r) := by
  have hoff : (!s.power.inputOn) = false := by rw [hon]; rfl
  have htemp : ¬ (tShutdown ≤ (takeSample s.power r).tMax) := Nat.not_le.mpr hcool
  simp only [settSample, hoff, Bool.false_eq_true, if_false, setStep_tMax, State.setPower_power, ge_iff_le, htemp, hwake, false_and]

theorem lowerStep_cool (hcool : 100 ≤ s.power.okSamples) (hstep : 0 < s.power.step) :
    lowerStep s = setStep (s.setPower { s.power with okSamples := 0 }) (s.power.step - 1) := by
  rw [lowerStep, if_pos ⟨hcool, hstep⟩]
  rfl

/-- Settles O13: the sample's decision is `stepAfter`. -/
theorem throttleFollowsSamples : Obligations.ThrottleFollowsSamples := by
  unfold Obligations.ThrottleFollowsSamples
  constructor
  · intro s r hon hcool hwake
    simp only [exec, execSettSample, settSample_below hon hcool hwake, stepAfter, After]
  · intro s hon hcool hstep
    simp only [exec, execThrottleLower, hon, if_true, lowerStep_cool hcool hstep, After]

end Sys2Proof.Machine
end

section
/-! SUPPORT. Power (R481, R485, R490, R491, R493): what cutting and restoring the dies' power leaves of the Sett's own power state. -/

namespace Sys2Proof.Machine

/-! ## The Sett's power state is no part of what the dies lose -/

section Keeps
variable (s : State)

@[simp] theorem updExt_power (he : Nat) (f : HomeExt → HomeExt) : (s.updExt he f).power = s.power := by
  unfold State.updExt
  split <;> rfl

@[simp] theorem updPte_power (he page : Nat) (f : Pte → Pte) : (s.updPte he page f).power = s.power := updExt_power s he _

@[simp] theorem dropLoc_power (l : Loc) (units : Nat) : (dropLoc s l units).power = s.power := by
  unfold dropLoc
  split <;> rfl

@[simp] theorem abandonMove_power (id : Nat) (counted : Bool) : (abandonMove s id counted).power = s.power := by
  unfold abandonMove
  split
  · rfl
  · have hpages : ∀ (g : List (Nat × MoveRec)) (t : State),
        (g.foldl (fun s x => s.updPte x.2.homeExt x.2.page (fun p => { p with state := .resident, move := 0 })) t).power = t.power :=
      fun g t => foldl_keeps State.power (by intros; exact updPte_power _ _ _ _) g t
    dsimp only
    split
    · exact (hpages _ _).trans (dropLoc_power _ _ _)
    · exact (hpages _ _).trans (dropLoc_power _ _ _)

@[simp] theorem orderMove_power (o : MoveOrder) : (orderMove s o).power = s.power := by
  unfold orderMove
  split <;> rfl

@[simp] theorem abandonMoves_power (f : MoveRec → Bool) : (abandonMoves s f).power = s.power :=
  foldl_keeps State.power (fun s m => by
    dsimp only
    split
    · split <;> simp
    · simp) _ s

@[simp] theorem assertWarm_power : (assertWarm s).power = s.power := by
  have holds : ∀ (l : KMap OldSource) (t : State),
      (l.foldl (fun s o => dropLoc (s.setHome { s.home with olds := KMap.del s.home.olds o.1 }) o.2.loc o.2.units) t).power = t.power :=
    fun l t => foldl_keeps State.power (by intros; exact dropLoc_power _ _ _) l t
  unfold assertWarm
  simp only [↓State.setTime_power, ↓State.setEqx_power, ↓State.setSweeps_power, ↓State.setHealth_power, ↓State.setCh_power, ↓State.setDen_power,
    ↓State.setKp_power, ↓State.setEng_power, ↓State.setHome_power, ↓State.setXb_power, ↓State.setPorts_power, ↓holds, ↓abandonMoves_power]

@[simp] theorem loseStore_power : (loseStore s).power = s.power := by
  unfold loseStore
  simp only [↓State.setSweeps_power, ↓State.setMem_power, ↓State.setEng_power, ↓State.setHome_power]

@[simp] theorem clearMeters_power (cls : BitVec 2) : (clearMeters s cls).power = s.power := rfl

@[simp] theorem keeperNote_power : (keeperNote s).power = s.power := note_power s _ _

@[simp] theorem storeAnswers_power (l : List Answer) : (storeAnswers s l).power = s.power := by
  rw [storeAnswers, State.setFn_power]

@[simp] theorem endSession_power (id : Nat) : (endSession s id).power = s.power := by
  unfold endSession
  split
  · rfl
  · simp only [↓State.setFn_power, ↓storeAnswers_power, ↓keeperNote_power, ↓State.setKp_power]

@[simp] theorem assertPackage_power : (assertPackage s).power = s.power := by
  have hsessions : (s.kp.sessions.foldl (fun s x => endSession s x.1) s).power = s.power :=
    foldl_keeps State.power (by intros; exact endSession_power _ _) _ s
  unfold assertPackage
  simp only [↓clearMeters_power, ↓State.setHealth_power, ↓State.setCh_power, ↓State.setEqx_power, ↓State.setDen_power, ↓State.setLanes_power,
    ↓State.setEng_power, ↓State.setKp_power, ↓loseStore_power, ↓assertWarm_power, hsessions]

@[simp] theorem answer_power (m : CmdRef) (status reason : Nat) (body : List Byte) : (answer s m status reason body).power = s.power := by
  unfold answer
  dsimp only
  split <;> rfl

@[simp] theorem answerUnits_power : (answerUnits s).power = s.power :=
  foldl_keeps State.power (fun s u => by split <;> simp) _ (s.setRst { s.rst with units := [] })

@[simp] theorem answerReset_power : (answerReset s).power = s.power := by
  unfold answerReset
  split <;> simp

@[simp] theorem bootImage_power : (bootImage s).power = s.power := by
  rw [bootImage]
  simp only [apply_ite State.power, State.setKp_power, ite_self]

@[simp] theorem membership_power : (membership s).power = s.power := by
  unfold membership
  split <;> rfl

@[simp] theorem coresUp_power : (coresUp s).power = s.power := by
  unfold coresUp
  simp only [↓State.setEqx_power, ↓membership_power, ↓keeperNote_power, ↓bootImage_power, ↓State.setEng_power, ↓State.setDen_power, ↓State.setKp_power,
    ↓State.setRst_power]

@[simp] theorem renewKeys_power : (renewKeys s).power = s.power :=
  foldl_keeps State.power (fun s k => by split <;> rfl) _ s

@[simp] theorem queueLost_power : (queueLost s).power = s.power := by
  unfold queueLost
  refine (foldl_keeps State.power (by intros; rfl) _ _).trans ?_
  refine (foldl_keeps State.power (by intros; dsimp only; split <;> rfl) _ _).trans ?_
  exact foldl_keeps State.power (by intros; rfl) _ s

@[simp] theorem rebuildTables_power : (rebuildTables s).power = s.power := (queueLost_power _).trans (renewKeys_power s)

/-- Losing the dies' power leads to S3 and leaves the rest of the Sett's power state. -/
@[simp] theorem sleep_power : (sleep s).power = { s.power with pstate := .s3 } := by
  unfold sleep
  simp only [↓State.setPower_power, ↓State.setTime_power, ↓State.setRst_power, ↓answerUnits_power, ↓State.setMeterReset_power, ↓clearMeters_power,
    ↓assertPackage_power]

/-- The power-up sequence leads to P0 with the pins of a shutdown released (R491). -/
@[simp] theorem powerUp_power : (powerUp s).power = { s.power with pstate := .p0, thermtripLow := false, alertLow := false, leakLow := false } := by
  rw [powerUp, answerReset_power, rebuildTables_power, coresUp_power]
  rfl

theorem wipe_pwrEn : (wipe s).power.pwrEn = s.power.pwrEn := by
  unfold wipe
  simp only [↓State.setPower_power, ↓State.setFn_power, ↓State.setKp_power, ↓State.setDen_power, ↓State.setXb_power, ↓State.setHome_power,
    ↓State.setPorts_power, ↓State.setTime_power, ↓sleep_power]

end Keeps

variable {s : State}

/-- A power-on reset with `PWR_EN` high ends in P0, in the first phase of an Equinox. -/
theorem powerOnReset_up (h : s.power.pwrEn = true) : (powerOnReset s).power.pstate = .p0 ∧ (powerOnReset s).eqx.phase = 1 := by
  rw [powerOnReset, wipe_pwrEn, if_pos h]
  rw [State.setEqx_power, State.setEqx_eqx, powerUp_power]
  exact ⟨rfl, rfl⟩

/-- A property of what a meaning makes that reads neither the variant nor the queue holds of its answer. -/
theorem completes_commit (s : State) {t : State} {p : State → Prop}
    (h : p { t with variant := s.variant, pending := s.pending, mem := Memory.canon t.mem }) : Completes (commit s t) p := ⟨_, rfl, h⟩

/-! ## Shutdowns -/

/-- Settles O14: a leak and the losses of power go through `sleep`, an overvoltage through `wipe`. -/
theorem shutdownsCutPower : Obligations.ShutdownsCutPower := by
  unfold Obligations.ShutdownsCutPower
  refine ⟨?_, ?_, ?_, ?_⟩
  · intro s hon hup
    have hup' : railsUp (s.setPower { s.power with leakLow := true }) = true := hup
    rw [exec, execLeakN, if_pos hon, shutDown, if_pos hup']
    exact completes_commit s ⟨by simp, rfl, rfl, rfl⟩
  · intro s hon hup
    rw [exec, execRailFail, if_pos hon, if_pos hup]
    exact completes_commit s ⟨by simp, rfl, rfl, rfl⟩
  · intro s hup
    rw [exec, execUndervoltage, if_pos hup]
    exact completes_commit s ⟨rfl, rfl, rfl⟩
  · intro s hon
    rw [exec, execOvervoltage, if_pos hon]
    exact completes_commit s ⟨rfl, rfl⟩

/-! ## Power-up and wake -/

theorem wake_s1 (h : s.power.pstate = .s1) : wake s = leaveS1 s := if_pos h

theorem wake_s3 (h : s.power.pstate = .s3) (hpwr : s.power.pwrEn = true) : wake s = powerUp s := by
  rw [wake, if_neg (by rw [h]; decide), if_pos ⟨h, hpwr⟩]

/-- Settles O15: the input and `POR_N` go through `powerOnReset`, a wake from S3 through `powerUp` alone. -/
theorem powerUpEndsInP0 : Obligations.PowerUpEndsInP0 := by
  unfold Obligations.PowerUpEndsInP0
  refine ⟨?_, ?_, ?_, ?_, ?_, ?_⟩
  · intro s hoff hpwr
    rw [exec, execInputTurnOn, if_neg (by rw [hoff]; decide)]
    exact completes_commit s (powerOnReset_up (s := s.setPower { s.power with inputOn := true }) hpwr)
  · intro s hon hpwr
    rw [exec, execPorN, if_pos hon]
    exact completes_commit s (powerOnReset_up hpwr)
  · intro s hon hs1
    rw [exec, execWakeN, if_pos hon, wake_s1 hs1]
    exact completes_commit s ⟨rfl, rfl, rfl, rfl⟩
  · intro s hon hs3 hpwr
    rw [exec, execWakeN, if_pos hon, wake_s3 hs3 hpwr]
    exact completes_commit s ⟨by simp, by simp⟩
  · intro s hon hs3 hpwr
    have hrises : (true && !s.power.pwrEn && s.power.inputOn && s.power.pstate == .s3) = true := by simp [hon, hs3, hpwr]
    rw [exec, execPwrEn, if_pos hrises]
    exact completes_commit s ⟨by simp, by simp⟩
  · intro s
    rfl

/-! ## Commands -/

/-- Settles O16: each class as the module stands in its state. That classes 0x4 to 0x7 strike at once is log 162. -/
theorem powerCommandsAct : Obligations.PowerCommandsAct := by
  unfold Obligations.PowerCommandsAct
  refine ⟨?_, ?_, ?_⟩
  · intro s m x hacc
    exact commandRow_afterAll 0x58 (fun s => answer (powerOnReset s) m 0 0 []) hacc rfl
  · intro s m x hacc hfenced
    constructor
    · intro hp0
      refine commandRow_afterAll 0x58 _ hacc ?_
      simp only [accepted_fencedSelf, accepted_power, hfenced, hp0, beq_self_eq_true, Bool.and_self, if_true]
    · refine commandRow_afterAll 0x58 _ hacc ?_
      simp only [accepted_fencedSelf, hfenced, if_true]
  · intro s m x hacc hs1
    refine commandRow_afterAll 0x58 _ hacc ?_
    simp only [accepted_power, hs1, if_true]

end Sys2Proof.Machine
end

section
/-! SUPPORT. Registers and T0 slices (R90, R442, R464, R469 to R479): what a write does, and how a read or write of the control node is admitted. -/

namespace Sys2Proof.Machine

variable {s : State}

/-! ## Writes -/

/-- Clearing the low bits of a number, as a mask. -/
theorem ofNat_clearLow (v : W64) (k : Nat) : BitVec.ofNat 64 (v.toNat / 2 ^ k * 2 ^ k) = v &&& (BitVec.allOnes 64 <<< k) := by
  have hshift : BitVec.ofNat 64 (v.toNat / 2 ^ k * 2 ^ k) = v >>> k <<< k := by
    apply BitVec.eq_of_toNat_eq
    simp [Nat.shiftRight_eq_div_pow, Nat.shiftLeft_eq]
  rw [hshift]
  ext i hi
  by_cases hk : i < k
  · simp [hk]
  · have hik : k + (i - k) = i := by omega
    simp [-BitVec.reduceAllOnes, hk, hi, hik]

theorem writeMirror_mirCtrl (s : State) (v : W64) : (writeMirror s v).xb.mirCtrl = v &&& (BitVec.allOnes 64 <<< 28) := ofNat_clearLow v 28

theorem kick_up {c : Nat} (hc : c < 48) (hup : s.den.coreUp.getLsbD c = true) :
    kick s c = s.setDen { s.den with lastKick := KMap.put s.den.lastKick c s.day } := by
  simp only [kick, hc, hup, decide_true, Bool.and_self, if_true]

/-- An edge port that is up goes down and tells the other end; a fabric port would report its link. -/
theorem retrain_edge {p : Nat} {b : PortBind} (hb : s.bind p = some b) (hedge : b.fabric = false) (hup : (s.port p).up = true) :
    retrain s p = (sendControl (portOut s p) p 9 4).updPort p (fun x => { x with retraining := true, delayValid := false }) := by
  simp only [retrain, hb, hedge, hup, Bool.not_true, Bool.false_eq_true, if_false]

/-- Settles O18: one register after another. -/
theorem registerWritesAct : Obligations.RegisterWritesAct := by
  unfold Obligations.RegisterWritesAct
  refine ⟨⟨?_, ?_, ?_, ?_, ?_, ?_⟩, ?_⟩
  · intro s v hrun
    rw [exec, execStThreshWrite, if_pos hrun, writeThresh]
  · intro s c hrun hc hup
    rw [exec, execStWdogKick, if_pos hrun, kick_up hc hup]
  · intro s hrun
    rw [exec, execSkewAlarmClear, if_pos hrun]
  · intro s i w v hrun
    rw [exec, execXbMirRuleWrite, if_pos hrun, writeReg]
  · intro s v hrun
    rw [exec, execXbMirCtrlWrite, if_pos hrun]
    exact completes_commit s (writeMirror_mirCtrl s v)
  · intro s a v den hrun
    rw [exec, execRegisterWriteOther, if_pos hrun]
    rfl
  · intro s p b hrun hb hedge hup
    rw [exec, execPortRetrain, if_pos hrun, retrain_edge hb hedge hup, After]

/-! ## Commands of the control node -/

/-- Settles O19: reads and writes inside the windows are admitted, and a carve read within its slice is answered. -/
theorem registerCommandsAreAdmitted : Obligations.RegisterCommandsAreAdmitted := by
  unfold Obligations.RegisterCommandsAreAdmitted
  refine ⟨?_, ?_, ?_⟩
  · intro s m x l hacc hlen hin
    refine commandRow_afterAll 0x10 _ hacc ?_
    have hok : ¬ (l.length > 512 ∨ (l.any fun a => !inWindow a.toNat) = true) := by
      simp only [List.any_eq_true, not_or, not_exists, not_and, Nat.not_lt, gt_iff_lt]
      exact ⟨hlen, fun a ha => by rw [hin a ha]; decide⟩
    rw [if_neg hok]
    rfl
  · intro s m x l hacc hlen hin
    refine commandRow_afterAll 0x11 _ hacc ?_
    have hok : ¬ (l.length > 512 ∨ (l.any fun p => !inWindow p.1.toNat) = true) := by
      simp only [List.any_eq_true, not_or, not_exists, not_and, Nat.not_lt, gt_iff_lt]
      exact ⟨hlen, fun p hp => by rw [hin p hp]; decide⟩
    rw [if_neg hok]
    rfl
  · intro s m x slice off len hacc hlen hend hslice
    refine commandRow_afterAll 0x12 _ hacc ?_
    rw [if_neg (by rw [accepted_variant]; omega)]

end Sys2Proof.Machine
end

section
/-! SUPPORT. The Day (R22, R28, R36, R38, R98), the phases of the Equinox (R31, R32) and the joining of a running fabric (R35). -/

namespace Sys2Proof.Machine

variable {s : State}

/-! ## The Day -/

theorem nextDay_day (t : TimeSt) : (nextDay t).day = t.day + 1 := by
  have hleap : (leapEnds t).day = t.day := by unfold leapEnds; split <;> rfl
  have hdrift : (drift (leapEnds t)).day = (leapEnds t).day := by unfold drift; split <;> rfl
  show (drift (leapEnds t)).day + 1 = _
  rw [hdrift, hleap]

theorem sampleReads_none (h : s.fn.reads = []) : sampleReads s = s := by rw [sampleReads, h, List.foldl_nil]

/-- With no reset decided, none is asserted. -/
theorem assertResets_none (hunits : s.rst.units = []) (horder : s.rst.order = none) : assertResets s = s := by
  have hu : assertUnits s = s := by rw [assertUnits, hunits, List.foldl_nil]
  simp only [assertResets, hu, horder]

/-- A module that does not run only counts. -/
theorem dayBoundary_stopped (hon : s.power.inputOn = true) (hrun : s.running = false) (hreads : s.fn.reads = []) :
    dayBoundary s = s.setTime (nextDay { s.time with cycle := max 2048 s.time.cycle }) := by
  have hin : (!s.power.inputOn) = false := by rw [hon]; rfl
  have hnot : ∀ x y, ((s.setTime x).setTime y).running = false := fun _ _ => hrun
  have hsample : ∀ x, sampleReads (s.setTime x) = s.setTime x := fun _ => sampleReads_none hreads
  simp only [dayBoundary, hin, hsample, hnot, Bool.not_false, Bool.false_eq_true, if_false, if_true]
  rfl

/-- In a module that runs, with no reset decided, the day's work follows in the order of R28 and log 165. -/
theorem dayBoundary_running (hon : s.power.inputOn = true) (hrun : s.running = true) (hreads : s.fn.reads = []) (hunits : s.rst.units = [])
    (horder : s.rst.order = none) :
    dayBoundary s = finishAll (leaderWatch (resubmit (retryOwn (sendHeartbeats (sentinelDay (serviceDay (dayActions
      (s.setTime (nextDay { s.time with cycle := max 2048 s.time.cycle })))))))))  := by
  have hin : (!s.power.inputOn) = false := by rw [hon]; rfl
  have hruns : ∀ x y, ((s.setTime x).setTime y).running = true := fun _ _ => hrun
  have hresets : ∀ x y, assertResets ((s.setTime x).setTime y) = (s.setTime x).setTime y :=
    fun _ _ => assertResets_none hunits horder
  have hsample : ∀ x, sampleReads (s.setTime x) = s.setTime x := fun _ => sampleReads_none hreads
  simp only [dayBoundary, hin, hsample, hruns, hresets, if_true, Bool.not_true, Bool.false_eq_true, if_false]
  rfl

/-! ## Day markers -/

/-- The parent's marker at a module that has a count. -/
theorem markerHeard_parent {p : Nat} (late : Int) (hparent : s.eqx.parent = some p) (hroot : s.time.root = false) (hcount : s.time.hasCount = true) :
    markerHeard s p late = (s.updPort p (fun x => { x with lastCtrl := s.now })).setTime { takeDiff s.time late with freeRun := false } := by
  have hknown : fabricRuns (s.updPort p (fun x => { x with lastCtrl := s.now })) = s.updPort p (fun x => { x with lastCtrl := s.now }) :=
    if_neg (fun h => Bool.noConfusion (hcount.symm.trans h.1))
  rw [markerHeard, if_pos ⟨hparent, hroot⟩, hknown]

/-- Settles O20: the boundary, the markers and the loss of alignment. -/
theorem daysAndMarkers : Obligations.DaysAndMarkers := by
  unfold Obligations.DaysAndMarkers
  refine ⟨⟨nextDay_day, ?_, ?_⟩, ?_, ?_, ?_⟩
  · intro s hon hrun hreads
    rw [exec, execDayBoundary, dayBoundary_stopped hon hrun hreads]
  · intro s hon hrun hreads hunits horder
    rw [exec, execDayBoundary, dayBoundary_running hon hrun hreads hunits horder, AfterAll]
  · intro s p d late hup hparent hroot hcount
    rw [exec, execDayMarker, if_pos hup, markerHeard_parent _ hparent hroot hcount]
  · intro s p hrun hup hcount
    have hsends : ((s.port p.toNat).up && s.running && s.time.hasCount) = true := by simp [hup, hrun, hcount]
    rw [exec, execDayMarkerSend, if_pos hsends]
  · intro s hrun haligned hover
    have hlost : (decide (s.time.over4 ≥ 16) && s.time.aligned && s.running) = true := by simp [hrun, haligned, hover]
    rw [exec, execAlignmentLoss, if_pos hlost]
    rfl

/-! ## Day 0 and `MT_RESET_DAY` -/

/-- A module in phase 5 of its first Equinox, with the start cycle named. -/
def beforeDayZero : State := { State.reset with eqx := { EqxSt.init with phase := 5, startCycle := some 0 } }

/-- Its first Day. -/
def onDayZero (reset : BitVec 2 × Option Nat) : State :=
  selectTemplate (((beforeDayZero.setTime (beforeDayZero.time.startAt 0 0)).setMeterReset reset).setEqx
    { beforeDayZero.eqx with phase := 0, startCycle := none, done := true })

theorem dayZero_beforeDayZero : dayZero beforeDayZero 0 = onDayZero (2, some 0) := rfl

/-- Refutes O21: the first Day of a count is also noted in `MT_RESET_DAY` (`counted`, R376), which the statement's state of Day 0 leaves out. -/
theorem not_equinoxProceeds : ¬ Obligations.EquinoxProceeds := by
  unfold Obligations.EquinoxProceeds
  rintro ⟨-, -, -, -, -, hzero, -⟩
  have hstated : exec (.equinoxDayZero 0) beforeDayZero = After beforeDayZero (onDayZero (2, none)) :=
    hzero beforeDayZero 0 0 rfl rfl rfl (Nat.zero_le _)
  have hmodel : exec (.equinoxDayZero 0) beforeDayZero = After beforeDayZero (onDayZero (2, some 0)) := by
    rw [exec, execEquinoxDayZero, After, ← dayZero_beforeDayZero]
    rfl
  rw [hmodel, After, After, settle_quiet (s := onDayZero (2, some 0)) rfl, settle_quiet (s := onDayZero (2, none)) rfl, commit, commit] at hstated
  exact absurd (congrArg State.meterReset (Host.Outcome.next.inj hstated)) (by decide)

/-! ## Joining -/

theorem takeCount_counted (h : s.time.hasCount = true) (p d c : Nat) : takeCount s p d c = s := by
  rw [takeCount, h]
  rfl

theorem takeCount_none {p : Nat} (d c : Nat) (hport : (fabricPorts s).contains p = true) (hlink : treeLink s p = true) (hphase : 4 ≤ s.eqx.phase)
    (hcount : s.time.hasCount = false) :
    (takeCount s p d c).time = s.time.startAt ((d * 4096 + c - (s.port p).delay.toNat / 16) / 4096)
      ((d * 4096 + c - (s.port p).delay.toNat / 16) % 4096) := by
  have hgo : (s.time.hasCount || decide (s.eqx.phase < 4) || !(fabricPorts s).contains p || !treeLink s p) = false := by
    simp only [hcount, hport, hlink, Nat.not_lt.mpr hphase, decide_false, Bool.not_true, Bool.or_false]
  have hcounted : ∀ t : State, (counted t).time = t.time := fun t => by unfold counted; split <;> rfl
  rw [takeCount, if_neg (by rw [hgo]; exact Bool.false_ne_true)]
  simp only [selectTemplate, State.setXb_time, State.setEqx_time, hcounted, State.setTime_time]

/-- A module that takes a count takes what came due with it; one that has a count stays as it is. -/
theorem joinFabric_none {p : Nat} (d c : Nat) (hport : (fabricPorts s).contains p = true) (hlink : treeLink s p = true) (hphase : 4 ≤ s.eqx.phase)
    (hcount : s.time.hasCount = false) : joinFabric s p d c = applyDue (bankFlip (takeCount s p d c)) := by
  have hhas : (takeCount s p d c).time.hasCount = true := by rw [takeCount_none d c hport hlink hphase hcount]; rfl
  simp only [joinFabric, hcount, hhas, Bool.not_false, Bool.and_self, if_true]

theorem joinFabric_counted (h : s.time.hasCount = true) (p d c : Nat) : joinFabric s p d c = s := by
  simp only [joinFabric, takeCount_counted h, h, Bool.not_true, Bool.false_and, Bool.false_eq_true, if_false]

/-- Settles O22: both commands join by `joinFabric`. -/
theorem joiningTakesTheCount : Obligations.JoiningTakesTheCount := by
  unfold Obligations.JoiningTakesTheCount
  intro s p d c hrun hport hlink hphase
  have hjoin : exec (.runningFabricJoin p d c) s = After s (joinFabric s p.toNat d.toNat c.toNat) := by
    rw [exec, execRunningFabricJoin, if_pos hrun, After]
  have hretry : exec (.s3RealignRetry (some (p, d, c))) s = After s (joinFabric s p.toNat d.toNat c.toNat) := by
    rw [exec, execS3RealignRetry, After]
    simp only [hrun, if_true]
  rw [hjoin, hretry]
  constructor
  · intro hcount
    rw [joinFabric_none _ _ hport hlink hphase hcount, takeCount_none _ _ hport hlink hphase hcount]
    exact ⟨rfl, rfl, rfl, rfl, rfl⟩
  · intro hcount
    rw [joinFabric_counted hcount]
    exact ⟨rfl, rfl⟩

end Sys2Proof.Machine
end

section
/-! SUPPORT. The control words of a link: on a live port each is read back and takes its own effect (R98, R101, R105, R106). -/

namespace Sys2Proof.Machine

variable {s u : State} {p : Nat}

@[simp] theorem updPort_port (s : State) (p : Nat) (f : PortSt → PortSt) : (s.updPort p f).port p = f (s.port p) := by
  simp only [State.port, State.updPort, State.setPorts_ports, KMap.getD, KMap.find_put, if_true, Option.getD_some]

/-- Only what a change makes of the port as it stands counts. -/
theorem updPort_congr {f g : PortSt → PortSt} (h : f (s.port p) = g (s.port p)) : s.updPort p f = s.updPort p g := by
  rw [State.updPort, State.updPort, h]

/-- A control word that this module's kind sends acts on a live port. -/
theorem wordRow_after {t n : Nat} (hlive : portLive s p = true) (ht : t < 16) (hn : n < 2 ^ 108)
    (hu : onWord (s.updPort p (fun x => { x with lastCtrl := s.now })) p t n = u) : commit s (controlIn s p (controlWord t n)) = After s u := by
  rw [controlIn_live hlive ht hn, hu, After]

/-- An `ACK` with no whole frame waiting frees the cells up to its own. -/
theorem ackCells_cells {l : BitVec 16} {i : Nat} (hcell : cellAt (s.port p) l = some i) (hsent : (s.port p).sent = []) :
    ackCells s p l = s.updPort p (fun x =>
      { x with unacked := x.unacked.drop (i + 1), sent := [], ackHeard := s.now,
               resendQ := x.resendQ.filter (fun k => (x.unacked.drop (i + 1)).any (fun c => c.cell.lseq == k)) }) := by
  simp only [ackCells, hcell, hsent, List.filter_nil, List.foldl_nil]
  refine updPort_congr ?_
  simp only [hsent, List.filter_nil]

/-- A bulk frame that is wanted again is queued once more. -/
theorem resendBulk_held {l t : Nat} {f : Frame} (hfind : KMap.find (s.port p).tc6Sent l = some (f, t)) :
    resendBulk s p l = enqueue (s.updPort p (fun x => { x with tc6Sent := KMap.del x.tc6Sent l })) p f 0 := by
  rw [resendBulk, hfind]

/-- The content of a `CREDIT` gives back its class and its count. -/
theorem creditWord_parts (c : BitVec 3) (n : BitVec 24) :
    creditWord c n / 2 ^ 24 % 8 = c.toNat ∧ BitVec.ofNat 24 (creditWord c n) = n := by
  have hc := c.isLt
  have hn := n.isLt
  refine ⟨by rw [creditWord]; omega, BitVec.eq_of_toNat_eq ?_⟩
  rw [BitVec.toNat_ofNat, creditWord]
  omega

/-- Settles O23: each word is read back as its type and content. -/
theorem controlWordsAct : Obligations.ControlWordsAct := by
  unfold Obligations.ControlWordsAct
  intro s p hlive
  have small : ∀ l : BitVec 16, l.toNat < 2 ^ 108 := fun l => Nat.lt_trans l.isLt (by decide)
  refine ⟨fun l i hcell hsent => ?_, fun l i hcell => ?_, fun c n => ?_, fun l => ?_, fun l f t hfind => ?_⟩
  · refine wordRow_after hlive (by decide) (small l) ?_
    rw [onWord, BitVec.ofNat_toNat, BitVec.setWidth_eq, ackCells_cells (i := i) (by rw [updPort_port]; exact hcell) (by rw [updPort_port]; exact hsent)]
    rfl
  · refine wordRow_after hlive (by decide) (small l) ?_
    have hheard : cellAt ((s.updPort p.toNat (fun x => { x with lastCtrl := s.now })).port p.toNat) l = some i := by rw [updPort_port]; exact hcell
    simp only [onWord, BitVec.ofNat_toNat, BitVec.setWidth_eq, hheard]
    rfl
  · obtain ⟨hcls, hcount⟩ := creditWord_parts c n
    refine wordRow_after hlive (by decide) (by have := c.isLt; have := n.isLt; rw [creditWord]; omega) ?_
    rw [onWord, hcls, hcount]
  · refine wordRow_after hlive (by decide) (small l) ?_
    rw [onWord, Nat.mod_eq_of_lt l.isLt]
  · refine wordRow_after hlive (by decide) (small l) ?_
    rw [onWord, Nat.mod_eq_of_lt l.isLt, resendBulk_held (by rw [updPort_port]; exact hfind)]

end Sys2Proof.Machine
end

section
/-! SUPPORT. What queueing a frame leaves of a port's link layer, and how links fail and come up (R101, R103 to R105). -/

namespace Sys2Proof.Machine

/-- What coming up settles of a port. -/
structure LinkPart where
  up : Bool
  delay : BitVec 16
  delayValid : Bool
  txSeq : BitVec 16
  rxExpect : BitVec 16
  unacked : List SentCell
  credInit : List Nat
  advertised : List Nat
  laneOrder : List Nat

/-- These parts of a port. -/
def PortSt.linkPart (p : PortSt) : LinkPart :=
  { up := p.up, delay := p.delay, delayValid := p.delayValid, txSeq := p.txSeq, rxExpect := p.rxExpect, unacked := p.unacked, credInit := p.credInit,
    advertised := p.advertised, laneOrder := p.laneOrder }

variable (s : State) (n : Nat)

/-- These parts of port `n`. -/
def State.linkPart (s : State) (n : Nat) : LinkPart := (s.port n).linkPart

theorem linkPart_updPort {f : PortSt → PortSt} (hf : ∀ p, (f p).linkPart = p.linkPart) (k : Nat) : (s.updPort k f).linkPart n = s.linkPart n := by
  rw [State.linkPart, State.linkPart, State.port, State.updPort, State.setPorts_ports, KMap.getD, KMap.find_put]
  split
  · next h => rw [h, Option.getD_some, hf]
  · rfl

theorem sendControl_linkPart (p t c : Nat) : (sendControl s p t c).linkPart n = s.linkPart n := linkPart_updPort s n (by intro; rfl) p

theorem freeCredit_linkPart (p : Nat) (c : BitVec 3) (k : Nat) : (freeCredit s p c k).linkPart n = s.linkPart n := by
  simp only [freeCredit, freeCells]
  split
  · rfl
  · split
    · exact linkPart_updPort s n (by intro; rfl) p
    · rw [sendControl_linkPart]
      exact linkPart_updPort s n (by intro; rfl) p

theorem KMap.find_mapVals {α β : Type} (m : KMap α) (f : α → β) (k : Nat) : KMap.find (KMap.mapVals m f) k = (KMap.find m k).map f := by
  induction m with
  | nil => rfl
  | cons e m ih =>
    simp only [KMap.mapVals, List.map_cons, KMap.find]
    split
    · rfl
    · exact ih

theorem discardRest_linkPart (rx : Option Nat) : (discardRest s rx).linkPart n = s.linkPart n := by
  cases rx with
  | none => rfl
  | some r =>
    simp only [discardRest, State.linkPart, State.port, State.setPorts_ports, KMap.getD, KMap.find_mapVals]
    cases KMap.find s.ports n <;> rfl

theorem mirror_linkPart (h : Header) (o : Origin) (e : BitVec 4) (p q : Nat) : (mirror s h o e p q).linkPart n = s.linkPart n := by
  unfold mirror
  split
  · rfl
  · dsimp only
    split
    · rfl
    · split
      · rfl
      · split <;> rfl

theorem markComplete_ports (f : Frame) : (markComplete s f).ports = s.ports := by
  simp only [markComplete]
  split
  · rfl
  · split <;> rfl

theorem endOut_ports (f : Frame) : (endOut s f).ports = s.ports := by
  simp only [endOut]
  split
  · exact markComplete_ports s f
  · rfl

theorem droppedCompletion_linkPart (h : Header) : (droppedCompletion s h).linkPart n = s.linkPart n := by
  have hend : ∀ f, (endOut s f).linkPart n = s.linkPart n := fun f => by rw [State.linkPart, State.linkPart, State.port, State.port, endOut_ports]
  unfold droppedCompletion
  dsimp only
  split
  · exact hend _
  · split <;> exact hend _

theorem pushedOut_linkPart (f : Frame) (o : Origin) (p q : Nat) : (pushedOut s f o p q).linkPart n = s.linkPart n := by
  have hbefore : (mirror (countPushout (freeCredit (discardRest s f.rx) o.port f.hdr.cls (frameSize f)) f.hdr.cls) f.hdr o 2 p q).linkPart n =
      s.linkPart n := by
    rw [mirror_linkPart, show ∀ t c, (countPushout t c).linkPart n = t.linkPart n from fun _ _ => rfl, freeCredit_linkPart, discardRest_linkPart]
  simp only [pushedOut]
  split
  · split
    · rw [sendControl_linkPart, linkPart_updPort _ _ (by intro; rfl), hbefore]
    · exact hbefore
  · rw [droppedCompletion_linkPart, hbefore]

theorem pushOut_linkPart (id : Nat) : (pushOut s id).linkPart n = s.linkPart n := by
  unfold pushOut
  split
  · exact pushedOut_linkPart _ n _ _ _ _
  · exact pushedOut_linkPart _ n _ _ _ _
  · rfl

theorem makeRoom_linkPart (fuel die cls need : Nat) : (makeRoom s fuel die cls need).linkPart n = s.linkPart n := by
  induction fuel generalizing s with
  | zero => rfl
  | succ k ih =>
    rw [makeRoom]
    split
    · rfl
    · split
      · rfl
      · rw [ih, pushOut_linkPart]

/-- Queueing a frame leaves every port's link layer as it was. -/
theorem enqueue_linkPart (p : Nat) (f : Frame) (t : Nat) : (enqueue s p f t).linkPart n = s.linkPart n := by
  have hroom : ∀ die c a b, (roomFor s die c a b).linkPart n = s.linkPart n := fun die c a b => by
    rw [roomFor]
    split
    · rfl
    · exact makeRoom_linkPart s n _ _ _ _
  have hmade : (if f.hdr.cls = 0 then s else roomFor s (dieOfPort p) f.hdr.cls.toNat (storedCells f) (cellsOf (frameSize f))).linkPart n = s.linkPart n := by
    split
    · rfl
    · exact hroom _ _ _ _
  simp only [enqueue, store]
  split
  · exact hmade
  · rw [pushedOut_linkPart, hmade]

theorem parentBack_ports (p : Nat) : (parentBack s p).ports = s.ports := by
  unfold parentBack
  split
  · split
    · split
      · rfl
      · rfl
    · rfl
  · rfl

theorem sendEqx_linkPart (p op a b : Nat) : (sendEqx s p op a b).linkPart n = s.linkPart n := enqueue_linkPart s n p _ 0

theorem linkBack_linkPart (p : Nat) (b : PortBind) : (linkBack s p b).linkPart n = s.linkPart n := by
  have hparent : ∀ t : State, (parentBack t p).linkPart n = t.linkPart n := fun t => by rw [State.linkPart, State.port, parentBack_ports]; rfl
  rw [linkBack]
  split
  · rw [hparent]
    split
    · exact sendEqx_linkPart s n _ _ _ _
    · rfl
  · rfl

theorem linkJoins_linkPart (p : Nat) : (linkJoins s p).linkPart n = s.linkPart n := by
  have hsent : ∀ (c : Prop) [Decidable c] (t : State) (op a b : Nat), (if c then sendEqx t p op a b else t).linkPart n = t.linkPart n := by
    intro c _ t op a b
    split
    · exact sendEqx_linkPart t n p op a b
    · rfl
  exact (hsent _ _ _ _ _).trans (hsent _ _ _ _ _)

theorem setDown_ports (p : Nat) : (setDown s p).ports = (s.updPort p (fun x => { x with up := false })).ports := by
  simp only [setDown]
  split <;> rfl

/-- A delay above 400 ns keeps the link out of service. -/
theorem setDelay_linkPart (p : Nat) (d : BitVec 16) (hup : (s.port p).up = true) :
    (setDelay s p d.toNat).linkPart p =
      { s.linkPart p with up := decide (d.toNat ≤ 10880), delay := d, delayValid := decide (d.toNat ≤ 10880) } := by
  unfold setDelay
  split
  · next h =>
    have hno : decide (d.toNat ≤ 10880) = false := decide_eq_false (Nat.not_le.mpr h)
    rw [State.linkPart, updPort_port, State.port, setDown_ports, ← State.port, updPort_port, updPort_port, hno, BitVec.ofNat_toNat, BitVec.setWidth_eq]
    rfl
  · next h =>
    have hyes : decide (d.toNat ≤ 10880) = true := decide_eq_true (Nat.not_lt.mp h)
    rw [State.linkPart, updPort_port, hyes, BitVec.ofNat_toNat, BitVec.setWidth_eq, ← hup]
    rfl

variable {s n}

/-- Giving a link its keys anew and its lanes their lock leaves the port as it was made. -/
theorem freshLanes_linkPart {p : Nat} {f : PortSt → PortSt} {g : LinkKey → LinkKey} {F : State → Nat → State} (hF : ∀ t l, (F t l).ports = t.ports)
    (lanes : List Nat) : (lanes.foldl F (if sealsPort (s.updPort p f) p then updLinkKey (s.updPort p f) p g else s.updPort p f)).linkPart p =
      (f (s.port p)).linkPart := by
  rw [State.linkPart, State.port, foldl_keeps State.ports hF, ← State.port, ← updPort_port s p f]
  split <;> rfl

/-- What the link layer of a port is that has just come up with a training, before its delay is taken. -/
def freshLink (b : PortBind) (t : Training) (delay : BitVec 16) (valid : Bool) : LinkPart :=
  { up := true, delay := delay, delayValid := valid, txSeq := 0, rxExpect := 0, unacked := [], credInit := t.credits.map (·.toNat),
    advertised := b.credits, laneOrder := t.order }

/-- A port that may come up does: its delay is measured later in phases 1 to 3 of an Equinox, and else taken now. -/
theorem bringUp_linkPart {p : Nat} {b : PortBind} (d : BitVec 16) (t : Training) (hrun : s.running = true) (hbind : s.bind p = some b)
    (hdown : (s.port p).up = false) (hmay : mayComeUp s p = true) :
    (bringUp s p d.toNat t).linkPart p =
      if (b.fabric && decide (1 ≤ s.eqx.phase ∧ s.eqx.phase ≤ 3)) = true then freshLink b t (s.port p).delay false
      else { freshLink b t d (decide (d.toNat ≤ 10880)) with up := decide (d.toNat ≤ 10880) } := by
  simp only [bringUp, hbind, hdown, hrun, hmay, Bool.not_true, Bool.or_self, Bool.false_eq_true, if_false]
  generalize hu : List.foldl _ _ _ = u
  have hpart : u.linkPart p = freshLink b t (s.port p).delay (s.port p).delayValid := by
    rw [← hu, freshLanes_linkPart (by intros; rfl)]
    rfl
  have hphase : u.eqx = s.eqx := by
    rw [← hu, foldl_keeps State.eqx (by intros; rfl)]
    split <;> rfl
  rw [hphase]
  split
  · rw [linkJoins_linkPart, State.linkPart, updPort_port]
    exact congrArg (fun x : LinkPart => { x with delayValid := false }) hpart
  · rw [linkBack_linkPart, setDelay_linkPart _ _ _ (congrArg LinkPart.up hpart), hpart]
    rfl

/-- Settles O24: loss by the guards of each command, coming up by what `bringUp` makes of the port. -/
theorem linksFailAndComeUp : Obligations.LinksFailAndComeUp := by
  unfold Obligations.LinksFailAndComeUp
  refine ⟨⟨fun s p hlive hcells hdue => ?_, fun s p hrun => ⟨fun ⟨c, hc, h16⟩ => ?_, fun hdue => ?_, fun why hlive => ?_⟩⟩,
    fun s p b d t hrun hbind hdown hmay => ⟨bringUp s p.toNat d.toNat t, rfl, ?_⟩⟩
  · have hgo : (portLive s p.toNat && !(s.port p.toNat).unacked.isEmpty && decide (s.now ≥ (s.port p.toNat).ackHeard + 2048)) = true := by
      simp [hlive, hcells, hdue]
    rw [exec, execRetxTimeout]
    simp only [hgo, if_true]
    rfl
  · have hgo : (s.running && (s.port p.toNat).unacked.any (fun c => decide (c.resent ≥ 16))) = true := by
      rw [hrun, Bool.true_and, List.any_eq_true]
      exact ⟨c, hc, decide_eq_true h16⟩
    rw [exec, execRetxLimit, if_pos hgo, After]
  · have hgo : (s.running && decide (s.now ≥ (s.port p.toNat).lastCtrl + 4 * 4096)) = true := by
      rw [hrun, Bool.true_and]
      exact decide_eq_true hdue
    rw [exec, execLinkSilenceTimeout, if_pos hgo, After]
  · exact wordRow_after hlive (by decide) (Nat.lt_trans why.isLt (by decide)) rfl
  · have hpart := bringUp_linkPart d t hrun hbind hdown hmay
    have hfresh : ∃ x v up, (bringUp s p.toNat d.toNat t).linkPart p.toNat = { freshLink b t x v with up := up } := by
      rw [hpart]
      split
      · exact ⟨_, _, _, rfl⟩
      · exact ⟨_, _, _, rfl⟩
    obtain ⟨x, v, up, hx⟩ := hfresh
    refine ⟨congrArg LinkPart.txSeq hx, congrArg LinkPart.rxExpect hx, congrArg LinkPart.unacked hx, congrArg LinkPart.credInit hx,
      congrArg LinkPart.advertised hx, congrArg LinkPart.laneOrder hx, fun hlater => ?_, fun hfab h1 h3 => ?_⟩
    · have hno : ¬ (b.fabric && decide (1 ≤ s.eqx.phase ∧ s.eqx.phase ≤ 3)) = true := by
        rw [Bool.and_eq_true, decide_eq_true_eq]
        rintro ⟨hfab, h1, h3⟩
        rcases hlater with h | h | h
        · rw [h] at hfab
          cases hfab
        · omega
        · omega
      rw [if_neg hno] at hpart
      exact ⟨congrArg LinkPart.up hpart, congrArg LinkPart.delayValid hpart, congrArg LinkPart.delay hpart⟩
    · rw [if_pos (by rw [hfab, Bool.true_and]; exact decide_eq_true ⟨h1, h3⟩)] at hpart
      exact ⟨congrArg LinkPart.up hpart, congrArg LinkPart.delayValid hpart⟩

end Sys2Proof.Machine
end

section
/-! SUPPORT. Bulk frames on a link, lane sparing, and cells and frames on the move (R100, R106, R109 to R111, R117, R125). -/

namespace Sys2Proof.Machine

variable {s : State} {p : Nat}

/-! ## Bulk frames -/

theorem repeatResend_due {l : BitVec 16} {w : ResendWait} (hfind : KMap.find (s.port p).tc6Wait l.toNat = some w) (hdue : w.time + 2048 ≤ s.now) :
    repeatResend s p l = sendControl (s.updPort p (fun x => { x with tc6Wait := KMap.put x.tc6Wait l.toNat { w with time := s.now } })) p 5 l.toNat := by
  simp only [repeatResend, hfind, if_neg (Nat.not_lt.mpr hdue)]

theorem holdEnds_due {l : BitVec 16} {f : Frame} {t : Nat} (hfind : KMap.find (s.port p).tc6Sent l.toNat = some (f, t)) (hdue : t + 16777216 ≤ s.now) :
    holdEnds s p l = s.updPort p (fun x => { x with tc6Sent := KMap.del x.tc6Sent l.toNat }) := by
  have hno : ¬ s.now < t + 4096 * 4096 := Nat.not_lt.mpr hdue
  simp only [holdEnds, hfind, if_neg hno]

/-- Settles O25: the two timers act when they are due. -/
theorem bulkFramesAreHeld : Obligations.BulkFramesAreHeld := by
  unfold Obligations.BulkFramesAreHeld
  exact ⟨fun s p l w hrun hfind hdue => whileRunning_after (repeatResend · p.toNat l) hrun (repeatResend_due hfind hdue),
    fun s p l f t hrun hfind hdue => whileRunning_after (holdEnds · p.toNat l) hrun (holdEnds_due hfind hdue)⟩

/-! ## Lanes -/

theorem updLane_lane (l : Nat) (f : LaneSt → LaneSt) : (updLane s l f).lane l = f (s.lane l) := by
  simp only [State.lane, updLane, State.setLanes_lanes, KMap.getD, KMap.find_put, if_true, Option.getD_some]

theorem laneErrors_toSpare (l : Nat) : ((laneErrors s l).lane l).toSpare = (s.lane l).toSpare := by
  rw [laneErrors, updLane_lane]
  rfl

/-- A failing lane with a free spare asks for it; where it fails hard it listens there at once. -/
theorem laneFails_asks {l sp : Nat} {b : PortBind} (hard : Bool) (hown : laneOwner s l = some (p, b)) (hlive : portLive s p = true)
    (h3 : (s.lane l).role ≠ 3) (h1 : (s.lane l).role ≠ 1) (hnone : (s.lane l).toSpare = none) (hfree : freeSpare (laneErrors s l) b l = some sp) :
    laneFails s l hard =
      sendControl (if hard then updLane (updLane (laneErrors s l) l (fun x => { x with toSpare := some sp, lock := x.lock && !hard })) sp
          (fun x => { x with listening := true })
        else updLane (laneErrors s l) l (fun x => { x with toSpare := some sp, lock := x.lock && !hard })) p 7 (l * 2 ^ 11 + sp * 2 + b2n hard) := by
  have hgo : (!portLive s p || (s.lane l).role == 3 || (s.lane l).role == 1) = false := by
    rw [hlive, beq_eq_false_iff_ne.mpr h3, beq_eq_false_iff_ne.mpr h1]
    rfl
  simp only [laneFails, hown, hgo, Bool.false_eq_true, if_false, laneErrors_toSpare, hnone, hfree]

/-- A partner that is asked for a spare it has grants it: in a named guard, or at once. -/
theorem spareAsked_grants {f spare l sp : Nat} {b : PortBind} (hard : Bool) (hbind : s.bind p = some b) (hown : ownLane s p b f = some l)
    (hnone : (s.lane l).toSpare = none) (hpair : pairedSpare s b l spare = some sp) :
    spareAsked s p f spare hard =
      (let t := updLane s l (fun x => { x with toSpare := some sp, switchDay := if hard then none else some (switchDayOf s b.lanes) })
       sendControl (if hard then switchLane t l else t) p 8
        (f * 2 ^ 31 + spare * 2 ^ 21 + b2n hard * 2 ^ 20 + (if hard then 0 else switchDayOf s b.lanes % 2 ^ 20))) := by
  simp only [spareAsked, hbind, hown, hnone, hpair]

theorem switchDayOf_updPort (k : Nat) (f : PortSt → PortSt) (lanes : Nat) : switchDayOf (s.updPort k f) lanes = switchDayOf s lanes := rfl

theorem b2n_false : b2n false = 0 := rfl

theorem b2n_true : b2n true = 1 := rfl

theorem askWord_parts (f spare : BitVec 10) (hard : Bool) :
    askWord f spare hard / 2 ^ 11 % 1024 = f.toNat ∧ askWord f spare hard / 2 % 1024 = spare.toNat ∧ (askWord f spare hard % 2 == 1) = hard
      ∧ askWord f spare hard < 2 ^ 108 := by
  have hf := f.isLt
  have hs := spare.isLt
  have hb : b2n hard ≤ 1 := by cases hard <;> decide
  refine ⟨by rw [askWord]; omega, by rw [askWord]; omega, ?_, by rw [askWord]; omega⟩
  have hmod : askWord f spare hard % 2 = b2n hard := by rw [askWord]; omega
  rw [hmod]
  cases hard <;> rfl

theorem grantWord_now_parts (f spare : BitVec 10) :
    grantWord f spare none / 2 ^ 31 % 1024 = f.toNat ∧ grantWord f spare none / 2 ^ 20 % 2 = 1 ∧ grantWord f spare none < 2 ^ 108 := by
  have hf := f.isLt
  have hs := spare.isLt
  exact ⟨by simp only [grantWord]; omega, by simp only [grantWord]; omega, by simp only [grantWord]; omega⟩

theorem switchInGuard_due {l d : Nat} {b : PortBind} (hday : (s.lane l).switchDay = some d) (hown : laneOwner s l = some (p, b))
    (hdue : d < s.day ∨ (d = s.day ∧ guardStart b.lanes ≤ s.time.cycle)) : switchInGuard s l = switchLane s l := by
  have hgo : s.day > d ∨ (s.day = d ∧ s.time.cycle ≥ guardStart b.lanes) := hdue.imp id (And.imp Eq.symm id)
  simp only [switchInGuard, hday, hown, if_pos hgo]

/-- A `SPARE_REQ` on a live port asks this module for a spare. -/
theorem spareReq_row {f spare : BitVec 10} (q : PortNo) (hard : Bool) (hlive : portLive s q.toNat = true) :
    exec (.spareReq q f spare hard) s =
      After s (spareAsked (s.updPort q.toNat (fun x => { x with lastCtrl := s.now })) q.toNat f.toNat spare.toNat hard) := by
  obtain ⟨hf, hs, hh, hlt⟩ := askWord_parts f spare hard
  refine wordRow_after hlive (by decide) hlt ?_
  rw [onWord, hf, hs, hh]

/-- A `SPARE_ACK` without a Day on a live port switches the lane. -/
theorem spareAck_row (q : PortNo) (f spare : BitVec 10) (hlive : portLive s q.toNat = true) :
    exec (.spareAck q f spare none) s = After s (switchLane (s.updPort q.toNat (fun x => { x with lastCtrl := s.now })) f.toNat) := by
  obtain ⟨hf, hn, hlt⟩ := grantWord_now_parts f spare
  refine wordRow_after hlive (by decide) hlt ?_
  rw [onWord, hf, if_pos hn, spareGranted]

/-- Settles O26: asking, granting and switching, each by its lemma. -/
theorem lanesAreSpared : Obligations.LanesAreSpared := by
  unfold Obligations.LanesAreSpared
  refine ⟨fun s l p sp b hrun hown hlive h3 h1 hnone hfree => ⟨?_, ?_⟩, fun s p b f spare l sp hlive hbind hown hnone hpair => ⟨?_, ?_⟩,
    fun s p f spare hlive => spareAck_row p f spare hlive,
    fun s l p d b hrun hday hown hdue => whileRunning_after (switchInGuard · l.toNat) hrun (switchInGuard_due hday hown hdue)⟩
  · refine whileRunning_after (laneFails · l.toNat false) hrun ?_
    rw [laneFails_asks false hown hlive h3 h1 hnone hfree, if_neg Bool.false_ne_true]
    simp only [Bool.not_false, Bool.and_true, b2n_false, Nat.add_zero]
  · refine whileRunning_after (laneFails · l.toNat true) hrun ?_
    rw [laneFails_asks true hown hlive h3 h1 hnone hfree, if_pos rfl]
    simp only [Bool.not_true, Bool.and_false, b2n_true]
  · rw [spareReq_row p false hlive, spareAsked_grants (s := s.updPort p.toNat _) false hbind hown hnone hpair]
    simp only [Bool.false_eq_true, if_false, switchDayOf_updPort]
    rw [b2n_false, Nat.zero_mul, Nat.add_zero]
  · rw [spareReq_row p true hlive, spareAsked_grants (s := s.updPort p.toNat _) true hbind hown hnone hpair]
    simp only [if_true, b2n_true, Nat.one_mul, Nat.add_zero]

/-! ## Cells and frames -/

/-- A good cell in order goes into its frame. -/
theorem cellIn_accepts {c : Cell} (hlive : portLive s p = true) (hcls : c.cls ≠ 0) (hgood : cellGood c = true) (hseq : c.lseq = (s.port p).rxExpect)
    (hsof : c.sof = true → headerGood c = true) :
    cellIn s p c = streamCell (ackCell (s.updPort p (fun x => { x with rxExpect := x.rxExpect + 1, nakSent := false })) p c) p c := by
  have hacc : accepts (s.port p) c = true := by
    rw [accepts, hgood, beq_iff_eq.mpr hseq, Bool.true_and, Bool.true_and]
    cases h : c.sof with
    | false => rfl
    | true => exact hsof h
  simp only [cellIn, hlive, hgood, hcls, hacc, Bool.not_true, Bool.false_eq_true, if_false, if_true]

/-- A good cell out of order is refused, with one `NAK`. -/
theorem cellIn_refuses {c : Cell} (hlive : portLive s p = true) (hcls : c.cls ≠ 0) (hgood : cellGood c = true) (hseq : c.lseq ≠ (s.port p).rxExpect)
    (hnak : (s.port p).nakSent = false) (hack : s.now < (s.port p).lastAck + 512) :
    cellIn s p c = sendControl (s.updPort p (fun x => { x with nakSent := true })) p 2 (s.port p).rxExpect.toNat := by
  have hacc : accepts (s.port p) c = false := by
    rw [accepts, beq_eq_false_iff_ne.mpr hseq, Bool.and_false, Bool.false_and]
  have hsoon : ∀ f : State → State, (∀ t, (f t).now = t.now) → ¬ (f s).now ≥ (s.port p).lastAck + 512 := fun f hf => by
    rw [hf]
    exact Nat.not_le.mpr hack
  simp only [cellIn, hlive, hgood, hcls, hacc, Bool.not_true, Bool.false_eq_true, if_false, if_true, refuseCell, hnak, Bool.false_and]
  exact if_neg (hsoon (fun s => sendControl (s.updPort p (fun x => { x with nakSent := true })) p 2 (s.port p).rxExpect.toNat) (fun _ => rfl))

theorem depart_begins {b : PortBind} {id : Nat} {q : QFrame} {d : List Nat} (hlive : portLive s p = true) (hbind : s.bind p = some b)
    (hslot : slotAt b.lanes s.time.cycle < usableSlots b.lanes) (hidle : (s.port p).txOther = none) (hnext : nextFrame s p = (some (id, q), d)) :
    depart s p = pumpPort (beginFrame (s.updPort p (fun x => { x with deficit := d })) p id q) p := by
  have hgo : ¬ (slotAt b.lanes s.time.cycle ≥ usableSlots b.lanes ∨ (s.port p).txOther.isSome = true) := by
    rw [hidle]
    rintro (h | h)
    · exact absurd hslot (Nat.not_lt.mpr h)
    · cases h
  simp only [depart, hbind, hlive, Bool.not_true, Bool.false_eq_true, if_false, if_neg hgo, hnext]

/-- Settles O27: the four rules, each by what its function does in the case. -/
theorem cellsAndFramesMove : Obligations.CellsAndFramesMove := by
  unfold Obligations.CellsAndFramesMove
  refine ⟨fun s p c hlive hcls hgood hseq hsof => ?_, fun s p c hlive hcls hgood hseq hnak hack => ?_,
    fun s p b id q d hlive hbind hslot hidle hnext => ?_, fun s p id since q x hrun hother hfind hbegun hstall hdue => ?_⟩
  · rw [exec, execCellReceive, cellIn_accepts hlive hcls hgood hseq hsof, AfterEntry]
  · rw [exec, execCellReceive, cellIn_refuses hlive hcls hgood hseq hnak hack, AfterEntry]
  · rw [exec, execFrameDepart, depart_begins hlive hbind hslot hidle hnext, After]
  · have hsince : q.begun.bind (fun t => t.stall) = some since := by rw [hbegun, Option.bind_some, hstall]
    rw [exec, execCutThroughStallLimit, if_pos hrun, AfterEntry]
    simp only [stallLimit, hother, hfind, hsince, if_neg (Nat.not_lt.mpr hdue)]

end Sys2Proof.Machine
end

section
/-! SUPPORT. The Keeper: signatures, its timers and flags, the mailbox and the commands relayed to it (R378 to R389, R408, R480). -/

namespace Sys2Proof.Machine

variable {s : State}

/-! ## Signing -/

/-- An index in the running tree stays in it. -/
theorem enterTree_inTree {k : KeeperSt} (h : k.qNext < 32768) : enterTree k = k := if_neg (fun hn => absurd h (Nat.not_lt.mpr hn.1))

theorem takeIndex_inTree {k : KeeperSt} (h : k.qNext < 32768) : (takeIndex k).qNext = k.qNext + 1 ∧ (takeIndex k).qNext ≤ (takeIndex k).qRes
    ∧ (takeIndex k).tokens = k.tokens - 1 ∧ (takeIndex k).tree = k.tree := by
  rw [takeIndex, enterTree_inTree h]
  by_cases hres : k.qNext < k.qRes
  · rw [if_pos hres]
    exact ⟨rfl, hres, rfl, rfl⟩
  · rw [if_neg hres]
    exact ⟨rfl, Nat.add_le_add_left (by decide) _, rfl, rfl⟩

theorem signNow_signs {u : SignUse} (hwait : u ∈ s.kp.signQueue) (hmay : maySign s.kp u = true) :
    signNow s u = keeperNote (finishUse (s.setKp { takeIndex s.kp with signQueue := removeOne s.kp.signQueue u }) s.kp u) := by
  have hgo : (!s.kp.signQueue.contains u || !maySign s.kp u) = false := by
    rw [hmay, List.contains_iff_mem.mpr hwait]
    rfl
  simp only [signNow, hgo, Bool.false_eq_true, if_false]

/-- Settles O28: by the guards of each command, `signNow_signs` and `takeIndex_inTree`. -/
theorem keeperSigns : Obligations.KeeperSigns := by
  unfold Obligations.KeeperSigns
  refine ⟨fun s u hon hwait hmay => ?_, fun k h => takeIndex_inTree h, fun s hon hnone => ?_, fun s u r hon hqueue htok => ?_, fun s hon hbuild => ?_,
    fun s hon hid => ?_⟩
  · rw [exec, execKeeperSign, if_pos hon, signNow_signs hwait hmay]
  · rw [exec, execSignTokenRefill, if_pos hon]
    simp only [hnone]
  · rw [exec, execSignTokenRefill, if_pos hon]
    simp only [hqueue, htok, decide_true, if_true]
    rfl
  · rw [exec, execBottomTreeBuilt, hon, hbuild, Bool.and_self, if_pos rfl]
  · rw [exec, execTopTreeCacheRebuilt, hon, hid, Bool.and_self, if_pos rfl]

/-! ## Flags and mailbox -/

theorem takeAsks_none (h : s.kp.asks = []) : takeAsks s = s := by rw [takeAsks, h, List.foldl_nil]

theorem mboxStart_free {v : Nat} (h : s.kp.mboxBusy = false) :
    mboxStart s v = s.setKp { s.kp with mboxBusy := true, mboxCode := .ofNat 16 (bits 63 48 v), mboxLen := min 4096 (bits 47 35 v) } :=
  if_neg (by rw [h]; exact Bool.false_ne_true)

theorem mboxStart_busy {v : Nat} (h : s.kp.mboxBusy = true) : mboxStart s v = s.setKp { s.kp with mboxOverrun := true } := if_pos h

/-- Settles O29: each command acts under its guard; with none waiting nothing is taken after a request's end. -/
theorem keeperFlagsAndMailbox : Obligations.KeeperFlagsAndMailbox := by
  unfold Obligations.KeeperFlagsAndMailbox
  refine ⟨fun s hon => ⟨?_, ?_⟩, fun s v hrun => ⟨fun hfree => ?_, fun hbusy => ?_, ?_⟩, fun s st bs hon hbusy hrelay hasks => ?_⟩
  · rw [exec, execEntropyFail, if_pos hon]
  · rw [exec, execEntropyTestsPass, if_pos hon]
  · rw [exec, execKpMboxCmd, if_pos hrun, mboxStart_free hfree]
  · rw [exec, execKpMboxCmd, if_pos hrun, mboxStart_busy hbusy]
  · rw [exec, execKpMboxDoneClear, if_pos hrun, mboxClear]
  · have hgo : (keeperOn s && s.kp.mboxBusy && s.kp.relay.isNone) = true := by rw [hon, hbusy, hrelay]; rfl
    rw [exec, execKeeperRequestDone, if_pos hgo, takeAsks_none (s := mboxEnd s st bs) hasks]
    exact completes_commit s ⟨rfl, rfl, rfl, rfl, rfl, rfl, rfl⟩

/-! ## Relayed commands -/

/-- A command of the firmware group runs like the others while the Den is up. -/
theorem firmwareRow_afterAll {u : State} {m : CmdRef} {x : Session} (code : Nat) (f : State → State) (h : Accepts s m x)
    (hf : f (accepted s m code x) = u) : firmwareRow s m code f = AfterAll s u := by
  rw [← hf, ← commandRow_accepts h code f]
  have hup : denUp s = true := h.1
  have himage : s.kp.noImage = false := by
    simp only [denUp, Bool.and_eq_true, Bool.not_eq_true'] at hup
    exact hup.1.2
  have hrails : (railsUp s && s.rst.running.isNone) = true := by
    simp only [denUp, himage, Bool.not_false, Bool.and_true, Bool.and_eq_true] at hup
    simp only [railsUp, Bool.and_eq_true, hup, and_self]
  simp only [firmwareRow, commandRow, hrails, himage, hup, if_true, Bool.false_eq_true, if_false]

/-- The Den puts a command into a free mailbox. -/
theorem askKeeper_free {a : KeeperAsk} (h : s.kp.mboxBusy = false) : askKeeper s a = relayDone (runAsk (mailed s a) a) :=
  if_neg (by rw [h]; exact Bool.false_ne_true)

/-- A request whose command waits for its signature goes on. -/
theorem relayDone_awaits {m : CmdRef} (hrelay : s.kp.relay = some m) (hwait : awaitsSign s.kp m = true) : relayDone s = s := by
  simp only [relayDone, hrelay, hwait, if_true]

theorem awaitsSign_attest (k : KeeperSt) (m : CmdRef) (n : BitVec 256) :
    awaitsSign { k with signQueue := k.signQueue ++ [.attest m n] } m = true := by
  simp only [awaitsSign, List.any_append, List.any_cons, beq_self_eq_true, Bool.true_or, Bool.or_true]

theorem awaitsSign_handover (k : KeeperSt) (m : CmdRef) : awaitsSign { k with signQueue := k.signQueue ++ [.handover m] } m = true := by
  simp only [awaitsSign, List.any_append, List.any_cons, beq_self_eq_true, Bool.true_or, Bool.or_true]

theorem attestFor_identified {m : CmdRef} {n : BitVec 256} (h : mayIdentify s.kp = true) : attestFor s m n = askSign s (.attest m n) := if_pos h

theorem rollIdentity_rolls {m : CmdRef} (hok : s.kp.idOk = true) (hfail : s.kp.idFail = false) (hid : s.kp.identity ≠ 3) :
    rollIdentity s m = askSign s (.handover m) := by
  have hgo : (s.kp.idFail || !s.kp.idOk) = false := by rw [hok, hfail]; rfl
  rw [rollIdentity, hgo, if_neg Bool.false_ne_true, if_neg hid]

/-- Settles O30: a free mailbox takes the command, which does what its own function says. -/
theorem keeperCommandsAct : Obligations.KeeperCommandsAct := by
  unfold Obligations.KeeperCommandsAct
  intro s m x hacc hfree
  have hfree' : ∀ code, (accepted s m code x).kp.mboxBusy = false := fun _ => hfree
  refine ⟨fun n hmay => ?_, fun hok hfail hid => ?_, fun root hnone => ?_, fun old root sig hroot hver => ?_, fun o piece hlen hend => ?_,
    fun ⟨hver, hsvn⟩ => ?_, ?_⟩
  · refine commandRow_afterAll 0x50 _ hacc ?_
    rw [askKeeper_free (hfree' _), runAsk, attestFor_identified (s := mailed (accepted _ _ _ _) _) hmay]
    exact relayDone_awaits rfl (awaitsSign_attest _ m n)
  · refine commandRow_afterAll 0x56 _ hacc ?_
    rw [askKeeper_free (hfree' _), runAsk, rollIdentity_rolls (s := mailed (accepted _ _ _ _) _) hok hfail hid]
    exact relayDone_awaits rfl (awaitsSign_handover _ m)
  · refine commandRow_afterAll 0x54 _ hacc ?_
    rw [askKeeper_free (hfree' _), runAsk, enrolOwner, show (mailed (accepted s m 0x54 x) (.ownerEnrol m root)).kp.ownerRoot = none from hnone]
  · refine commandRow_afterAll 0x55 _ hacc ?_
    rw [askKeeper_free (hfree' _), runAsk, transferOwner,
      show (mailed (accepted s m 0x55 x) (.ownerTransfer m root sig)).kp.ownerRoot = some old from hroot]
    simp only [hver, if_true]
  · refine firmwareRow_afterAll 0x51 _ hacc ?_
    have hgo : ¬ (piece.length > 65536 ∨ o.toNat + piece.length > 2 ^ 26) := by omega
    rw [askKeeper_free (hfree' _), runAsk, stageFirmware, if_neg hgo]
    rfl
  · refine firmwareRow_afterAll 0x52 _ hacc ?_
    rw [askKeeper_free (hfree' _), runAsk, activateFirmware]
    refine congrArg relayDone (if_pos ?_)
    rw [Bool.and_eq_true, decide_eq_true_eq]
    exact ⟨hver, hsvn⟩
  · refine firmwareRow_afterAll 0x53 _ hacc ?_
    rw [askKeeper_free (hfree' _), runAsk, commitFirmware]
    rfl

end Sys2Proof.Machine
end

section
/-! SUPPORT. The Finug port: sessions, link keys and telemetry (R391 to R393, R465, R466). -/

namespace Sys2Proof.Machine

variable {s : State}

/-! ## Sessions -/

/-- A command that its session accepts runs. -/
theorem onCommand_accepts {m : CmdRef} {x : Session} (h : Accepts s m x) (code : Nat) (f : State → State) :
    onCommand s m code f = f (accepted s m code x) := by
  obtain ⟨-, hinbox, hfind, hseq, hopen⟩ := h
  simp only [onCommand, acceptCommand, hinbox, List.any_nil, Bool.false_eq_true, if_false, hfind, if_neg (Nat.not_le.mpr hseq),
    if_neg (Nat.not_le.mpr hopen)]
  rfl

@[simp] theorem note_kp (s : State) (stream : Nat) (body : List W64) : (note s stream body).kp = s.kp :=
  foldl_keeps State.kp (by intros; split <;> rfl) _ _

@[simp] theorem keeperNote_kp (s : State) : (keeperNote s).kp = s.kp := note_kp s _ _

theorem hello_opens {n : BitVec 256} {chain : List Byte} {root ident : BitVec 256} (hid : mayIdentify s.kp = true) (hroot : s.kp.ownerRoot = some root)
    (hproven : provenBy s root .control chain = some ident) (hroom : s.kp.sessions.length < 4) (hent : s.kp.entropyFail = false) :
    (hello s 1 n chain).kp.signQueue = s.kp.signQueue ++ [.offer s.nextId] ∧ (hello s 1 n chain).nextId = s.nextId + 1
      ∧ (KMap.find (hello s 1 n chain).kp.handshakes s.nextId).isSome = true ∧ (hello s 1 n chain).kp.drbg = s.kp.drbg + 2 := by
  have hgo : ¬ ((1 : Byte) ≠ 1 ∨ s.kp.sessions.length ≥ 4 ∨ s.kp.entropyFail = true) := by
    rw [hent]
    rintro (h | h | h)
    · exact h rfl
    · omega
    · cases h
  simp only [hello, hid, Bool.not_true, Bool.false_eq_true, if_false, hroot, Option.bind_some, hproven, if_neg hgo]
  exact ⟨rfl, rfl, congrArg Option.isSome ((KMap.find_put _ _ _ _).trans (if_pos rfl)), rfl⟩

theorem accept_opens {h : Nat} {x : Handshake} {ct sig : List Byte} (hfind : KMap.find s.kp.handshakes h = some x)
    (hsigned : s.kp.signQueue.contains (.offer h) = false) (hver : Config.hssVerify x.ident (sha256 (x.hello ++ x.offer ++ ct)) sig = true)
    (hroom : s.kp.sessions.length < 4) (hday : s.day < x.openDay + 2 ^ 22) :
    (KMap.find (accept s h ct sig).kp.sessions (s.nextId % (2 ^ 32 - 1) + 1)).isSome = true ∧ KMap.find (accept s h ct sig).kp.handshakes h = none := by
  have hgo : ¬ ((!Config.hssVerify x.ident (sha256 (x.hello ++ x.offer ++ ct)) sig) = true ∨ s.kp.sessions.length ≥ 4 ∨ s.day ≥ x.openDay + 2 ^ 22) := by
    rw [hver]
    rintro (h | h | h)
    · cases h
    · exact absurd hroom (Nat.not_lt.mpr h)
    · exact absurd hday (Nat.not_lt.mpr h)
  have hdrop : (dropHandshake s h).kp.sessions.length = s.kp.sessions.length ∧ (dropHandshake s h).day = s.day := ⟨rfl, rfl⟩
  simp only [accept, hfind, hsigned, Bool.false_eq_true, if_false, hdrop, if_neg hgo, takeStored, sendRaw, State.setFn_kp, keeperNote_kp]
  exact ⟨congrArg Option.isSome ((KMap.find_put _ _ _ _).trans (if_pos rfl)), (KMap.find_del _ _ _).trans (if_pos rfl)⟩

/-- Settles O32: by what opening, accepting and closing do, and the guards of the two time limits. -/
theorem sessionsOpenAndEnd : Obligations.SessionsOpenAndEnd := by
  unfold Obligations.SessionsOpenAndEnd
  refine ⟨fun s n chain root ident hon hid hroot hproven hroom hent => ?_, fun s h x ct sig hon hfind hsigned hver hroom hday => ?_,
    fun s h x hfind hday => ?_, fun s n x hfind hend => ?_, fun s m x hon hacc => ?_⟩
  · rw [exec, execKxHello, if_pos hon]
    exact completes_commit s (hello_opens hid hroot hproven hroom hent)
  · rw [exec, execKxAccept, if_pos hon]
    exact completes_commit s (accept_opens hfind hsigned hver hroom hday)
  · rw [exec, execHandshakeTimeout, hfind]
    simp only [if_pos (show s.day ≥ x.openDay + 2 ^ 22 from hday)]
    exact completes_commit s ((KMap.find_del _ _ _).trans (if_pos rfl))
  · rw [exec, execSessionLifetimeEnd, hfind]
    simp only [if_pos (show s.day ≥ x.openDay + 2 ^ 30 ∨ x.commands ≥ 2 ^ 24 from hend)]
  · rw [exec, execKxClose, if_pos hon, onCommand_accepts hacc]

/-! ## Link keys and telemetry -/

/-- The lower end of a link is asked to begin: it waits for the signature of its offer. -/
theorem linkMessage_begins {m : CmdRef} {peer : Ep} {body : List Byte} {port : Nat} (hid : mayIdentify s.kp = true) (hent : s.kp.entropyFail = false)
    (hport : portToKey s peer = some port) (hlow : s.self.toNat < peer.toNat) :
    (KMap.find (linkMessage s m peer 0 body).kp.linkHs port).isSome = true ∧ .link (.ofNat 9 port) ∈ (linkMessage s m peer 0 body).kp.signQueue := by
  simp only [linkMessage, hid, Bool.not_true, Bool.false_eq_true, if_false, hport, hent, hlow, and_self, if_true]
  exact ⟨congrArg Option.isSome ((KMap.find_put _ _ _ _).trans (if_pos rfl)), List.mem_append_right _ List.mem_cons_self⟩

theorem subscribe_noSamples {m : CmdRef} {mask : BitVec 7} (rate : Nat) (l : List (BitVec 48)) (h : mask.getLsbD 3 = false) :
    subscribe s m mask rate l = answer (updSession s m.session.toNat (fun y => { y with streams := y.streams ||| mask })) m 0 0 [] := by
  simp only [subscribe, h, Bool.false_and, Bool.false_eq_true, if_false]

theorem sample_due {id : Nat} {x : Session} (hfind : KMap.find s.kp.sessions id = some x) (hon : x.streams.getLsbD 3 = true)
    (hday : s.day % 2 ^ x.rateLog2 = 0) : sample s id = noteTo s id 3 (x.samples.map (fun a => readReg s a.toNat)) := by
  simp only [sample, hfind, hon, hday, decide_true, Bool.and_self, if_true]

/-- Settles O33: the link message, the two subscriptions and the sample, each by its lemma. -/
theorem linkKeysAndTelemetry : Obligations.LinkKeysAndTelemetry := by
  unfold Obligations.LinkKeysAndTelemetry
  refine ⟨fun s m x peer body port hacc hid hent hport hlow => ?_, fun s m x mask rate l hacc hmask => ⟨?_, ?_⟩, fun s n x hrun hfind hon hday => ?_⟩
  · have hbegins := linkMessage_begins (s := accepted s m 6 x) (m := m) (body := body) hid hent hport hlow
    exact ⟨_, commandRow_afterAll 6 _ hacc rfl, hbegins⟩
  · exact commandRow_afterAll 0x60 _ hacc (subscribe_noSamples rate.toNat l hmask)
  · exact commandRow_afterAll 0x61 _ hacc rfl
  · rw [exec, execTelemetrySample, if_pos hrun, sample_due hfind hon hday]

end Sys2Proof.Machine
end

section
/-! SUPPORT. Almanac transactions and the map commands of the control node (R352, R448 to R452, R456, R463). -/

namespace Sys2Proof.Machine

variable {s : State}

/-! ## Staging -/

theorem beginTxn_idle {m : CmdRef} (txn : W64) (ps : List Ep) (h : s.alm.txnState = .idle) :
    beginTxn s m txn ps =
      answer (note (s.setAlm { s.alm with txnState := .open_, txnId := txn, participants := ps, openDay := s.day, staged := [], stagedImage := none,
                                          banks := KMap.del s.alm.banks (otherBank s) }) 6 [txn, 1]) m 0 0 [] :=
  if_neg (not_not_intro h)

theorem beginTxn_busy {m : CmdRef} (txn : W64) (ps : List Ep) (h : s.alm.txnState ≠ .idle) : beginTxn s m txn ps = answer s m 0x10 0x000D [] := if_pos h

theorem stagePiece_open {m : CmdRef} {o : Nat} {piece : List Byte} (h : s.alm.txnState = .open_) (hlen : piece.length ≤ 65536)
    (hend : o + piece.length ≤ 48 * 2 ^ 20) :
    stagePiece s m o piece =
      answer (s.setAlm { s.alm with staged := overlay (padTo (max s.alm.staged.length (o + piece.length)) s.alm.staged) o piece }) m 0 0 [] := by
  refine if_neg ?_
  rintro (hn | hn | hn)
  · exact hn h
  · exact absurd hlen (Nat.not_le.mpr hn)
  · exact absurd hend (Nat.not_le.mpr hn)

theorem sealTxn_passes {m : CmdRef} (h : s.alm.txnState = .open_) (hseal : sealReason s s.alm.staged = 0) :
    sealTxn s m =
      answer (note (s.setAlm { s.alm with txnState := .sealed, sealDay := s.day, stagedImage := readAlmanac s.alm.staged,
                                          banks := KMap.put s.alm.banks (otherBank s) s.alm.staged }) 6 [s.alm.txnId, 2]) m 0 0 [] := by
  simp only [sealTxn, if_neg (not_not_intro h), hseal]

theorem readBank_short {m : CmdRef} (bank : Bool) (o : Nat) {n : Nat} (h : n ≤ 65536) :
    readBank s m bank o n = answer s m 0 0 (((KMap.getD s.alm.banks (b2n bank) []).drop o).take n) := if_neg (Nat.not_lt.mpr h)

/-- Settles O34: each command by its own function on the state that accepted it. -/
theorem almanacIsStaged : Obligations.AlmanacIsStaged := by
  unfold Obligations.AlmanacIsStaged
  intro s m x hacc
  refine ⟨fun txn ps => ⟨fun h => ?_, fun h => ?_⟩, fun o piece h hlen hend => ?_, fun h hseal => ?_, fun bank o n hn => ?_⟩
  · exact commandRow_afterAll 0x20 _ hacc (beginTxn_idle (s := accepted s m 0x20 x) txn ps h)
  · exact commandRow_afterAll 0x20 _ hacc (beginTxn_busy (s := accepted s m 0x20 x) txn ps h)
  · exact commandRow_afterAll 0x21 _ hacc (stagePiece_open (s := accepted s m 0x21 x) h hlen hend)
  · exact commandRow_afterAll 0x22 _ hacc (sealTxn_passes (s := accepted s m 0x22 x) h hseal)
  · exact commandRow_afterAll 0x25 _ hacc (readBank_short (s := accepted s m 0x25 x) bank o.toNat hn)

/-! ## Ends of a transaction -/

@[simp] theorem note_alm (s : State) (stream : Nat) (body : List W64) : (note s stream body).alm = s.alm :=
  foldl_keeps State.alm (by intros; split <;> rfl) _ _

theorem denRow_afterAll {u : State} (f : State → State) (hup : denUp s = true) (hf : f s = u) :
    commit s (if denUp s then finishAll (f s) else s) = AfterAll s u := by rw [if_pos hup, hf, AfterAll]

theorem commitTxn_waits {m : CmdRef} {txn : W64} (day : Nat) (hid : s.alm.txnId = txn) (hstate : s.alm.txnState = .sealed) (hlead : leads s = false) :
    commitTxn s m txn day = s.setAlm { s.alm with waiting := some m } := by
  have hgo : ¬ (s.alm.txnId ≠ txn ∨ (s.alm.txnState ≠ .sealed ∧ s.alm.txnState ≠ .prepared)) := by
    rintro (h | h)
    · exact h hid
    · exact h.1 hstate
  have hno : leads (s.setAlm { s.alm with waiting := some m }) = false := hlead
  simp only [commitTxn, if_neg hgo, hno, Bool.false_eq_true, if_false]

theorem rollTxn_sealed {m : CmdRef} {txn : W64} (hid : s.alm.txnId = txn) (hstate : s.alm.txnState = .sealed) (hpending : s.alm.pending = none) :
    rollTxn s m txn = submit (rollBack s txn) { comp := 0, body := .almRollback txn 0, day := 0, m := some m } := by
  have hgo : ¬ (s.alm.txnState = .idle ∨ s.alm.txnId ≠ txn) := by
    rintro (h | h)
    · rw [hstate] at h
      cases h
    · exact h hid
  simp only [rollTxn, if_neg hgo, hpending]

theorem prepareTxn_prepared {txn : W64} {bs : List Byte} {img : Almanac} (hid : s.alm.txnId = txn) (hstate : s.alm.txnState = .sealed)
    (hbank : KMap.find s.alm.banks (otherBank s) = some bs) (hsigned : imageSigned s bs = true) (hread : readAlmanac bs = some img)
    (hleader : s.alm.leader = none) : prepareTxn s txn = note (s.setAlm { s.alm with txnState := .prepared }) 6 [txn, 3] := by
  have hgo : ¬ (s.alm.txnId ≠ txn ∨ s.alm.txnState ≠ .sealed) := by
    rintro (h | h)
    · exact h hid
    · exact h hstate
  have himg : ((KMap.find s.alm.banks (otherBank s)).filter (imageSigned s)).bind readAlmanac = some img := by
    rw [hbank, Option.filter_some, if_pos hsigned, Option.bind_some, hread]
  have hnone : (note (s.setAlm { s.alm with txnState := .prepared }) 6 [txn, 3]).alm.leader = none := by
    rw [note_alm]
    exact hleader
  simp only [prepareTxn, if_neg hgo, himg, hnone]

theorem txnTimeout_open (hstate : s.alm.txnState = .open_) (hdue : s.alm.openDay + 2 ^ 26 ≤ s.day) : txnTimeout s = rollBack s s.alm.txnId := by
  have hlate : decide (s.day ≥ s.alm.openDay + 2 ^ 26) = true := decide_eq_true hdue
  simp only [txnTimeout, hstate, hlate, if_true]

theorem voteTimeout_due {p : Ep} {l : LeaderTxn} (hlead : leads s = true) (hleader : s.alm.leader = some l) (hflip : l.flipDay = none)
    (hmem : p ∈ l.participants) (hvote : KMap.find l.votes p.toNat = none) (hdue : l.startDay + 65536 ≤ s.day) :
    voteTimeout s p = append (s.setAlm { s.alm with leader := none }) 0 (.almRollback l.txn 0) 0 none := by
  have hgo : leads s ∧ l.flipDay.isNone = true ∧ l.participants.contains p = true ∧ (KMap.find l.votes p.toNat).isNone = true
      ∧ s.day ≥ l.startDay + 65536 :=
    ⟨hlead, by rw [hflip]; rfl, List.contains_iff_mem.mpr hmem, by rw [hvote]; rfl, hdue⟩
  simp only [voteTimeout, hleader, if_pos hgo]

theorem drainEnds_due {id : Nat} {d : Drain} (hfind : KMap.find s.alm.drains id = some d) (hdue : d.day ≤ s.day) (hbit : d.bit ≠ 1) :
    drainEnds s id =
      stopWork (s.setAlm { s.alm with drains := KMap.del s.alm.drains id })
        (fun r => (match d.comp with | some c => c == r.hdr.comp | none => true) && ofFunction d.bit r) 0x12 false false := by
  simp only [drainEnds, hfind, if_neg (Nat.not_lt.mpr hdue), if_neg hbit] <;> rfl

/-- Settles O35: each end of a transaction and of a drain by its lemma. -/
theorem almanacTransactionsEnd : Obligations.AlmanacTransactionsEnd := by
  unfold Obligations.AlmanacTransactionsEnd
  refine ⟨fun s m x txn hacc hid hstate => ⟨fun d hlead => ?_, fun hpending => ?_⟩, fun s txn bs img hup hid hstate hbank hsigned hread hleader => ?_,
    fun s txn d hup hleader => ⟨?_, ?_⟩, fun s hup hstate hdue => ?_, fun s p l hup hlead hleader hflip hmem hvote hdue => ?_,
    fun s id d hfind hdue hbit => ?_⟩
  · exact commandRow_afterAll 0x23 _ hacc (commitTxn_waits (s := accepted s m 0x23 x) d.toNat hid hstate hlead)
  · exact commandRow_afterAll 0x24 _ hacc (rollTxn_sealed (s := accepted s m 0x24 x) hid hstate hpending)
  · exact denRow_afterAll (prepareTxn · txn) hup (prepareTxn_prepared hid hstate hbank hsigned hread hleader)
  · exact denRow_afterAll (commitArrives · txn d.toNat) hup (by rw [commitArrives, hleader])
  · exact denRow_afterAll (rollbackArrives · txn d.toNat) hup rfl
  · exact denRow_afterAll txnTimeout hup (txnTimeout_open hstate hdue)
  · exact denRow_afterAll (voteTimeout · p) hup (voteTimeout_due hlead hleader hflip hmem hvote hdue)
  · exact congrArg (After s) (drainEnds_due hfind hdue hbit)

/-! ## Map commands -/

theorem submit_passes (p : Proposal) (hlead : leads s = false) : submit s p = s.setCh { s.ch with toLeader := addOnce s.ch.toLeader p } := by
  simp only [submit, hlead, Bool.not_false, Bool.true_or, if_true]

theorem submit_appends {p : Proposal} {b : EntryBody} (hlead : leads s = true) (hnow : mustWait s p.body = false)
    (hjudge : judge s p.comp p.body p.day = some b) : submit s p = append s p.comp b p.day p.m := by
  simp only [submit, hlead, hnow, Bool.not_true, Bool.or_self, Bool.false_eq_true, if_false, hjudge]

theorem submit_refused {p : Proposal} {m : CmdRef} (hlead : leads s = true) (hnow : mustWait s p.body = false)
    (hjudge : judge s p.comp p.body p.day = none) (hm : p.m = some m) : submit s p = answer s m 0x10 0 [] := by
  simp only [submit, hlead, hnow, Bool.not_true, Bool.or_self, Bool.false_eq_true, if_false, hjudge, hm]

/-- Settles O36: a proposal by where it is judged, and each command by the proposal it makes. -/
theorem mapCommandsBecomeEntries : Obligations.MapCommandsBecomeEntries := by
  unfold Obligations.MapCommandsBecomeEntries
  exact ⟨fun s m c b d => ⟨fun hlead => submit_passes _ hlead, fun hlead hnow =>
      ⟨fun e he => submit_appends hlead hnow he, fun hnone => submit_refused hlead hnow hnone rfl⟩⟩, fun s m x hacc c d =>
    ⟨fun b => ⟨commandRow_afterAll 0x30 _ hacc rfl, commandRow_afterAll 0x31 _ hacc rfl, commandRow_afterAll 0x32 _ hacc rfl⟩,
      fun slot gen destroy => commandRow_afterAll 0x33 _ hacc rfl, fun lender home base pages => commandRow_afterAll 0x34 _ hacc rfl,
      fun r v a base n k => ⟨commandRow_afterAll 0x38 _ hacc rfl, commandRow_afterAll 0x39 _ hacc rfl, commandRow_afterAll 0x3A _ hacc rfl,
        commandRow_afterAll 0x3B _ hacc rfl, commandRow_afterAll 0x3C _ hacc rfl⟩,
      fun spec w p => ⟨commandRow_afterAll 0x40 _ hacc rfl, commandRow_afterAll 0x41 _ hacc rfl, commandRow_afterAll 0x42 _ hacc rfl⟩,
      fun b hb => commandRow_afterAll 0x48 _ hacc (if_neg hb), fun dev spare hmay => commandRow_afterAll 0x49 _ hacc (if_pos hmay)⟩⟩

end Sys2Proof.Machine
end

section
/-! SUPPORT. Loads and stores at their home (R86, R140, R142, R176, R177). -/

namespace Sys2Proof.Machine

variable {s u : State} {r : Req}

/-- A request row does what its service does. -/
theorem served {t : State} {a : Arrival} {op : Nat} (h : Reaches s a op u r) (hop : op < 256) (hn : noCompletionOps.contains op = false)
    (hs : serve u none r = t) : commit s (arriveReq s a op) = After s t := by rw [arriveReq_reaches h hop hn, hs]

theorem portReq_judged (s : State) (b : PortBind) (p : Nat) (l : Option (BitVec 16)) (f : Frame) : (portReq s b p l f).judged = none := by
  unfold portReq
  split <;> rfl

/-- A request that has just arrived has not been judged. -/
theorem reaches_judged {a : Arrival} {op : Nat} (h : Reaches s a op u r) : r.judged = none := by
  obtain ⟨b, -, -, -, -, -, -, -, -, hr⟩ := h
  rcases hr with ⟨-, -, rfl⟩ | ⟨-, -, rfl, -⟩ <;> exact portReq_judged s b a.port.toNat none (asRequest op a.frame)

/-- Its rights are those of the home. -/
theorem reqRights_fresh (h : r.judged = none) (addr : W64) (write svc pin : Bool) :
    reqRights s r addr write svc pin = homeRights s r.hdr addr write svc pin := by rw [reqRights, h]

/-! ## Reads -/

section Reads
variable {own : Bool} {h : Ep} {he : Nat}

theorem serveRead_revoked (hkey : keyRevoked s r.hdr = true) : serveRead own s none r = completeStatus s r 0x30 := by
  simp only [serveRead, Option.isNone_none, hkey, Bool.and_self, if_true]

theorem serveRead_viol {k : Nat} {e : Option Ep} (hnew : r.judged = none) (hkey : keyRevoked s r.hdr = false)
    (hright : homeRights s r.hdr r.hdr.addr false false false = .viol k e) : serveRead own s none r = violation s r s.self k := by
  simp only [serveRead, Option.isNone_none, hkey, Bool.and_false, Bool.false_eq_true, if_false, reqRights_fresh hnew, hright]

theorem serveRead_poisoned (hnew : r.judged = none) (hkey : keyRevoked s r.hdr = false)
    (hright : homeRights s r.hdr r.hdr.addr false false false = .ok h he) (hpois : r.poisoned = true) :
    serveRead own s none r = completeStatus s r 0x40 := by
  simp only [serveRead, Option.isNone_none, hkey, Bool.and_false, Bool.false_eq_true, if_false, reqRights_fresh hnew, hright, hpois, if_true]

/-- A read whose lines are free is finished. -/
theorem serveRead_finishes {v : State} (hnew : r.judged = none) (hkey : keyRevoked s r.hdr = false)
    (hright : homeRights s r.hdr r.hdr.addr false false false = .ok h he) (hpois : r.poisoned = false) (hfirst : mustFollow s none r = false)
    (hlines : if modeOf s r.hdr r.hdr.addr = 2 then
      linesAccess s r.hdr (if own then .own else .read) (accessLines he r.hdr.addr r.hdr.length.toNat) = (v, true) else v = s) :
    serveRead own s none r = finishRead v [] none r he := by
  simp only [serveRead, Option.isNone_none, hkey, Bool.and_false, Bool.false_eq_true, if_false, reqRights_fresh hnew, hright, hpois, hfirst]
  by_cases hmode : modeOf s r.hdr r.hdr.addr = 2
  · rw [if_pos hmode] at hlines ⊢
    simp only [hlines]
  · rw [if_neg hmode] at hlines ⊢
    rw [hlines]

theorem finishRead_data {bs : List Byte} (hroom : teFull s he (pageOf r.hdr.addr) = false)
    (hread : readPiece (teEnter (sampleHeat s he (pageOf r.hdr.addr) false) he (pageOf r.hdr.addr)) [] r.hdr.comp.toNat he (pageOf r.hdr.addr)
      (byteOf r.hdr.addr) r.hdr.length.toNat = .data bs) :
    finishRead s [] none r he =
      (let w := teEnter (sampleHeat s he (pageOf r.hdr.addr) false) he (pageOf r.hdr.addr)
       complete w r w.self 0 bs false 0) := by
  simp only [finishRead, hroom, Bool.false_eq_true, if_false, hread]

theorem finishRead_fetch (hroom : teFull s he (pageOf r.hdr.addr) = false)
    (hread : readPiece (teEnter (sampleHeat s he (pageOf r.hdr.addr) false) he (pageOf r.hdr.addr)) [] r.hdr.comp.toNat he (pageOf r.hdr.addr)
      (byteOf r.hdr.addr) r.hdr.length.toNat = .fetch) :
    finishRead s [] none r he =
      (let w := teEnter (sampleHeat s he (pageOf r.hdr.addr) false) he (pageOf r.hdr.addr)
       let g := storedRange w he (pageOf r.hdr.addr) (byteOf r.hdr.addr) r.hdr.length.toNat
       sendFetch w (.read r) 3 he (pageOf r.hdr.addr) g.1 g.2) := by
  simp only [finishRead, hroom, Bool.false_eq_true, if_false, hread]

end Reads

/-- Settles O37: both reads are `serveRead`, by its cases. -/
theorem readsAnswer : Obligations.ReadsAnswer := by
  unfold Obligations.ReadsAnswer
  intro p hp s a u r hreach
  have hnew := reaches_judged hreach
  have hrow : exec (p.1 a) s = After s (serveRead p.2.2 u none r) := by
    simp only [List.mem_cons, List.not_mem_nil, or_false] at hp
    rcases hp with rfl | rfl
    · have hop := reaches_opcode hreach (by decide)
      exact served hreach (by decide) (by decide) (by simp only [serve, serveMem, hop, true_or, if_true])
    · have hop := reaches_opcode hreach (by decide)
      exact served hreach (by decide) (by decide) (by simp only [serve, serveMem, hop, true_or, or_true, if_true, Nat.reduceEqDiff, if_false])
  rw [hrow]
  refine ⟨fun hkey => by rw [serveRead_revoked hkey], fun hkey => ⟨fun k h hright => by rw [serveRead_viol hnew hkey hright], fun h he hright =>
    ⟨fun hpois => by rw [serveRead_poisoned hnew hkey hright hpois], fun v hpois hfirst hlines hroom => ?_⟩⟩⟩
  rw [serveRead_finishes hnew hkey hright hpois hfirst hlines]
  exact ⟨fun bs hread => by rw [finishRead_data hroom hread], fun hread => by rw [finishRead_fetch hroom hread]⟩

/-! ## Stores -/

section Stores
variable {h : Ep} {he : Nat}

theorem serveWrite_viol {k : Nat} {e : Option Ep} (hnew : r.judged = none) (hkey : keyRevoked s r.hdr = false)
    (hright : homeRights s r.hdr r.hdr.addr true false false = .viol k e) : serveWrite s none r = violation s r s.self k := by
  simp only [serveWrite, Option.isNone_none, hkey, Bool.and_false, Bool.false_eq_true, if_false, reqRights_fresh hnew, hright]

/-- A store whose lines are held elsewhere waits. -/
theorem serveWrite_waits {v : State} (hnew : r.judged = none) (hkey : keyRevoked s r.hdr = false)
    (hright : homeRights s r.hdr r.hdr.addr true false false = .ok h he) (hpois : r.poisoned = false) (hfirst : mustFollow s none r = false)
    (hmode : modeOf s r.hdr r.hdr.addr = 2) (hlines : linesAccess s r.hdr .write (accessLines he r.hdr.addr r.payload.length) = (v, false)) :
    serveWrite s none r = holdReq v none r .binv he (pageOf r.hdr.addr) := by
  simp only [serveWrite, Option.isNone_none, hkey, Bool.and_false, Bool.false_and, Bool.false_eq_true, if_false, reqRights_fresh hnew, hright, hpois, hfirst,
    if_pos hmode, hlines, Bool.not_false, if_true]

/-- A store whose lines are free and whose page is ready is applied. -/
theorem serveWrite_stores {v w x : State} {st : BitVec 8} (hnew : r.judged = none) (hkey : keyRevoked s r.hdr = false)
    (hright : homeRights s r.hdr r.hdr.addr true false false = .ok h he) (hpois : r.poisoned = false) (hfirst : mustFollow s none r = false)
    (hlines : if modeOf s r.hdr r.hdr.addr = 2 then linesAccess s r.hdr .write (accessLines he r.hdr.addr r.payload.length) = (v, true) else v = s)
    (hready : prepareStore v he (pageOf r.hdr.addr) = (w, .ready)) (happly : applyStore w r.hdr he r.hdr.addr r.payload = (x, st)) :
    serveWrite s none r = completeStatus x r st := by
  have hacc : (if modeOf s r.hdr r.hdr.addr = 2 then linesAccess s r.hdr .write (accessLines he r.hdr.addr r.payload.length) else (s, true)) = (v, true) := by
    by_cases hmode : modeOf s r.hdr r.hdr.addr = 2
    · rw [if_pos hmode] at hlines ⊢
      exact hlines
    · rw [if_neg hmode] at hlines ⊢
      rw [hlines]
  simp only [serveWrite, Option.isNone_none, hkey, Bool.and_false, Bool.false_and, Bool.false_eq_true, if_false, reqRights_fresh hnew, hright, hpois, hfirst,
    hacc, Bool.not_true, hready, happly]

end Stores

/-- A store row is `serveWrite`. -/
theorem wr_row {a : Arrival} (hreach : Reaches s a 0x14 u r) : exec (.wr a) s = After s (serveWrite u none r) := by
  have hop := reaches_opcode hreach (by decide)
  exact served hreach (by decide) (by decide) (by simp only [serve, serveMem, hop, true_or, or_true, if_true, Nat.reduceEqDiff, if_false])

/-- Settles O38: by the cases of `serveWrite`. -/
theorem writesStore : Obligations.WritesStore := by
  unfold Obligations.WritesStore
  intro s a u r hreach hkey
  have hnew := reaches_judged hreach
  rw [wr_row hreach]
  exact ⟨fun k h hright => by rw [serveWrite_viol hnew hkey hright], fun h he hright hpois hfirst =>
    ⟨fun v hmode hlines => by rw [serveWrite_waits hnew hkey hright hpois hfirst hmode hlines],
      fun v w x st hlines hready happly => by rw [serveWrite_stores hnew hkey hright hpois hfirst hlines hready happly]⟩⟩

end Sys2Proof.Machine
end

section
/-! SUPPORT. What answering leaves of storage, and what a store to a page of T1 without codec changes there (R140, R176). -/

namespace Sys2Proof.Machine

variable (s : State)

/-! ## Answering leaves storage as it was -/

theorem freeCredit_mem (p : Nat) (c : BitVec 3) (n : Nat) : (freeCredit s p c n).mem = s.mem := by
  simp only [freeCredit, freeCells]
  split
  · rfl
  · split <;> rfl

theorem discardRest_mem (rx : Option Nat) : (discardRest s rx).mem = s.mem := by cases rx <;> rfl

theorem mirror_mem (h : Header) (o : Origin) (e : BitVec 4) (p q : Nat) : (mirror s h o e p q).mem = s.mem := by
  unfold mirror
  split
  · rfl
  · dsimp only
    split
    · rfl
    · split
      · rfl
      · split <;> rfl

theorem endOut_mem (f : Frame) : (endOut s f).mem = s.mem := by
  have hmark : (markComplete s f).mem = s.mem := by
    simp only [markComplete]
    split
    · rfl
    · split <;> rfl
  simp only [endOut]
  split
  · exact hmark
  · rfl

theorem droppedCompletion_mem (h : Header) : (droppedCompletion s h).mem = s.mem := by
  unfold droppedCompletion
  dsimp only
  split
  · exact endOut_mem s _
  · split <;> exact endOut_mem s _

theorem pushedOut_mem (f : Frame) (o : Origin) (p q : Nat) : (pushedOut s f o p q).mem = s.mem := by
  have hbefore : (mirror (countPushout (freeCredit (discardRest s f.rx) o.port f.hdr.cls (frameSize f)) f.hdr.cls) f.hdr o 2 p q).mem = s.mem := by
    rw [mirror_mem, show ∀ t c, (countPushout t c).mem = t.mem from fun _ _ => rfl, freeCredit_mem, discardRest_mem]
  simp only [pushedOut]
  split
  · split <;> exact hbefore
  · rw [droppedCompletion_mem, hbefore]

theorem pushOut_mem (id : Nat) : (pushOut s id).mem = s.mem := by
  unfold pushOut
  split
  · exact pushedOut_mem _ _ _ _ _
  · exact pushedOut_mem _ _ _ _ _
  · rfl

theorem makeRoom_mem (fuel die cls need : Nat) : (makeRoom s fuel die cls need).mem = s.mem := by
  induction fuel generalizing s with
  | zero => rfl
  | succ k ih =>
    rw [makeRoom]
    split
    · rfl
    · split
      · rfl
      · rw [ih, pushOut_mem]

theorem enqueue_mem (p : Nat) (f : Frame) (t : Nat) : (enqueue s p f t).mem = s.mem := by
  have hmade : (if f.hdr.cls = 0 then s else roomFor s (dieOfPort p) f.hdr.cls.toNat (storedCells f) (cellsOf (frameSize f))).mem = s.mem := by
    split
    · rfl
    · rw [roomFor]
      split
      · rfl
      · exact makeRoom_mem s _ _ _ _
  simp only [enqueue, store]
  split
  · exact hmade
  · rw [pushedOut_mem, hmade]

theorem sendCompletion_mem (f : Frame) (t : Nat) : (sendCompletion s f t).mem = s.mem := by
  simp only [sendCompletion]
  split
  · exact endOut_mem s f
  · split
    · rw [enqueue_mem, endOut_mem]
    · exact endOut_mem s f

theorem releaseBulk_mem (r : Req) : (releaseBulk s r).mem = s.mem := by
  unfold releaseBulk
  split
  · split <;> rfl
  · rfl

theorem sendAnswer_mem (r : Req) (f : Frame) (t : Nat) : (sendAnswer s r f t).mem = s.mem := by
  unfold sendAnswer
  split
  · rfl
  · rw [sendCompletion_mem, releaseBulk_mem]

theorem complete_mem (r : Req) (src : Ep) (st : BitVec 8) (bs : List Byte) (v : Bool) (t : Nat) : (complete s r src st bs v t).mem = s.mem := by
  simp only [complete]
  split
  · rw [sendAnswer_mem]
    split <;> rfl
  · split <;> rfl

/-! ## A store to a page of T1 without codec -/

/-- What a change of a page keeps of it, is kept. -/
theorem updPte_pte_keeps {α : Type} (g : Pte → α) {f : Pte → Pte} (hf : ∀ p, g (f p) = g p) (he page : Nat) :
    g ((s.updPte he page f).pte he page) = g (s.pte he page) := by
  cases hext : KMap.find s.home.exts he with
  | none => simp only [State.updPte, State.updExt, State.homeExt, hext]
  | some x =>
    simp only [State.updPte, State.updExt, State.homeExt, hext, State.pte, State.setHome_home, KMap.find_put, if_true, KMap.getD, KMap.upd, Option.getD_some, hf]

theorem updPte_mem (he page : Nat) (f : Pte → Pte) : (s.updPte he page f).mem = s.mem := by
  simp only [State.updPte, State.updExt]
  split <;> rfl

theorem markDirty_mem (he page off len : Nat) : (markDirty s he page off len).mem = s.mem := by
  simp only [markDirty]
  split <;> rfl

theorem noteCursor_waits (c : BitVec 12) (a len : Nat) : (noteCursor s c a len).home.waits = s.home.waits := by
  unfold noteCursor
  split
  · rfl
  · dsimp only
    split <;> rfl

theorem noteCursor_mem (c : BitVec 12) (a len : Nat) : (noteCursor s c a len).mem = s.mem := by
  unfold noteCursor
  split
  · rfl
  · dsimp only
    split <;> rfl

theorem wakeWaits_none (h : s.home.waits = []) : wakeWaits s = s := by rw [wakeWaits, h, List.foldl_nil]

variable {s}

/-- A piece goes to its place in a frame of T1, or the frame has failed and nothing changes. -/
theorem writePiece_t1_mem {he page stack frame : Nat} (hloc : (s.pte he page).loc = .t1 stack frame) (hcodec : (s.pte he page).codec = 0) (owner off : Nat)
    (bs : List Byte) : (writePiece s owner he page off bs).1.mem = s.mem
      ∨ (writePiece s owner he page off bs).1.mem = Memory.writeBytes s.mem (t1Base + (stack * 786432 + frame) * 65536 + off) bs := by
  have hplain : isF (s.pte he page).codec.toNat = false := by
    rw [hcodec]
    rfl
  have haddr : (pageAddr (s.pte he page).codec.toNat page (.t1 stack frame)).getD 0 = t1Base + (stack * 786432 + frame) * 65536 := by
    rw [pageAddr, Option.getD_some, hplain, if_neg Bool.false_ne_true, Nat.add_zero]
  have hno : ¬ (s.pte he page).codec = 4 := by
    rw [hcodec]
    decide
  simp only [writePiece, hloc, haddr, hplain, Bool.false_eq_true, if_false, if_neg hno]
  split
  · exact .inl rfl
  · exact .inr (markDirty_mem _ _ _ _ _)

theorem writePiece_t1_waits {he page stack frame : Nat} (hloc : (s.pte he page).loc = .t1 stack frame) (hcodec : (s.pte he page).codec = 0) (owner off : Nat)
    (bs : List Byte) : (writePiece s owner he page off bs).1.home.waits = s.home.waits := by
  have hplain : isF (s.pte he page).codec.toNat = false := by
    rw [hcodec]
    rfl
  have hno : ¬ (s.pte he page).codec = 4 := by
    rw [hcodec]
    decide
  have hdirty : ∀ (t : State) (off len : Nat), (markDirty t he page off len).home.waits = t.home.waits := fun t off len => by
    simp only [markDirty]
    split <;> rfl
  simp only [writePiece, hloc, hplain, Bool.false_eq_true, if_false, if_neg hno]
  split
  · rfl
  · exact hdirty _ _ _

/-- A store to a page of T1 without codec, with no wait armed, changes the bytes it writes or none. -/
theorem applyStore_t1_mem {h : Header} {he stack frame : Nat} {addr : W64} {bs : List Byte} (hloc : (s.pte he (pageOf addr)).loc = .t1 stack frame)
    (hcodec : (s.pte he (pageOf addr)).codec = 0) (hwaits : s.home.waits = []) :
    (applyStore s h he addr bs).1.mem = s.mem
      ∨ (applyStore s h he addr bs).1.mem = Memory.writeBytes s.mem (t1Base + (stack * 786432 + frame) * 65536 + byteOf addr) bs := by
  have hheatLoc : ((sampleHeat s he (pageOf addr) true).pte he (pageOf addr)).loc = .t1 stack frame :=
    (updPte_pte_keeps _ Pte.loc (by intro; rfl) he (pageOf addr)).trans hloc
  have hheatCodec : ((sampleHeat s he (pageOf addr) true).pte he (pageOf addr)).codec = 0 :=
    (updPte_pte_keeps _ Pte.codec (by intro; rfl) he (pageOf addr)).trans hcodec
  have hheatMem : (sampleHeat s he (pageOf addr) true).mem = s.mem := updPte_mem _ _ _ _
  have hheatWaits : (sampleHeat s he (pageOf addr) true).home.waits = [] := by
    rw [← hwaits]
    simp only [sampleHeat, State.updPte, State.updExt]
    split <;> rfl
  have henter : teEnter (sampleHeat s he (pageOf addr) true) he (pageOf addr) = sampleHeat s he (pageOf addr) true := if_pos hheatCodec
  have hpiece := writePiece_t1_mem hheatLoc hheatCodec h.comp.toNat (byteOf addr) bs
  have hnone : (noteCursor (writePiece (sampleHeat s he (pageOf addr) true) h.comp.toNat he (pageOf addr) (byteOf addr) bs).1 h.comp addr.toNat
      bs.length).home.waits = [] := by rw [noteCursor_waits, writePiece_t1_waits hheatLoc hheatCodec, hheatWaits]
  simp only [applyStore, henter, wakeWaits_none _ hnone, noteCursor_mem]
  rw [hheatMem] at hpiece
  exact hpiece

/-- Settles O39: the store changes only the bytes it writes, answering none, and with no work left over nothing else runs. -/
theorem writesKeepOtherStorage : Obligations.WritesKeepOtherStorage := by
  unfold Obligations.WritesKeepOtherStorage
  intro s a u v w t r h he stack frame st hreach hkey hright hpois hfirst hmode hready hloc hcodec hwaits hwf happly hquiet hexec x hx
  have hlines : if modeOf u r.hdr r.hdr.addr = 2 then linesAccess u r.hdr .write (accessLines he r.hdr.addr r.payload.length) = (u, true) else u = u := by
    rw [if_neg hmode]
  rw [wr_row hreach, serveWrite_stores (reaches_judged hreach) hkey hright hpois hfirst hlines hready happly, After, settle_quiet hquiet, commit] at hexec
  have hmem : t.mem = Memory.canon w.mem := by
    rw [← Host.Outcome.next.inj hexec]
    exact congrArg Memory.canon (complete_mem _ _ _ _ _ _ _)
  have hstored := applyStore_t1_mem (h := r.hdr) (bs := r.payload) hloc hcodec hwaits
  rw [happly] at hstored
  rcases hstored with hsame | hwritten
  · rw [hmem, hsame, Memory.canon_of_wf hwf]
  · rw [hmem, hwritten, Memory.canon_of_wf (Memory.writeBytes_wf _ _ hwf), Memory.read_writeBytes, if_neg]
    rintro ⟨hlow, hhigh⟩
    rcases hx with hbefore | hafter
    · exact absurd hlow (Nat.not_le.mpr hbefore)
    · exact absurd hhigh (Nat.not_lt.mpr hafter)

end Sys2Proof.Machine
end

section
/-! SUPPORT. Atomics, alone and combined (R60, R145, R146, R152, R165, R167). -/

namespace Sys2Proof.Machine

variable {s u : State} {r : Req}

/-! ## One atomic -/

/-- An atomic that is not combined is served alone. -/
theorem serve_atomic (hop : isAtomic r.hdr.opcode.toNat = true) (hcomb : isCombined s r.hdr = false) : serve s none r = serveAtomic s none r := by
  have h10 : r.hdr.opcode.toNat ≠ 0x10 := fun h => by rw [h] at hop; cases hop
  have h11 : r.hdr.opcode.toNat ≠ 0x11 := fun h => by rw [h] at hop; cases hop
  have h14 : r.hdr.opcode.toNat ≠ 0x14 := fun h => by rw [h] at hop; cases hop
  simp only [serve, serveMem, hop, or_true, if_true, h10, h11, h14, if_false, hcomb, Bool.false_eq_true]

/-- A combined fetch-add is served as its members. -/
theorem serve_combined (hop : isAtomic r.hdr.opcode.toNat = true) (hcomb : isCombined s r.hdr = true) : serve s none r = serveCombined s none r := by
  have h10 : r.hdr.opcode.toNat ≠ 0x10 := fun h => by rw [h] at hop; cases hop
  have h11 : r.hdr.opcode.toNat ≠ 0x11 := fun h => by rw [h] at hop; cases hop
  have h14 : r.hdr.opcode.toNat ≠ 0x14 := fun h => by rw [h] at hop; cases hop
  simp only [serve, serveMem, hop, or_true, if_true, h10, h11, h14, if_false, hcomb]

section Atomic
variable {h : Ep} {he : Nat} {v w x : State}

theorem serveAtomic_strict (hvary : atomicVaries r.hdr.opcode.toNat r.hdr.etag = true) (hstrict : r.strict = true) :
    serveAtomic s none r = completeStatus s r 0x13 := by
  simp only [serveAtomic, hvary, hstrict, Bool.and_self, if_true]

theorem serveAtomic_hit {st : BitVec 8} {res : List Byte} (hnew : r.judged = none)
    (hmay : (atomicVaries r.hdr.opcode.toNat r.hdr.etag && r.strict) = false) (hkey : keyRevoked s r.hdr = false)
    (hright : homeRights s r.hdr r.hdr.addr true false (isPinWord s r.hdr r.hdr.addr) = .ok h he)
    (hledger : ledgerCheck s r.hdr.src r.hdr.seq r.hdr.isRetry = (v, .hit st res)) :
    serveAtomic s none r =
      complete v r v.self st (res.take (atomicBytes r.hdr.opcode.toNat r.hdr.etag)) (atomicVaries r.hdr.opcode.toNat r.hdr.etag) 0 := by
  simp only [serveAtomic, hmay, Option.isNone_none, hkey, Bool.and_false, Bool.false_eq_true, if_false, reqRights_fresh hnew, hright, hledger]

theorem serveAtomic_stale (hnew : r.judged = none) (hmay : (atomicVaries r.hdr.opcode.toNat r.hdr.etag && r.strict) = false)
    (hkey : keyRevoked s r.hdr = false) (hright : homeRights s r.hdr r.hdr.addr true false (isPinWord s r.hdr r.hdr.addr) = .ok h he)
    (hledger : ledgerCheck s r.hdr.src r.hdr.seq r.hdr.isRetry = (v, .stale)) : serveAtomic s none r = completeStatus v r 0x21 := by
  simp only [serveAtomic, hmay, Option.isNone_none, hkey, Bool.and_false, Bool.false_eq_true, if_false, reqRights_fresh hnew, hright, hledger]

/-- An atomic on an ordinary word stores what it makes of the old value and gives the old value back. -/
theorem runAtomic_word {hdr : Header} {old payload : List Byte} (hpin : isPinWord s hdr hdr.addr = false)
    (hread : readPiece s [] hdr.comp.toNat he (pageOf hdr.addr) (byteOf hdr.addr) (atomicBytes hdr.opcode.toNat hdr.etag) = .data old)
    (happly : applyStore s hdr he hdr.addr (atomicApply hdr.opcode.toNat hdr.etag old payload) = (x, 0)) :
    runAtomic s hdr he payload = (x, { status := 0, result := old, viol := false, recorded := true }) := by
  simp only [runAtomic, hread, hpin, Bool.false_eq_true, if_false, happly, if_true, beq_self_eq_true]

/-- An atomic that is new, and whose page is ready, runs and is recorded. -/
theorem serveAtomic_runs {old : List Byte} (hnew : r.judged = none) (hmay : (atomicVaries r.hdr.opcode.toNat r.hdr.etag && r.strict) = false)
    (hkey : keyRevoked s r.hdr = false) (hright : homeRights s r.hdr r.hdr.addr true false (isPinWord s r.hdr r.hdr.addr) = .ok h he)
    (hledger : ledgerCheck s r.hdr.src r.hdr.seq r.hdr.isRetry = (v, .fresh)) (hpois : r.poisoned = false)
    (hcodec : pageCodec v he (pageOf r.hdr.addr) = 0) (hfirst : mustFollow v none r = false) (hmode : modeOf v r.hdr r.hdr.addr ≠ 2)
    (hready : prepareStore v he (pageOf r.hdr.addr) = (w, .ready)) (hpin : isPinWord w r.hdr r.hdr.addr = false)
    (hread : readPiece w [] r.hdr.comp.toNat he (pageOf r.hdr.addr) (byteOf r.hdr.addr) (atomicBytes r.hdr.opcode.toNat r.hdr.etag) = .data old)
    (happly : applyStore w r.hdr he r.hdr.addr (atomicApply r.hdr.opcode.toNat r.hdr.etag old r.payload) = (x, 0)) :
    serveAtomic s none r =
      (let y := ledgerPut x r.hdr.src r.hdr.seq r.hdr.opcode 0 old
       complete y r y.self 0 old (atomicVaries r.hdr.opcode.toNat r.hdr.etag) 0) := by
  simp only [serveAtomic, hmay, Option.isNone_none, hkey, Bool.and_false, Bool.false_eq_true, if_false, reqRights_fresh hnew, hright, hledger, hpois,
    hcodec, ne_eq, not_true_eq_false, hfirst, if_neg hmode, Bool.not_true, hready, runAtomic_word hpin hread happly, if_true, Bool.and_true]

end Atomic

/-! ## A combined fetch-add -/

theorem serveCombined_runs {h : Ep} {he : Nat} {v x : State} {m : Member} {rest : List Member} {l : List (Member × BitVec 8)} (hnew : r.judged = none)
    (hmay : (atomicVaries r.hdr.opcode.toNat r.hdr.etag && r.strict) = false) (hkey : keyRevoked s r.hdr = false)
    (hms : parseMembers r.payload = m :: rest)
    (hright : homeRights s { r.hdr with src := m.src } r.hdr.addr true false (isPinWord s r.hdr r.hdr.addr) = .ok h he) (hpois : r.poisoned = false)
    (hcodec : pageCodec s he (pageOf r.hdr.addr) = 0) (hfirst : mustFollow s none r = false) (hmode : modeOf s r.hdr r.hdr.addr ≠ 2)
    (hready : prepareStore s he (pageOf r.hdr.addr) = (v, .ready)) (hrun : runMembers v r.hdr he none (m :: rest) = (x, l)) :
    serveCombined s none r = complete x r x.self 0 (memberBytes l) true 0 := by
  dsimp only at hright
  simp only [serveCombined, hmay, Option.isNone_none, hkey, Bool.and_false, Bool.false_eq_true, if_false, hms, reqRights, hnew, hright, hpois, hcodec, ne_eq,
    not_true_eq_false, hfirst, if_neg hmode, Bool.not_true, hready, hrun]

/-! ## What the integer atomics store -/

theorem atomicNew_min {etag : W64} {w old opnd : Nat} (h : etag.toNat % 8 = 2 ∨ etag.toNat % 8 = 3) : atomicNew 0x24 etag w old opnd = min opnd old := by
  have hfmt : atomicFormat 0x24 etag = none := by rcases h with h | h <;> simp [atomicFormat, h]
  have hsign : ¬ etag.toNat % 8 < 2 := by omega
  simp only [atomicNew, hfmt, if_neg hsign, decide_eq_true_eq, Nat.min_def]
  split <;> split <;> omega

theorem atomicNew_max {etag : W64} {w old opnd : Nat} (h : etag.toNat % 8 = 2 ∨ etag.toNat % 8 = 3) : atomicNew 0x25 etag w old opnd = max old opnd := by
  have hfmt : atomicFormat 0x25 etag = none := by rcases h with h | h <;> simp [atomicFormat, h]
  have hsign : ¬ etag.toNat % 8 < 2 := by omega
  simp only [atomicNew, hfmt, if_neg hsign, decide_eq_true_eq, Nat.max_def]
  split <;> split <;> omega

theorem atomicApply_swap {op : Nat} (hop : op = 0x27 ∨ op = 0x28) (etag : W64) {cmp bs : List Byte} (swap : List Byte) (hlen : cmp.length = bs.length) :
    atomicApply op etag bs (cmp ++ swap) = if cmp = bs then swap else bs := by
  simp only [atomicApply, if_pos hop, List.take_left' hlen, List.drop_left' hlen]

/-- Settles O40: one atomic by the cases of `serveAtomic`, the combined one by `serveCombined_runs`, the stored values by arithmetic. -/
theorem atomicsAct : Obligations.AtomicsAct := by
  unfold Obligations.AtomicsAct
  refine ⟨⟨?_, fun s a u v x r h he op m l hadd hframe hreach hcomb hmay hkey hhead hright hpois hcodec hfirst hmode hready hrun => ?_⟩,
    fun etag w old opnd => ⟨rfl, rfl, rfl, rfl, rfl, rfl, fun h => ⟨atomicNew_min h, atomicNew_max h⟩, fun op hop cmp swap bs hlen => ?_⟩⟩
  · intro p hp s a u r hreach hcomb
    have hrow : exec (p.1 a) s = commit s (arriveReq s a p.2) ∧ isAtomic p.2 = true ∧ p.2 < 256 ∧ noCompletionOps.contains p.2 = false := by
      simp only [List.mem_cons, List.not_mem_nil, or_false] at hp
      rcases hp with rfl | rfl | rfl | rfl | rfl | rfl | rfl | rfl | rfl | rfl | rfl | rfl <;> exact ⟨rfl, rfl, by decide, by decide⟩
    obtain ⟨hexec, hatomic, hlt, hanswers⟩ := hrow
    have hnew := reaches_judged hreach
    have hop := reaches_opcode hreach hlt
    rw [hexec, served hreach hlt hanswers (serve_atomic (by rw [hop]; exact hatomic) hcomb), ← hop]
    exact ⟨fun hvary hstrict => by rw [serveAtomic_strict hvary hstrict], fun hmay hkey h he hright =>
      ⟨fun v st res hledger => by rw [serveAtomic_hit hnew hmay hkey hright hledger], fun v hledger => by rw [serveAtomic_stale hnew hmay hkey hright hledger],
        fun v w x old hledger hpois hcodec hfirst hmode hready hpin hread happly => by
          rw [serveAtomic_runs hnew hmay hkey hright hledger hpois hcodec hfirst hmode hready hpin hread happly]⟩⟩
  · obtain ⟨rest, hms⟩ := List.head?_eq_some_iff.mp hhead
    have hrange : 0x20 ≤ op ∧ op ≤ 0x23 := of_decide_eq_true hadd
    have hlt : op < 256 := by omega
    have hanswers : noCompletionOps.contains op = false := by
      obtain rfl | rfl | rfl | rfl : op = 0x20 ∨ op = 0x21 ∨ op = 0x22 ∨ op = 0x23 := by omega
      all_goals decide
    have hop := reaches_opcode hreach hlt
    have hatomic : isAtomic r.hdr.opcode.toNat = true := by
      rw [hop]
      exact decide_eq_true ⟨hrange.1, by omega⟩
    rw [hms] at hrun
    rw [← hop] at hmay
    rw [exec, execCombinedFetchAdd, hframe, if_pos hadd, served hreach hlt hanswers (serve_combined hatomic hcomb),
      serveCombined_runs (reaches_judged hreach) hmay hkey hms hright hpois hcodec hfirst hmode hready hrun]
  · simp only [List.mem_cons, List.not_mem_nil, or_false] at hop
    exact atomicApply_swap hop etag swap hlen

end Sys2Proof.Machine
end

section
/-! SUPPORT. Copies, their pieces and counters (R154 to R158), and what a completion for this module ends (R142, R148, R191). -/

namespace Sys2Proof.Machine

variable {s u : State} {r : Req}

/-- A completion row does what the completion does here. -/
theorem returned {a : Arrival} {f : Frame} (h : Returns s a u f) : commit s (arriveResp s a) = After s (ownCompletion u f) := by
  rw [arriveResp, arrive_returns h, After]

theorem serveCpStart_starts {place : Nat} (hon : funcOn s r.hdr.comp 6 = true) (hkey : keyRevoked s r.hdr = false) (hpois : r.poisoned = false)
    (hsrc : r.hdr.addr.toNat = wordAt r.payload 0) (hlen : bits 63 24 (wordAt r.payload 2) ≠ 0) (hhere : homedElsewhere s r.hdr (wordAt r.payload 0) = false)
    (hcounter : counterOk s r.hdr r.hdr.etag = some place) (hplace : place < 2 ^ 50) :
    serveCpStart s r = startCopy s r place [(wordAt r.payload 0, wordAt r.payload 1, bits 63 24 (wordAt r.payload 2))]
      (bit 16 (wordAt r.payload 2)) (.ofNat 16 (bits 15 0 (wordAt r.payload 2))) none (extOf r.hdr.addr) := by
  have hgo : ¬ (r.hdr.addr.toNat ≠ wordAt r.payload 0 ∨ bits 63 24 (wordAt r.payload 2) = 0 ∨ homedElsewhere s r.hdr (wordAt r.payload 0) = true) := by
    rw [hhere]
    rintro (h | h | h)
    · exact h hsrc
    · exact hlen h
    · cases h
  simp only [serveCpStart, hon, hkey, hpois, Bool.not_true, Bool.false_eq_true, if_false, if_neg hgo, hcounter, if_neg (Nat.not_le.mpr hplace)]

theorem serveCpData_stores {h : Ep} {he : Nat} {v w : State} {st : BitVec 8} (hkey : keyRevoked s r.hdr = false) (hright : pieceRights s r = .ok h he)
    (hpois : r.poisoned = false) (hmode : modeOf s r.hdr r.hdr.addr ≠ 2) (hready : prepareStore s he (pageOf r.hdr.addr) = (v, .ready))
    (happly : applyStore v r.hdr he r.hdr.addr r.payload = (w, st)) : serveCpData s none r = completeStatus w r st := by
  simp only [serveCpData, Option.isNone_none, hkey, Bool.and_false, Bool.false_eq_true, if_false, hright, hpois, if_neg hmode, Bool.not_true, hready, happly]

/-- A completion that came whole ends what its request was for. -/
theorem ownCompletion_piece {f : Frame} {o : OwnReq} {key c len : Nat} (hpois : f.poisoned = false) (hown : findOwn s f = some (key, o))
    (hwhy : o.why = .piece c len) :
    ownCompletion s f = pumpCopy (pieceEnds (s.setXb { s.xb with own := KMap.del s.xb.own key }) c key len f.hdr.status) c := by
  simp only [ownCompletion, hown, hpois, hwhy, Bool.false_and, Bool.false_eq_true, if_false]

section Arm
variable {place : Nat} (hkey : keyRevoked s r.hdr = false) (hpois : r.poisoned = false) (hcounter : counterOk s r.hdr r.hdr.addr = some place)
  (hplace : place < 2 ^ 50) (hlimit : bits 15 0 (wordAt r.payload 1) ≠ 0)
include hkey hpois hcounter hplace hlimit

theorem serveCtrArm_reached (hv : wordAt r.payload 0 ≤ counterAt s (place / 2 ^ 30) (place / 65536 % 2 ^ 14) (place % 65536)) :
    serveCtrArm s r =
      (let t := complete s r s.self 0 [] false 0
       let wake : Ep := .ofNat 16 (bits 63 48 (wordAt r.payload 1))
       if wake = 0 then t else sendWake t r wake (counterAt s (place / 2 ^ 30) (place / 65536 % 2 ^ 14) (place % 65536))) := by
  simp only [serveCtrArm, hkey, hpois, Bool.false_eq_true, if_false, hcounter, if_neg hlimit, if_neg (Nat.not_le.mpr hplace), if_pos (show _ ≥ _ from hv)]

theorem serveCtrArm_waits (hv : counterAt s (place / 2 ^ 30) (place / 65536 % 2 ^ 14) (place % 65536) < wordAt r.payload 0)
    (hroom : s.home.waits.length < 65536) :
    serveCtrArm s r =
      (let x : ArmedWait := { req := r, counter := place, target := wordAt r.payload 0, wake := .ofNat 16 (bits 63 48 (wordAt r.payload 1)),
                              deadline := s.day + bits 15 0 (wordAt r.payload 1) }
       let t := s.setNextId (s.nextId + 1)
       addHold (t.setHome { t.home with waits := KMap.put t.home.waits s.nextId x }) (place / 2 ^ 30) (place / 65536 % 2 ^ 14) true) := by
  simp only [serveCtrArm, hkey, hpois, Bool.false_eq_true, if_false, hcounter, if_neg hlimit, if_neg (Nat.not_le.mpr hplace), if_neg (Nat.not_le.mpr hv),
    if_neg (Nat.not_le.mpr hroom)]
  rfl

end Arm

/-- The service of each of these opcodes. -/
theorem serve_cpStart (hop : r.hdr.opcode.toNat = 0x30) : serve s none r = serveCpStart s r := by
  simp only [serve, hop]
  rfl

theorem serve_cpData (hop : r.hdr.opcode.toNat = 0x31) : serve s none r = serveCpData s none r := by
  simp only [serve, hop]
  rfl

theorem serve_ctrArm (hop : r.hdr.opcode.toNat = 0x32) : serve s none r = serveCtrArm s r := by
  simp only [serve, hop]
  rfl

/-- Settles O41: the start, the piece, its end and the armed wait, each by its lemma. -/
theorem copiesAndCounters : Obligations.CopiesAndCounters := by
  unfold Obligations.CopiesAndCounters
  refine ⟨fun s a u r place hreach hon hkey hpois hsrc hlen hhere hcounter hplace => ?_,
    fun s a u v w r h he st hreach hkey hright hpois hmode hready happly => ?_, fun s a u f o key c len hret hpois hown hwhy => ?_,
    fun s a u r place hreach hkey hpois hcounter hplace hlimit => ?_⟩
  · refine served hreach (by decide) (by decide) ?_
    rw [serve_cpStart (reaches_opcode hreach (by decide)), serveCpStart_starts hon hkey hpois hsrc hlen hhere hcounter hplace]
  · refine served hreach (by decide) (by decide) ?_
    rw [serve_cpData (reaches_opcode hreach (by decide)), serveCpData_stores hkey hright hpois hmode hready happly]
  · rw [exec, execCpPieceComplete, returned hret, ownCompletion_piece hpois hown hwhy]
  · have hrow : exec (.ctrArm a) s = After s (serveCtrArm u r) :=
      served hreach (by decide) (by decide) (serve_ctrArm (reaches_opcode hreach (by decide)))
    rw [hrow]
    exact ⟨fun hv hwake => by rw [serveCtrArm_reached hkey hpois hcounter hplace hlimit hv]; simp only [if_pos hwake],
      fun hv hwake => by rw [serveCtrArm_reached hkey hpois hcounter hplace hlimit hv]; simp only [if_neg hwake],
      fun hv hroom => by rw [serveCtrArm_waits hkey hpois hcounter hplace hlimit hv hroom]⟩

end Sys2Proof.Machine
end

section
/-! SUPPORT. Contributions to collectives, their records and timers (R126 to R128, R244 to R248). -/

namespace Sys2Proof.Machine

variable {s u : State} {r : Req}

/-! ## Contributions -/

section Contributions
variable {n : NodeEntry} {k : Nat} (hcoll : isTransient (tagColl r.hdr.etag) = false)
  (hnode : nodeFor s (tagColl r.hdr.etag) (tagIdx r.hdr.etag) (isModule s r.hdr.src) = some n) (hpart : (partition s n.comp .reduce).isEmpty = false)
  (hdie : dieAvail s .reduce ((List.range 32).filterMap (fun i => if n.engMask.getLsbD i then some (32 * b2n n.die + i) else none)) (b2n n.die) ≠ .absent)
  (hnew : findChunk s n r.hdr.stepLo (tagChunk r.hdr.etag) = none) (hchunk : tagChunk r.hdr.etag < n.chunks) (haddr : r.hdr.addr.toNat < 65536)
  (helems : frameElems n.op.toNat (inputCode n (isModule s r.hdr.src)) n.row (isArg n.op.toNat && isModule s r.hdr.src) r.payload.length = some k)
  (hfits : bits 15 0 r.hdr.addr.toNat + k ≤ n.chunkElems) (hkey : keyRevoked s r.hdr = false) (hcomp : r.hdr.comp = n.comp) (hpois : r.poisoned = false)
include hcoll hnode hpart hdie hnew hchunk haddr helems hfits hkey hcomp hpois

/-- A contribution to a chunk that a record closes: a duplicate, or late with the record's status. -/
theorem serveContrib_recorded {x : ChunkRecord} (hrec : findRecord s n r.hdr.stepLo (tagChunk r.hdr.etag) = some x) :
    serveContrib s none r =
      if x.folded.contains (tagIdx r.hdr.etag) then
        completeStatus (s.updEngine .reduce (chunkEngine n (tagChunk r.hdr.etag)) (fun e => { e with c1 := satAdd 16 e.c1 1 })) r 0
      else completeStatus (s.updEngine .reduce x.engine (fun e => { e with c0 := satAdd 16 e.c0 1 })) r x.status := by
  have hform : ¬ (tagChunk r.hdr.etag ≥ n.chunks ∨ r.hdr.addr.toNat ≥ 65536) := not_or.mpr ⟨Nat.not_le.mpr hchunk, Nat.not_le.mpr haddr⟩
  simp only [serveContrib, hcoll, Bool.false_eq_true, if_false, hnode, hnew, hrec, hpart, if_neg hdie, helems, hfits, decide_true, Bool.true_eq_false, false_and, and_false, or_false, if_neg hform,
    Option.isNone_none, Option.isNone_some, Bool.and_false, Bool.false_and, hkey, hcomp, ne_eq, not_true_eq_false, hpois]

/-- The first contribution to a chunk opens it. -/
theorem serveContrib_opens (hrec : findRecord s n r.hdr.stepLo (tagChunk r.hdr.etag) = none) (hon : funcOn s n.comp 1 = true)
    (hroom : accUsed s (chunkEngine n (tagChunk r.hdr.etag)) + accBytes n (s.strict n.comp) ≤ 1048576)
    (hgood : (isModule s r.hdr.src && decide (r.hdr.status.toNat ≥ 0x10)) = false)
    (hshare : shareGone s r .reduce [chunkEngine n (tagChunk r.hdr.etag)] = false) (hfirst : queuedBefore s r .reduce = false) :
    serveContrib s none r =
      (let o := openChunk s n r.hdr.stepLo (tagChunk r.hdr.etag) r.hdr.epoch r.strict none (chunkEngine n (tagChunk r.hdr.etag))
       stageFrame (completeStatus o.2 r 0) o.1 (tagIdx r.hdr.etag) (bits 15 0 r.hdr.addr.toNat) (isModule s r.hdr.src) r.payload) := by
  have hform : ¬ (tagChunk r.hdr.etag ≥ n.chunks ∨ r.hdr.addr.toNat ≥ 65536) := not_or.mpr ⟨Nat.not_le.mpr hchunk, Nat.not_le.mpr haddr⟩
  simp only [serveContrib, hcoll, Bool.false_eq_true, if_false, hnode, hnew, hrec, hpart, if_neg hdie, helems, hfits, decide_true, Bool.true_eq_false, false_and, and_false, or_false, if_neg hform,
    Option.isNone_none, Bool.and_self, hon, Bool.not_true, Bool.and_false, Bool.false_and, hkey, hcomp, ne_eq, not_true_eq_false, hpois, hroom, hshare, hfirst,
    Bool.or_self, hgood]

end Contributions

/-! ## Timers and queues -/

theorem chunkTime_due {key : Nat} {c : Chunk} (hfind : KMap.find s.eng.chunks key = some c) (hdue : c.openDay + c.node.deadline ≤ s.day) : chunkTime s key = failChunk s key 0x50 := by
  simp only [chunkTime, hfind, if_neg (Nat.not_lt.mpr hdue)]

theorem retryQueue_singleton {id : Nat} {x : EngWait} (h : s.eng.queue = [(id, x)]) :
    retryQueue s = serve (s.setEng { s.eng with queue := [] }) (some (id, x.req.day)) x.req := by
  rw [retryQueue, h, List.foldl_cons, List.foldl_nil]
  simp only [h, KMap.find_singleton, KMap.del_singleton]

theorem recordExpires_due {key : Nat} {x : ChunkRecord} (hfind : KMap.find s.eng.records key = some x) (hdue : x.day + 4096 ≤ s.day) :
    recordExpires s key = s.setEng { s.eng with records := KMap.del s.eng.records key } := by
  simp only [recordExpires, hfind, if_neg (Nat.not_lt.mpr hdue)]

/-! ## Results -/

/-- The opcode of a request row that lands here. -/
theorem lands_opcode {a : Arrival} {op : Nat} (h : Lands s a.port.toNat (asRequest op a.frame) u r) (hop : op < 256) : r.hdr.opcode.toNat = op := by
  obtain ⟨b, -, -, hr, -⟩ := h
  rw [hr]
  exact portReq_opcode s b a.port.toNat none op a.frame hop

/-- A request row without completion does what its service does. -/
theorem landed {a : Arrival} {op : Nat} (h : Lands s a.port.toNat (asRequest op a.frame) u r) (hop : op < 256) (hn : noCompletionOps.contains op = true) :
    commit s (arriveReq s a op) = After s (serve u none r) := by
  rw [arriveReq, arrive_lands h (asRequest_opcode op a.frame hop) (asRequest_isResp op a.frame) hn, After]

theorem serve_contrib (hop : r.hdr.opcode.toNat = 0x40) : serve s none r = serveContrib s none r := by
  simp only [serve, hop]
  rfl

theorem serve_result (hop : r.hdr.opcode.toNat = 0x41) : serve s none r = serveResult s r := by
  simp only [serve, hop]
  rfl

/-- Settles O42: contributions by the two cases above, results by the multicast, the timers by their lemmas. -/
theorem contributionsAreFolded : Obligations.ContributionsAreFolded := by
  unfold Obligations.ContributionsAreFolded
  refine ⟨fun s a u r n k hreach hcoll hnode hpart hdie hnew hchunk haddr helems hfits hkey hcomp hpois => ?_, fun s a u r n hland hnode => ?_,
    fun s key c hfind _ hdue => ?_, fun s key x hfind hdue => ?_, fun s k n => rfl, fun s id x h => retryQueue_singleton h⟩
  · have hrow : exec (.reContrib a) s = After s (serveContrib u none r) :=
      served hreach (by decide) (by decide) (serve_contrib (reaches_opcode hreach (by decide)))
    rw [hrow]
    refine ⟨fun x hrec => ⟨fun hdup => ?_, fun hlate => ?_⟩, fun hrec hon hroom hgood hshare hfirst => ?_⟩
    · rw [serveContrib_recorded hcoll hnode hpart hdie hnew hchunk haddr helems hfits hkey hcomp hpois hrec, if_pos hdup]
    · rw [serveContrib_recorded hcoll hnode hpart hdie hnew hchunk haddr helems hfits hkey hcomp hpois hrec, hlate, if_neg Bool.false_ne_true]
    · rw [serveContrib_opens hcoll hnode hpart hdie hnew hchunk haddr helems hfits hkey hcomp hpois hrec hon hroom hgood hshare hfirst]
  · rw [exec, execReResult, landed hland (by decide) (by decide), serve_result (lands_opcode hland (by decide)), serveResult, hnode]
  · rw [exec, execChunkDeadline, chunkTime_due hfind hdue, After]
  · rw [exec, execChunkRecordExpiry, recordExpires_due hfind hdue, After]

end Sys2Proof.Machine
end

section
/-! SUPPORT. Reduce commands (R86, R232 to R241, R261, R262). -/

namespace Sys2Proof.Machine

variable {s u : State} {r : Req}

section ReCmd
variable (hrun : engineAvail s r .reduce bothDies = .run)
include hrun

theorem serveReCmd_off (hoff : funcOn s r.hdr.comp 0 = false) : serveReCmd s none r = completeStatus s r 0x11 := by
  simp only [serveReCmd, hrun, hoff, Option.isNone_none, Bool.not_false, Bool.and_self, if_true]

variable (hon : funcOn s r.hdr.comp 0 = true) (hpois : r.poisoned = false)
include hon hpois

theorem serveReCmd_malformed (hbad : reCmdOk s r.hdr (parseReCmd r.payload) r.payload.length = false) :
    serveReCmd s none r = completeStatus s r 0x10 := by
  simp only [serveReCmd, hrun, hon, hpois, hbad, Option.isNone_none, Bool.not_true, Bool.not_false, Bool.and_self, Bool.and_false, Bool.false_eq_true,
    if_false, if_true]

variable (hform : reCmdOk s r.hdr (parseReCmd r.payload) r.payload.length = true)
include hform

theorem serveReCmd_strict (hfresh : (parseReCmd r.payload).fresh = true) (hstrict : r.strict = true) : serveReCmd s none r = completeStatus s r 0x13 := by
  simp only [serveReCmd, hrun, hon, hpois, hform, hfresh, hstrict, Option.isNone_none, Bool.not_true, Bool.and_self, Bool.and_false, Bool.false_eq_true,
    if_false, if_true]

/-- A command that returns its result, with its operands at hand. -/
theorem serveReCmd_returns (hmay : ((parseReCmd r.payload).fresh && r.strict) = false) (hkey : keyRevoked s r.hdr = false)
    (hfirst : queuedBefore s r .reduce = false) (hbehind : engineBehind s r = false)
    (hneed : ((parseReCmd r.payload).opnds.map (fun g => readOperand s r.hdr g (parseReCmd r.payload).opndBytes)).flatMap (·.need) = [])
    (hret : (parseReCmd r.payload).ret = true) :
    serveReCmd s none r =
      (let reads := (parseReCmd r.payload).opnds.map (fun g => readOperand s r.hdr g (parseReCmd r.payload).opndBytes)
       let v := reads.foldl (fun s o => settleRead s r.hdr o) s
       let st := reads.foldl (fun a o => worse a o.status) 0
       if st.toNat ≥ 0x10 then completeStatus v r st else finishReCmd v r (parseReCmd r.payload) (reads.map (·.bytes))) := by
  simp only [serveReCmd, hrun, hon, hpois, hform, hmay, hkey, hfirst, hbehind, hneed, hret, Option.isNone_none, Bool.not_true, Bool.and_false,
    Bool.false_eq_true, if_false, if_true, reduceCtorEq, or_self, List.isEmpty_nil]

end ReCmd

theorem finishReCmd_returns {d : ReCmd} {bs : List (List Byte)} (hret : d.ret = true) :
    finishReCmd s r d bs =
      (let seed := commandSeed s r d.fresh
       let w := meterWork seed.2 r.hdr.comp .reduce (reqUnits seed.2 r .reduce)
       let x := d.compute r.strict (reqUnits w r .reduce).length seed.1 bs
       complete w r w.self x.2.2 (if isArg d.op then padTo d.idxOffset x.1 ++ x.2.1 else x.1) d.fresh 0) := by
  simp only [finishReCmd, hret, if_true]

theorem serve_reCmd (hop : r.hdr.opcode.toNat = 0x42) : serve s none r = serveReCmd s none r := by
  simp only [serve, hop]
  rfl

/-- Settles O43: by the cases of `serveReCmd`. -/
theorem reduceCommandsRun : Obligations.ReduceCommandsRun := by
  unfold Obligations.ReduceCommandsRun
  intro s a u r hreach hrun
  have hrow : exec (.reCmd a) s = After s (serveReCmd u none r) :=
    served hreach (by decide) (by decide) (serve_reCmd (reaches_opcode hreach (by decide)))
  rw [hrow]
  refine ⟨fun hoff => by rw [serveReCmd_off hrun hoff], fun hon hpois => ⟨fun hbad => by rw [serveReCmd_malformed hrun hon hpois hbad], fun hform =>
    ⟨fun hfresh hstrict => by rw [serveReCmd_strict hrun hon hpois hform hfresh hstrict], fun hmay hkey hfirst hbehind hneed hret => ?_⟩⟩⟩
  rw [serveReCmd_returns hrun hon hpois hform hmay hkey hfirst hbehind hneed hret]
  refine ⟨fun hst => ?_, fun hst => ?_⟩
  · simp only [if_pos (show _ ≥ 0x10 from hst)]
  · simp only [if_neg (Nat.not_le.mpr hst), finishReCmd_returns hret]

end Sys2Proof.Machine
end

section
/-! SUPPORT. Searches, updates and Harvests of partitions (R275 to R293). -/

namespace Sys2Proof.Machine

variable {s u : State} {r : Req}

theorem serve_search (hop : r.hdr.opcode.toNat = 0x48) : serve s none r = serveSearch s none r := by
  simp only [serve, hop]
  rfl

/-! ## Searches -/

/-- A search with inline queries that may run at once is opened. -/
theorem serveSearch_opens {w : Warren} (hrun : engineAvail s r .score (warrenDies s r.hdr.comp (.ofNat 24 (bits 63 40 r.hdr.etag.toNat))) = .run)
    (hunits : (reqUnits s r .reduce).isEmpty = false) (hfirst : queuedBefore s r .score = false) (hon : funcOn s r.hdr.comp 2 = true)
    (hpois : r.poisoned = false) (hlen : 64 ≤ r.payload.length) (hkind : bits 63 62 (wordAt r.payload 0) = 0)
    (hwarren : findWarren s r.hdr.comp (.ofNat 24 (bits 63 40 r.hdr.etag.toNat)) = some w) (hform : searchOk s r w = true)
    (hkey : keyRevoked s r.hdr = false) (hone : w.spec.runs.length ≤ 1) (hinline : bit 35 (wordAt r.payload 0) = true) :
    serveSearch s none r = openSearch s r w ((r.payload.drop (itemsAt r.payload)).take (searchNq r * vecBytes w.spec.fmt w.spec.dim.toNat)) := by
  have hgo : ¬ (bits 63 40 (wordAt r.payload 4) = 0 ∧ w.spec.runs.length > 1 ∧ (openTransients s).length ≥ 256) := fun h => absurd h.2.1 (Nat.not_lt.mpr hone)
  have hshort : ¬ r.payload.length < 64 := Nat.not_lt.mpr hlen
  simp only [serveSearch, hrun, hunits, hfirst, hon, hpois, if_neg hshort, hkind, hwarren, hform, hkey, if_neg hgo, hinline, Option.isNone_none, Bool.not_true,
    Bool.and_false, Bool.or_self, Bool.false_eq_true, if_false, if_true, ne_eq, not_true_eq_false, reduceCtorEq, or_self, or_false]

/-- An insert or delete is served as an update. -/
theorem serveSearch_update (hmay : engineAvail s r .score (warrenDies s r.hdr.comp (.ofNat 24 (bits 63 40 r.hdr.etag.toNat))) ≠ .absent)
    (hon : funcOn s r.hdr.comp 2 = true) (hpois : r.poisoned = false) (hlen : 64 ≤ r.payload.length) (h0 : bits 63 62 (wordAt r.payload 0) ≠ 0)
    (h3 : bits 63 62 (wordAt r.payload 0) ≠ 3) : serveSearch s none r = serveUpdate s r := by
  have hshort : ¬ (r.payload.length < 64 ∨ bits 63 62 (wordAt r.payload 0) = 3) := not_or.mpr ⟨Nat.not_lt.mpr hlen, h3⟩
  unfold serveSearch
  cases hav : engineAvail s r .score (warrenDies s r.hdr.comp (.ofNat 24 (bits 63 40 r.hdr.etag.toNat))) with
  | absent => exact absurd hav hmay
  | run => simp only [hon, hpois, if_neg hshort, if_pos h0, Bool.not_true, Bool.and_false, Bool.false_eq_true, if_false]
  | wait => simp only [hon, hpois, if_neg hshort, if_pos h0, Bool.not_true, Bool.and_false, Bool.false_eq_true, if_false]

/-- A well-formed update joins those of its partition. -/
theorem serveUpdate_joins {w : Warren} {i : Bool × VecEntry} {rest items : List (Bool × VecEntry)} {k : Nat}
    (hwarren : findWarren s r.hdr.comp (.ofNat 24 (bits 63 40 r.hdr.etag.toNat)) = some w)
    (hitems : parseItems w.spec (bits 63 62 (wordAt r.payload 0) == 1) (bits 61 56 (wordAt r.payload 0) + 1) (r.payload.drop 64) = items)
    (hcons : items = i :: rest) (hk : partitionOf i.2.id w.spec.pTotal.toNat = k)
    (hgood : ∀ j ∈ items, j.2.id ≠ 0xFFFFFFFFFFFFFFFF ∧ partitionOf j.2.id w.spec.pTotal.toNat = k) (hform : updateOk r = true)
    (hlen : 64 + itemsBytes w.spec (bits 63 62 (wordAt r.payload 0) == 1) (bits 61 56 (wordAt r.payload 0) + 1) ≤ r.payload.length)
    (hpart : (KMap.find s.eng.parts (partKey r.hdr.comp w.spec.warren k)).isSome = true) (hkey : keyRevoked s r.hdr = false) :
    serveUpdate s r =
      (let x : HeldUpdate := { req := r, part := partKey r.hdr.comp w.spec.warren k, items := items, stamp := r.day + 1, count := 0, day := r.day }
       let t := s.setNextId (s.nextId + 1)
       drainUpdates (t.setEng { t.eng with updates := KMap.put t.eng.updates s.nextId x })) := by
  have hall : items.all (fun j => j.2.id != 0xFFFFFFFFFFFFFFFF && partitionOf j.2.id w.spec.pTotal.toNat == k) = true := by
    rw [List.all_eq_true]
    intro j hj
    rw [Bool.and_eq_true, bne_iff_ne, beq_iff_eq]
    exact hgood j hj
  have hsome : (KMap.find s.eng.parts (partKey r.hdr.comp w.spec.warren k)).isNone = false := by
    rw [Option.isNone_eq_false_iff]
    exact hpart
  have hshort : decide (r.payload.length < 64 + itemsBytes w.spec (bits 63 62 (wordAt r.payload 0) == 1) (bits 61 56 (wordAt r.payload 0) + 1)) = false :=
    decide_eq_false (Nat.not_lt.mpr hlen)
  subst hcons
  simp only [serveUpdate, hwarren, hitems, hk, hform, hall, hshort, hsome, hkey, Bool.not_true, Bool.or_self, Bool.false_eq_true, if_false]
  rfl

/-! ## Scans -/

/-- The views that a scan takes, one partition after another. -/
def takeView (s : State) (base first : Nat) (m : KMap Part) (i : Nat) : KMap Part :=
  match KMap.find s.eng.parts (base + (first + i)) with
  | some v => KMap.put m (first + i) v
  | none => m

/-- A fold that leaves the state as it is only gathers. -/
theorem foldl_gathers {α β : Type} {F : State × α → β → State × α} {g : α → β → α} {l : List β} (hF : ∀ a, ∀ b ∈ l, F (s, a) b = (s, g a b)) (a : α) :
    l.foldl F (s, a) = (s, l.foldl g a) := by
  induction l generalizing a with
  | nil => rfl
  | cons b l ih => rw [List.foldl_cons, hF a b List.mem_cons_self, ih (fun a b hb => hF a b (List.mem_cons_of_mem _ hb)), List.foldl_cons]

/-- A scan of partitions that all lie here counts nothing and takes each view. -/
theorem startScan_starts {id : Nat} {x : Search} {w : Warren} (hfind : KMap.find s.eng.searches id = some x)
    (hwarren : findWarren s x.req.hdr.comp (.ofNat 24 (bits 63 40 x.req.hdr.etag.toNat)) = some w) (hnew : x.started = false)
    (happlied : ∀ q ∈ s.eng.updates, q.2.part / 2 ^ 16 = warrenKey w.spec.comp w.spec.warren → x.snap < q.2.stamp)
    (hhere : ∀ i v, i < w.pLocal → KMap.find s.eng.parts (warrenKey w.spec.comp w.spec.warren * 2 ^ 16 + (w.pFirst + i)) = some v →
      (ownExtent s w.spec.comp v.ext).isSome = true) :
    startScan s id =
      (let views := (List.range w.pLocal).foldl (takeView s (warrenKey w.spec.comp w.spec.warren * 2 ^ 16) w.pFirst) []
       s.setEng { s.eng with searches := KMap.put s.eng.searches id { x with started := true, views := views } }) := by
  have hnone : s.eng.updates.any (fun u => u.2.part / 2 ^ 16 == warrenKey w.spec.comp w.spec.warren && decide (u.2.stamp ≤ x.snap)) = false := by
    rw [List.any_eq_false]
    intro q hq hlate
    rw [Bool.and_eq_true, beq_iff_eq, decide_eq_true_eq] at hlate
    exact absurd hlate.2 (Nat.not_le.mpr (happlied q hq hlate.1))
  simp only [startScan, hfind, hwarren, hnew, hnone, Bool.or_self, Bool.false_eq_true, if_false]
  rw [foldl_gathers (g := takeView s (warrenKey w.spec.comp w.spec.warren * 2 ^ 16) w.pFirst)]
  intro m i hi
  cases hv : KMap.find s.eng.parts (warrenKey w.spec.comp w.spec.warren * 2 ^ 16 + (w.pFirst + i)) with
  | none => simp only [takeView, hv]
  | some v => simp only [takeView, hv, hhere i v (List.mem_range.mp hi) hv, if_true]

/-- A scan at its coordinator, the only module of the warren, merges its lists. -/
theorem endScan_merges {id : Nat} {x : Search} {w : Warren} (hfind : KMap.find s.eng.searches id = some x)
    (hwarren : findWarren s x.req.hdr.comp (.ofNat 24 (bits 63 40 x.req.hdr.etag.toNat)) = some w) (hstarted : x.started = true) (hopen : x.done = false)
    (hcoord : x.coordinator = true) (hone : w.spec.runs.length ≤ 1) (hst : (scanLists s x w.spec).2.1.toNat < 0x10) :
    endScan s id =
      (let t := meterWork s x.req.hdr.comp .score (workUnits s x.req .score (warrenDies s x.req.hdr.comp w.spec.warren))
       let t := heatPages (meterWork t x.req.hdr.comp .reduce [mergeEngine t x.req]) (scanLists s x w.spec).2.2 false
       (scanLists s x w.spec).1.zipIdx.foldl (fun s l => mergedList s id l.2 l.1)
         (t.setEng { t.eng with searches := KMap.put t.eng.searches id { x with done := true, views := [] } })) := by
  simp only [endScan, hfind, hwarren, hstarted, hopen, hcoord, Bool.not_true, Bool.or_self, Bool.false_eq_true, if_false, if_neg (Nat.not_le.mpr hst),
    if_pos hone]

theorem updateTimeout_due {id : Nat} {x : HeldUpdate} (hfind : KMap.find s.eng.updates id = some x) (hdue : x.day + 1024 ≤ s.day) :
    updateTimeout s id = completeStatus (s.setEng { s.eng with updates := KMap.del s.eng.updates id }) x.req 0x50 := by
  simp only [updateTimeout, hfind, if_neg (Nat.not_lt.mpr hdue)]

/-- Settles O44: the search, the updates, the scan's start and end, and the timeout, each by its lemma. -/
theorem searchesAndUpdatesProceed : Obligations.SearchesAndUpdatesProceed := by
  unfold Obligations.SearchesAndUpdatesProceed
  refine ⟨fun s a u r w hreach hrun hunits hfirst hon hpois hlen hkind hwarren hform hkey hone hinline => ?_,
    fun p hp s a u r w hreach hmay hon hpois hlen hform hkind hwarren i rest hcons hgood hfit hpart hkey => ?_, fun s id x w hfind hwarren => ⟨?_, ?_⟩,
    fun s id x hfind hdue => ?_⟩
  · refine served hreach (by decide) (by decide) ?_
    rw [serve_search (reaches_opcode hreach (by decide)),
      serveSearch_opens hrun hunits hfirst hon hpois hlen hkind hwarren hform hkey hone hinline]
  · have hrow : exec (p.1 a) s = commit s (arriveReq s (searchArrival p.2 a) 0x48) ∧ p.2 ≠ 0 ∧ p.2 ≠ 3 := by
      simp only [List.mem_cons, List.not_mem_nil, or_false] at hp
      rcases hp with rfl | rfl
      · exact ⟨rfl, by decide, by decide⟩
      · exact ⟨rfl, by decide, by decide⟩
    obtain ⟨hexec, h0, h3⟩ := hrow
    rw [hexec]
    refine served hreach (by decide) (by decide) ?_
    rw [← hkind] at h0 h3 hcons hgood hfit ⊢
    rw [serve_search (reaches_opcode hreach (by decide)), serveSearch_update hmay hon hpois hlen h0 h3,
      serveUpdate_joins hwarren rfl hcons rfl hgood hform hfit hpart hkey]
  · intro hnew happlied hhere
    rw [exec, execPartitionScanStart, startScan_starts hfind hwarren hnew happlied hhere]
    rfl
  · intro hstarted hopen hcoord hone hst
    rw [exec, execPartitionScanEnd, endScan_merges hfind hwarren hstarted hopen hcoord hone hst, After]
  · rw [exec, execWarrenUpdateTimeout, updateTimeout_due hfind hdue, After]

end Sys2Proof.Machine
end

section
/-! SUPPORT. Harvests (R283 to R285). -/

namespace Sys2Proof.Machine

variable {s : State}

/-- The only partition of a warren that is due for a Harvest, with a spare, starts one. -/
theorem startHarvest_due {key : Nat} {p : Part} {w : Warren} (hparts : s.eng.parts = [(key, p)]) (hwarren : KMap.find s.eng.warrens (key / 2 ^ 16) = some w)
    (hdue : harvestDue s key = true) (hnone : s.eng.harvests = [])
    (hspare : (KMap.find s.eng.spares (spareKey (key / 2 ^ 16) (extentDie s w.spec.comp p.ext))).isSome = true) :
    startHarvest s key =
      (let x : HarvestSt := { part := key, die := extentDie s w.spec.comp p.ext, lineDay := settleLine s key, start := p, next := none, oldExt := none }
       let t := s.setNextId (s.nextId + 1)
       setPart (t.setEng { t.eng with harvests := KMap.put t.eng.harvests s.nextId x }) key { p with harvesting := true }) := by
  have hidle : ∀ die, (harvestOn s die).isSome = false := fun die => by rw [harvestOn, hnone]; rfl
  have hfound : (KMap.find s.eng.spares (spareKey (key / 2 ^ 16) (extentDie s w.spec.comp p.ext))).isNone = false :=
    Option.isNone_eq_false_iff.mpr hspare
  have hfirst : decide (key % 2 ^ 16 < key % 2 ^ 16) = false := decide_eq_false (Nat.lt_irrefl _)
  simp only [startHarvest, hparts, KMap.find_singleton, hwarren, hdue, hidle, hfound, List.any_cons, List.any_nil, hfirst, Bool.false_and, Bool.not_true,
    Bool.or_self, Bool.false_eq_true, if_false]
  rfl

theorem harvestAgain_restarts {die id : Nat} {h : HarvestSt} {p : Part} (hon : harvestOn s die = some (id, h)) (hpart : KMap.find s.eng.parts h.part = some p) :
    harvestAgain s die =
      s.setEng { s.eng with harvests := KMap.put s.eng.harvests id { h with lineDay := settleLine s h.part, start := p, next := none } } := by
  simp only [harvestAgain, hon, hpart]

theorem harvestCopied_writes {die id : Nat} {h : HarvestSt} {p : Part} {w : Warren} (hon : harvestOn s die = some (id, h))
    (hpart : KMap.find s.eng.parts h.part = some p) (hwarren : KMap.find s.eng.warrens (h.part / 2 ^ 16) = some w) :
    harvestCopied s die =
      (let v := harvested w.spec.cap.toNat h.lineDay (KMap.getD s.eng.spares (spareKey (h.part / 2 ^ 16) die) 0) h.start p
       writeVersion (s.setEng { s.eng with harvests := KMap.put s.eng.harvests id { h with next := some v } }) w.spec.comp w.spec v) := by
  simp only [harvestCopied, hon, hpart, hwarren]

/-- An old version that no search reads is the spare from now on. -/
theorem harvestRelease_unread {die id ext : Nat} {gen : BitVec 6} {h : HarvestSt} (hone : s.eng.harvests = [(id, h)]) (hold : h.oldExt = some (ext, gen))
    (hdie : h.die = die) (hfree : s.eng.searches.any (fun x => x.2.views.any (fun v => v.2.ext == ext && v.2.gen == gen)) = false) :
    harvestRelease s die = s.setEng { s.eng with harvests := [], spares := KMap.put s.eng.spares (spareKey (h.part / 2 ^ 16) die) ext } := by
  rw [harvestRelease, hone, List.foldl_cons, List.foldl_nil]
  simp only [hold, hdie, hfree, and_self, if_true, hone, KMap.del_singleton]

/-- Settles O45: start, copy, fault and release, each by its lemma. -/
theorem harvestsProceed : Obligations.HarvestsProceed := by
  unfold Obligations.HarvestsProceed
  refine ⟨fun s c wn n p w hfind hwarren hdue hnone hparts hspare => ?_, fun s die id h p w hon hpart => ⟨?_, fun hwarren => ?_⟩,
    fun s die id ext gen h hone hold hdie hfree => ?_⟩
  · rw [exec, execHarvestStart, startHarvest_due hparts hwarren hdue hnone hspare, After]
  · rw [exec, execHarvestFault, harvestAgain_restarts hon hpart, After]
  · rw [exec, execHarvestCopyEnd, harvestCopied_writes hon hpart hwarren, After]
  · rw [exec, execHarvestOldRelease, harvestRelease_unread hone hold hdie hfree, After]

end Sys2Proof.Machine
end

section
/-! SUPPORT. KV records: what a write of a record leaves of the engines' tables, and the commands to records (R300 to R311). -/

namespace Sys2Proof.Machine

variable (s : State)

/-! ## What writing storage leaves of the engines' tables -/

section Keeps

@[simp] theorem updExt_eng (he : Nat) (f : HomeExt → HomeExt) : (s.updExt he f).eng = s.eng := by
  unfold State.updExt
  split <;> rfl

@[simp] theorem updPte_eng (he page : Nat) (f : Pte → Pte) : (s.updPte he page f).eng = s.eng := updExt_eng s he _

@[simp] theorem setBlockTag_eng (he page blk : Nat) (t : BlockTag) : (s.setBlockTag he page blk t).eng = s.eng := updExt_eng s he _

theorem dropLoc_eng (l : Loc) (units : Nat) : (dropLoc s l units).eng = s.eng := by
  unfold dropLoc
  split <;> rfl

theorem takeLoc_eng (l : Loc) (units : Nat) : (takeLoc s l units).eng = s.eng := by
  unfold takeLoc
  split <;> rfl

theorem abandonMove_eng (id : Nat) (counted : Bool) : (abandonMove s id counted).eng = s.eng := by
  unfold abandonMove
  split
  · rfl
  · have hpages : ∀ (g : List (Nat × MoveRec)) (t : State),
        (g.foldl (fun s x => s.updPte x.2.homeExt x.2.page (fun p => { p with state := .resident, move := 0 })) t).eng = t.eng :=
      fun g t => foldl_keeps State.eng (by intros; exact updPte_eng _ _ _ _) g t
    dsimp only
    split
    · exact (hpages _ _).trans (dropLoc_eng _ _ _)
    · exact (hpages _ _).trans (dropLoc_eng _ _ _)

theorem orderPromotion_eng (he page : Nat) : (orderPromotion s he page).eng = s.eng := by
  unfold orderPromotion orderMove
  split <;> rfl

theorem storeAtMove_eng (id : Nat) (m : MoveRec) : (storeAtMove s id m).1.eng = s.eng := by
  unfold storeAtMove
  split
  · rfl
  · split
    · exact abandonMove_eng s id true
    · split <;> rfl

@[simp] theorem zeroStorage_eng (a n : Nat) : (zeroStorage s a n).eng = s.eng := rfl

@[simp] theorem takeFrames_eng (stack frame n : Nat) : (takeFrames s stack frame n).eng = s.eng := rfl

/-- Mapping a new page changes the home and storage alone. -/
theorem allocPage_eng {he page : Nat} {t : State} (h : allocPage s he page = some t) : t.eng = s.eng := by
  simp only [allocPage] at h
  split at h
  · split at h
    · rw [← Option.some.inj h]
      simp only [apply_ite State.eng, State.setHome_eng, updExt_eng, updPte_eng, zeroStorage_eng, ite_self]
    · cases h
    · split at h
      · rw [← Option.some.inj h]
        simp only [apply_ite State.eng, State.setHome_eng, updExt_eng, updPte_eng, zeroStorage_eng, takeFrames_eng, ite_self]
      · cases h
  · split at h
    · rw [← Option.some.inj h]
      simp only [apply_ite State.eng, State.setHome_eng, updExt_eng, updPte_eng, zeroStorage_eng, takeFrames_eng, ite_self]
    · cases h

theorem storeAllocates_eng (he page : Nat) : (storeAllocates s he page).1.eng = s.eng := by
  unfold storeAllocates
  split
  · next t h => exact allocPage_eng s h
  · rfl

theorem storeMaps_eng (he page : Nat) : (storeMaps s he page).1.eng = s.eng := by
  unfold storeMaps
  split
  · exact storeAllocates_eng s he page
  · split
    · next id m _ =>
      have hmove := storeAtMove_eng s id m
      split
      · next t ht =>
        rw [ht] at hmove
        split
        · exact (storeAllocates_eng t he page).trans hmove
        · exact hmove
      · next t w _ ht =>
        rw [ht] at hmove
        exact hmove
    · split
      · exact orderPromotion_eng s he _
      · exact storeAllocates_eng s he page

theorem prepareStore_eng (he page : Nat) : (prepareStore s he page).1.eng = s.eng := by
  simp only [prepareStore]
  split
  · rfl
  · split
    · rfl
    · split
      · exact storeMaps_eng s he page
      · exact storeMaps_eng s he page
      · split
        · rfl
        · exact storeAtMove_eng s _ _
      · split
        · exact orderPromotion_eng s he page
        · split <;> rfl

theorem sampleHeat_eng (he page : Nat) (store : Bool) : (sampleHeat s he page store).eng = s.eng := updPte_eng _ _ _ _

theorem markDirty_eng (he page off len : Nat) : (markDirty s he page off len).eng = s.eng := by
  simp only [markDirty]
  split <;> rfl

theorem writeT0_eng (owner base off : Nat) (bs : List Byte) : (writeT0 s owner base off bs).eng = s.eng :=
  foldl_keeps State.eng (by intros; split <;> rfl) _ s

theorem writeBlockF_eng (he : Nat) (x : HomeExt) (stack addr : Nat) (bs : List Byte) : (writeBlockF s he x stack addr bs).1.eng = s.eng := by
  simp only [writeBlockF]
  split
  · rfl
  · split
    · cases freeRunFrom s stack 1 (frameFuel s stack 1) 0 with
      | none => simp only [apply_ite Prod.fst, apply_ite State.eng, State.setMem_eng, updExt_eng, ite_self]
      | some fr => simp only [apply_ite Prod.fst, apply_ite State.eng, State.setMem_eng, updExt_eng, takeFrames_eng, ite_self]
    · rw [State.setMem_eng]
      split
      · exact updExt_eng s he _
      · rfl

theorem writePiece_eng (owner he page off : Nat) (bs : List Byte) : (writePiece s owner he page off bs).1.eng = s.eng := by
  simp only [writePiece]
  split
  · rw [markDirty_eng]
    exact writeT0_eng s _ _ _ _
  · split
    · rfl
    · split
      · split
        · rfl
        · split
          · rfl
          · simp only [markDirty_eng, apply_ite State.eng, State.setHome_eng]
            split
            · exact writeBlockF_eng s _ _ _ _ _
            · exact writeBlockF_eng s _ _ _ _ _
      · split
        · split
          · rfl
          · split
            · exact setBlockTag_eng _ _ _ _ _
            · rw [markDirty_eng]
              exact setBlockTag_eng _ _ _ _ _
        · rw [markDirty_eng]
          rfl
  · rfl

/-- A write of a service into an extent changes the home and storage alone. -/
theorem svcWrite_eng (c : BitVec 12) (he off : Nat) (bs : List Byte) : (svcWrite s c he off bs).eng = s.eng := by
  refine foldl_keeps State.eng (fun t p => ?_) _ s
  have hready := prepareStore_eng t he (p.1 / 65536)
  split
  · next v hv =>
    rw [hv] at hready
    rw [writePiece_eng, sampleHeat_eng, ← hready]
  · next v w _ hv =>
    rw [hv] at hready
    exact hready

end Keeps

variable {s} {u : State} {r : Req}

/-! ## Records -/

/-- A record that has been written is the one in its table. -/
theorem seqOf_putSeq (s : State) (c : BitVec 12) (id : Nat) (x : SeqRec) : seqOf (putSeq s c id x) c id = x := by
  have heng : (putSeq s c id x).eng = { s.eng with seqs := KMap.put s.eng.seqs (seqKey c id) x } := by
    unfold putSeq
    dsimp only
    split
    · exact svcWrite_eng _ _ _ _ _
    · rfl
  rw [seqOf, heng, KMap.getD, KMap.find_put, if_pos rfl, Option.getD_some]

theorem runTruncate_closed {id : Nat} (h : (seqOf s r.hdr.comp id).state ≠ 1) : runTruncate s r id = .done s 0x10 [] := if_pos h

/-- A release of a record that scans read waits, the record releasing. -/
theorem runRelease_waits {id : Nat} (hopen : (seqOf s r.hdr.comp id).state = 1) (hscans : (seqOf s r.hdr.comp id).scans > 0) :
    runRelease s r id = .hold (putSeq s r.hdr.comp id { seqOf s r.hdr.comp id with state := 2 }) := by
  have h0 : ¬ (1 : BitVec 2) = 0 := by decide
  simp only [runRelease, hopen, if_neg h0, if_true, if_pos hscans]

/-- A choice that gives `x` gives it by one of its branches. -/
theorem either_of_ite {α : Type} {c : Prop} [Decidable c] {a b x : α} (h : (if c then a else b) = x) : a = x ∨ b = x := by
  split at h
  · exact .inl h
  · exact .inr h

/-- A create that succeeds opens the record with what it names, and no pages. -/
theorem runCreate_opens {id : Nat} {t : State} {st : BitVec 8} {bs : List Byte} (hclosed : (seqOf s r.hdr.comp id).state ≠ 1)
    (hrun : runCreate s r id = .done t st bs) (hst : st = 0) :
    (seqOf t r.hdr.comp id).state = 1 ∧ (seqOf t r.hdr.comp id).nLayers = bits 61 54 (wordAt r.payload 1) + 1
      ∧ (seqOf t r.hdr.comp id).headDim = bits 47 38 (wordAt r.payload 1) ∧ (seqOf t r.hdr.comp id).map = [] := by
  simp only [runCreate, if_neg hclosed] at hrun
  rcases either_of_ite hrun with hbad | hdone
  · injection hbad with _ hbad _
    rw [hst] at hbad
    cases hbad
  · injection hdone with ht _ _
    rw [← ht, seqOf_putSeq]
    exact ⟨rfl, rfl, rfl, rfl⟩

/-! ## Commands -/

theorem serve_append (hop : r.hdr.opcode.toNat = 0x15) : serve s none r = serveAppend s r := by
  simp only [serve, hop]
  rfl

theorem serve_attn (hop : r.hdr.opcode.toNat = 0x49) : serve s none r = serveAttn s none r := by
  simp only [serve, hop]
  rfl

theorem serveAppend_off (hoff : funcOn s r.hdr.comp 4 = false) : serveAppend s r = completeStatus s r 0x11 := by
  simp only [serveAppend, hoff, Bool.not_false, if_true]

theorem serveAppend_joins {h : Ep} {he : Nat} (hon : funcOn s r.hdr.comp 4 = true) (hkey : keyRevoked s r.hdr = false)
    (hright : homeRights s r.hdr r.hdr.addr true true false = .ok h he) (hpois : r.poisoned = false) (hline : r.hdr.addr.toNat % 4096 = 0)
    (hrec : r.hdr.addr.toNat % 2 ^ 30 < 64 * 65536) (hhome : (seqHome s r.hdr.comp (extOf r.hdr.addr * 1024 + r.hdr.addr.toNat % 2 ^ 30 / 4096)).isSome = true) :
    serveAppend s r = enqueueKv s r (extOf r.hdr.addr * 1024 + r.hdr.addr.toNat % 2 ^ 30 / 4096) := by
  have hgo : ¬ (r.hdr.addr.toNat % 4096 ≠ 0 ∨ r.hdr.addr.toNat % 2 ^ 30 ≥ 64 * 65536
      ∨ (seqHome s r.hdr.comp (extOf r.hdr.addr * 1024 + r.hdr.addr.toNat % 2 ^ 30 / 4096)).isNone = true) := by
    rintro (h | h | h)
    · exact h hline
    · exact absurd hrec (Nat.not_lt.mpr h)
    · rw [Option.isNone_eq_false_iff.mpr hhome] at h
      cases h
  simp only [serveAppend, hon, hkey, hright, hpois, Bool.not_true, Bool.false_eq_true, if_false, if_neg hgo]

theorem serveAttn_kvOff (hkind : bits 63 61 (wordAt r.payload 0) ≠ 0) (hoff : funcOn s r.hdr.comp 4 = false) :
    serveAttn s none r = completeStatus s r 0x11 := by
  simp only [serveAttn, if_neg hkind, hoff, Bool.not_false, if_true]

theorem serveAttn_kvJoins (hkind : bits 63 61 (wordAt r.payload 0) ≠ 0) (hmax : bits 63 61 (wordAt r.payload 0) ≤ 4) (hon : funcOn s r.hdr.comp 4 = true)
    (hpois : r.poisoned = false) (hhome : (seqHome s r.hdr.comp (bits 63 32 r.hdr.etag.toNat)).isSome = true) (hlen : 64 ≤ r.payload.length)
    (hkey : keyRevoked s r.hdr = false) : serveAttn s none r = enqueueKv s r (bits 63 32 r.hdr.etag.toNat) := by
  have hgo : ¬ (bits 63 61 (wordAt r.payload 0) > 4 ∨ (seqHome s r.hdr.comp (bits 63 32 r.hdr.etag.toNat)).isNone = true ∨ r.payload.length < 64) := by
    rintro (h | h | h)
    · exact absurd hmax (Nat.not_le.mpr h)
    · rw [Option.isNone_eq_false_iff.mpr hhome] at h
      cases h
    · exact absurd hlen (Nat.not_le.mpr h)
  simp only [serveAttn, if_neg hkind, hon, hpois, hkey, Bool.not_true, Bool.false_eq_true, if_false, if_neg hgo]

/-- A command that is done is answered, and no more waits. -/
theorem drainKv_done {t : State} {id : Nat} {h : KvHeld} {st : BitVec 8} {bs : List Byte} (hone : s.eng.kvHeld = [(id, h)])
    (hrun : runKv s h.req h.seqId = .done t st bs) :
    drainKv s = complete (t.setEng { t.eng with kvHeld := KMap.del t.eng.kvHeld id }) h.req t.self st bs false 0 := by
  simp only [drainKv, hone, List.foldl_cons, List.foldl_nil, List.contains_nil, Bool.false_eq_true, if_false, hrun]

theorem kvTimeout_due {id : Nat} {h : KvHeld} (hfind : KMap.find s.eng.kvHeld id = some h) (hdue : h.day + 1024 ≤ s.day) :
    kvTimeout s id = completeStatus (s.setEng { s.eng with kvHeld := KMap.del s.eng.kvHeld id }) h.req 0x50 := by
  simp only [kvTimeout, hfind, if_neg (Nat.not_lt.mpr hdue)]

/-- Settles O46: joining, being done and timing out by the lemmas on commands, and what each does to its record by those on records. -/
theorem kvCommandsAct : Obligations.KvCommandsAct := by
  unfold Obligations.KvCommandsAct
  refine ⟨⟨fun s a u r hreach => ?_, fun p hp s a u r hreach hkind => ?_, fun s id => rfl, fun s t id h st bs hone hrun => drainKv_done hone hrun,
      fun s id h hfind hdue => ?_⟩,
    fun s r id t st bs hclosed hrun hst => runCreate_opens hclosed hrun hst, fun s r id h => runTruncate_closed h,
    fun s r id hopen hscans => ⟨_, runRelease_waits hopen hscans, by rw [seqOf_putSeq]⟩⟩
  · have hrow : exec (.wrAppend a) s = After s (serveAppend u r) :=
      served hreach (by decide) (by decide) (serve_append (reaches_opcode hreach (by decide)))
    rw [hrow]
    exact ⟨fun hoff => by rw [serveAppend_off hoff], fun h he hon hkey hright hpois hline hrec hhome => by
      rw [serveAppend_joins hon hkey hright hpois hline hrec hhome]; rfl⟩
  · have hrow : exec (p.1 a) s = commit s (arriveReq s (attnArrival p.2 a) 0x49) ∧ p.2 ≠ 0 ∧ p.2 ≤ 4 := by
      simp only [List.mem_cons, List.not_mem_nil, or_false] at hp
      rcases hp with rfl | rfl | rfl | rfl <;> exact ⟨rfl, by decide, by decide⟩
    obtain ⟨hexec, h0, h4⟩ := hrow
    rw [← hkind] at h0 h4
    rw [hexec, served hreach (by decide) (by decide) (serve_attn (reaches_opcode hreach (by decide)))]
    exact ⟨fun hoff => by rw [serveAttn_kvOff h0 hoff], fun hon hpois hhome hlen hkey => by
      rw [serveAttn_kvJoins h0 h4 hon hpois hhome hlen hkey]; rfl⟩
  · rw [exec, execKvHeldTimeout, kvTimeout_due hfind hdue, After]

end Sys2Proof.Machine
end

section
/-! SUPPORT. Gather engines: gathers, bags, scatters, walks and assemblies (R325 to R343). -/

namespace Sys2Proof.Machine

variable {s u : State} {r : Req}

/-- Reads that all went well leave no status. -/
theorem foldl_worse_zero {α : Type} {f : α → BitVec 8} {l : List α} (h : ∀ x ∈ l, f x = 0) : l.foldl (fun a x => worse a (f x)) 0 = 0 := by
  induction l with
  | nil => rfl
  | cons x l ih =>
    rw [List.foldl_cons, h x List.mem_cons_self]
    exact ih (fun y hy => h y (List.mem_cons_of_mem _ hy))

/-! ## Gathers, bags and scatters -/

/-- A gather whose lists are at hand runs. -/
theorem serveGather_runs {o : GatherObj} (hobj : findObject s r.hdr false = some o)
    (hchecks : gatherChecks s none r 5 (parseGather r.payload).deadline (gatherDies s r (some o))
      (decide (64 ≤ r.payload.length) && gatherOk s r.hdr (parseGather r.payload) o r.payload.length) = none)
    (hneed : (gatherLists s r (parseGather r.payload) o).flatMap (·.need) = []) (hst : ∀ l ∈ gatherLists s r (parseGather r.payload) o, l.status = 0) :
    serveGather s none r = runGather s none r (parseGather r.payload) o (gatherLists s r (parseGather r.payload) o) := by
  have hzero : ¬ ((0 : BitVec 8).toNat ≥ 0x10) := by decide
  simp only [serveGather, hobj, hchecks, hneed, foldl_worse_zero hst, List.isEmpty_nil, Bool.not_true, Bool.false_eq_true, if_false, if_neg hzero]

section Run
variable {d : GatherCmd} {o : GatherObj} {reads : List OpRead}

/-- The indices of a gather command. -/
def gatherIdx (d : GatherCmd) (reads : List OpRead) : List Nat := wordsOf d.idxBytes ((reads.map (·.bytes)).getD 0 [])

/-- Those that are not skipped. -/
def gatherLive (d : GatherCmd) (reads : List OpRead) : List Nat := (gatherIdx d reads).filter (· != d.skip)

theorem runGather_outside (hout : (gatherLive d reads).any (fun i => decide (i ≥ o.count)) = true) :
    runGather s none r d o reads = gatherEnds (reads.foldl (fun s l => settleRead s r.hdr l) s) r 0x10 :=
  if_pos (.inl hout)

variable (hin : (gatherLive d reads).any (fun i => decide (i ≥ o.count)) = false)
  (hofs : r.hdr.opcode.toNat = 0x52 → offsetsOk d.n (wordsOf 4 ((reads.map (·.bytes)).getD 2 [])) = true)
include hin hofs

theorem runGather_inside : ¬ ((gatherLive d reads).any (fun i => decide (i ≥ o.count)) = true
    ∨ (r.hdr.opcode.toNat = 0x52 ∧ offsetsOk d.n (wordsOf 4 ((reads.map (·.bytes)).getD 2 [])) = false)) := by
  rw [hin]
  rintro (h | ⟨hop, h⟩)
  · cases h
  · rw [hofs hop] at h
    cases h

/-- A scatter whose rows are ready writes them. -/
theorem runGather_scatters {w : State} (hop : r.hdr.opcode.toNat = 0x51) (hready : readyRows s r.hdr o (gatherLive d reads) = (w, none)) :
    runGather s none r d o reads =
      (let rows := ((gatherIdx d reads).zip (chunksOf o.stride (d.n + 1) ((reads.map (·.bytes)).getD 3 []))).filter (fun q => q.1 != d.skip)
       let v := reads.foldl (fun s l => settleRead s r.hdr l) w
       let v := meterWork (v.updEngine .gather (gatherEngine s r)
         (fun e => { e with c2 := satAdd 16 e.c2 ((gatherIdx d reads).length - (gatherLive d reads).length) })) r.hdr.comp .gather
         (workUnits w r .gather (gatherDies w r (some o)))
       let x := scatterRows v r.hdr o rows
       gatherEnds x.1 r x.2) := by
  refine (if_neg (runGather_inside hin hofs)).trans ((if_pos hop).trans ?_)
  rw [gatherLive, gatherIdx] at hready
  simp only [hready]
  rfl

/-- A gather or bag whose rows are at hand answers them. -/
theorem runGather_answers (hop : r.hdr.opcode.toNat ≠ 0x51) (hret : d.outGfa = 0)
    (hneed : ((gatherLive d reads).map (fun i => (i, readOperand s r.hdr (o.base + i * o.stride) o.stride))).flatMap (·.2.need) = [])
    (hst : ∀ q ∈ (gatherLive d reads).map (fun i => (i, readOperand s r.hdr (o.base + i * o.stride) o.stride)), q.2.status = 0) :
    runGather s none r d o reads =
      (let rs := (gatherLive d reads).map (fun i => (i, readOperand s r.hdr (o.base + i * o.stride) o.stride))
       let w := rs.foldl (fun s q => settleRead s r.hdr q.2) s
       let v := reads.foldl (fun s l => settleRead s r.hdr l) w
       let v := meterWork (v.updEngine .gather (gatherEngine s r)
         (fun e => { e with c2 := satAdd 16 e.c2 ((gatherIdx d reads).length - (gatherLive d reads).length) })) r.hdr.comp .gather
         (workUnits w r .gather (gatherDies w r (some o)))
       let v := dropDeadline v r
       let rows := (gatherIdx d reads).map (fun i => match rs.find? (fun q => q.1 == i) with | some q => q.2.bytes | none => zeros o.stride)
       let out := if r.hdr.opcode.toNat = 0x52 then bagBytes d r.strict o (gatherIdx d reads) (wordsOf 4 ((reads.map (·.bytes)).getD 2 []))
         (decodeElems 0 false ((reads.map (·.bytes)).getD 1 [])) rows else rows.flatten
       complete v r v.self 0 out false 0) := by
  have hzero : ¬ ((0 : BitVec 8).toNat ≥ 0x10) := by decide
  refine (if_neg (runGather_inside hin hofs)).trans ((if_neg hop).trans ?_)
  rw [gatherLive, gatherIdx] at hneed hst
  simp only [hneed, foldl_worse_zero hst, hret, List.isEmpty_nil, Bool.not_true, Bool.false_eq_true, if_false, if_true, if_neg hzero]
  rfl

end Run

/-! ## Walks, assemblies and deadlines -/

/-- A walk with inline seeds whose nodes are at hand answers its record. -/
theorem serveWalk_answers {o : GatherObj} (hobj : findObject s r.hdr true = some o)
    (hchecks : gatherChecks s none r 5 (parseWalk r.payload).deadline (gatherDies s r (some o)) (walkOk s r.hdr (parseWalk r.payload) r.payload.length) = none)
    (hinline : (parseWalk r.payload).inl = true) (hret : (parseWalk r.payload).outGfa = 0)
    (hin : (wordsOf 4 ((r.payload.drop 64).take (4 * (parseWalk r.payload).seeds))).any (fun n => decide (n ≥ o.count)) = false)
    (hneed : (runWalk s r.hdr o (parseWalk r.payload) (wordsOf 4 ((r.payload.drop 64).take (4 * (parseWalk r.payload).seeds)))).need = [])
    (hst : (runWalk s r.hdr o (parseWalk r.payload) (wordsOf 4 ((r.payload.drop 64).take (4 * (parseWalk r.payload).seeds)))).status.toNat < 0x10) :
    serveWalk s none r =
      (let d := parseWalk r.payload
       let w := runWalk s r.hdr o d (wordsOf 4 ((r.payload.drop 64).take (4 * d.seeds)))
       let v := settleRead s r.hdr { bytes := [], viols := w.viols, status := 0, need := [], bad := w.poisons, pages := w.pages }
       let v := v.updEngine .gather (gatherEngine v r) (fun e => { e with c0 := satAdd 16 e.c0 w.skips, c1 := satAdd 16 e.c1 w.bad })
       let v := dropDeadline (meterWork v r.hdr.comp .gather (workUnits v r .gather (gatherDies v r (some o)))) r
       complete v r v.self (walkStatus d w) (walkRecord d w) false 0) := by
  have hzero : ¬ ((0 : BitVec 8).toNat ≥ 0x10) := by decide
  simp only [serveWalk, hobj, Option.isSome_some, Bool.true_and, hchecks, hinline, if_true, List.isEmpty_nil, Bool.not_true, Bool.false_eq_true, if_false,
    if_neg hzero, hin, hneed, hret, if_neg (Nat.not_le.mpr hst), Nat.zero_add, List.nil_append]

/-- An assembly within its rights joins the scans of its record. -/
theorem serveKvasm_joins (hright : segRights s r.hdr (bits 63 32 r.hdr.etag.toNat) = true)
    (hchecks : gatherChecks s none r 4 (bits 31 16 (wordAt r.payload 0)) (dieOfPort r.port :: seqDies s r.hdr.comp (bits 63 32 r.hdr.etag.toNat))
      (kvasmOk s r.hdr r.payload) = none) :
    serveKvasm s none r = addScan (dropDeadline s r)
      { req := r, seqId := bits 63 32 r.hdr.etag.toNat, layer := bits 31 24 r.hdr.etag.toNat, coordinator := none, mergeId := 0, mergeEp := 0, segIdx := 0,
        last := true, started := false, ended := 0, queries := [], assembly := true, deadline := r.day + bits 31 16 (wordAt r.payload 0) } := by
  simp only [serveKvasm, hright, Bool.not_true, Bool.and_false, Bool.false_or, hchecks, Bool.false_eq_true, if_false]

theorem deadlineComes_gather {id : Nat} {w : GatherWait} (hfind : KMap.find s.eng.gwaits id = some w) (hdue : w.deadline ≤ s.day) :
    deadlineComes s id = gatherEnds (forgetReq s w.req) w.req 0x50 := by
  simp only [deadlineComes, hfind, if_neg (Nat.not_lt.mpr hdue)]

theorem serve_gather (hop : r.hdr.opcode.toNat = 0x50 ∨ r.hdr.opcode.toNat = 0x51 ∨ r.hdr.opcode.toNat = 0x52) :
    serve s none r = serveGather s none r := by
  rcases hop with hop | hop | hop
  · simp only [serve, hop]
    rfl
  · simp only [serve, hop]
    rfl
  · simp only [serve, hop]
    rfl

theorem serve_kvasm (hop : r.hdr.opcode.toNat = 0x53) : serve s none r = serveKvasm s none r := by
  simp only [serve, hop]
  rfl

theorem serve_walk (hop : r.hdr.opcode.toNat = 0x54) : serve s none r = serveWalk s none r := by
  simp only [serve, hop]
  rfl

/-- Settles O48: gathers by the three ends of `runGather`, walks, assemblies and deadlines by their lemmas. -/
theorem gathersRun : Obligations.GathersRun := by
  unfold Obligations.GathersRun
  refine ⟨fun p hp s a u r o hreach hobj hchecks hneed hst => ?_, fun s a u r o hreach hobj hchecks hinline hret hin hneed hst => ?_,
    fun s a u r hreach _ hright hchecks => ?_, fun s id w hfind hdue => ?_⟩
  · have hrow : exec (p.1 a) s = commit s (arriveReq s a p.2) ∧ (p.2 = 0x50 ∨ p.2 = 0x51 ∨ p.2 = 0x52) ∧ p.2 < 256
        ∧ noCompletionOps.contains p.2 = false := by
      simp only [List.mem_cons, List.not_mem_nil, or_false] at hp
      rcases hp with rfl | rfl | rfl <;> exact ⟨rfl, by decide, by decide, by decide⟩
    obtain ⟨hexec, hkind, hlt, hanswers⟩ := hrow
    have hop := reaches_opcode hreach hlt
    rw [hexec, served hreach hlt hanswers (serve_gather (by rw [hop]; exact hkind)), serveGather_runs hobj hchecks hneed hst, ← hop]
    refine ⟨fun hout => by rw [runGather_outside hout], fun hin hofs => ⟨fun hscatter w hready => ?_, fun hother hret hrows hrowst => ?_⟩⟩
    · rw [runGather_scatters hin hofs hscatter hready]
      simp only [hready]
      rfl
    · rw [runGather_answers hin hofs hother hret hrows hrowst]
      rfl
  · refine served hreach (by decide) (by decide) ?_
    rw [serve_walk (reaches_opcode hreach (by decide)), serveWalk_answers hobj hchecks hinline hret hin hneed hst]
  · refine served hreach (by decide) (by decide) ?_
    rw [serve_kvasm (reaches_opcode hreach (by decide)), serveKvasm_joins hright hchecks]
  · rw [exec, execRequestDeadline, deadlineComes_gather hfind hdue, After]

end Sys2Proof.Machine
end

section
/-! SUPPORT. Completions and windows (R128, R142, R148, R150, R153, R161, R191, R440). -/

namespace Sys2Proof.Machine

variable {s u : State} {r : Req}

/-! ## Completions for this module -/

section Own
variable {f : Frame} {o : OwnReq} {key : Nat} (hpois : f.poisoned = false) (hown : findOwn s f = some (key, o))
include hpois hown

theorem ownCompletion_binv {line : Nat} {ep : Ep} (hwhy : o.why = .binv line ep) :
    ownCompletion s f = binvDone (s.setXb { s.xb with own := KMap.del s.xb.own key }) line ep := by
  simp only [ownCompletion, hown, hpois, hwhy, Bool.false_and, Bool.false_eq_true, if_false]

theorem ownCompletion_fetch {id : Nat} {x : Fetch} (hwhy : o.why = .fetch id) (hfind : KMap.find s.home.fetches id = some x) :
    ownCompletion s f = trayAnswer (s.setXb { s.xb with own := KMap.del s.xb.own key }) id x f.hdr.status f.payload := by
  simp only [ownCompletion, hown, hpois, hwhy, Bool.false_and, Bool.false_eq_true, if_false, State.setXb_home, hfind]

theorem ownCompletion_combine {e : Nat} (hwhy : o.why = .combine e) :
    ownCompletion s f = combinedAnswer (s.setXb { s.xb with own := KMap.del s.xb.own key }) e f.hdr.status f.payload := by
  simp only [ownCompletion, hown, hpois, hwhy, Bool.false_and, Bool.false_eq_true, if_false]

end Own

/-- The last answer to a back-invalidate of an owner, or of an eviction, clears the line. -/
theorem binvDone_last {line : Nat} {b : BinvSt} {d : DirEntry} {ep : Ep} (hbinv : KMap.find s.home.binv line = some b) (hlast : b.await = [ep])
    (hdir : KMap.find s.home.dir line = some d) (hend : d.state = .o ∨ b.evict = true) :
    binvDone s line ep = delDir (s.setHome { s.home with binv := KMap.del s.home.binv line }) line := by
  have hleft : b.await.filter (· != ep) = [] := by
    rw [hlast]
    simp
  have hgo : (d.holders.filter (· != ep)).isEmpty = true ∨ b.evict = true ∨ d.state = .o := .inr hend.symm
  simp only [binvDone, hbinv, hleft, hdir, List.isEmpty_nil, true_and, if_pos hgo, if_true]

/-! ## Completions that pass, and windows -/

/-- A completion that leaves at its source's port ends the request and its lease there. -/
theorem endOut_local {f : Frame} {e : Nat} (hlocal : localPort s f.hdr.dest = some e) :
    endOut s f = (markComplete s f).setXb { (markComplete s f).xb with
      leases := KMap.keep (markComplete s f).xb.leases (fun _ l => !(l.req.hdr.src == f.hdr.dest && l.req.hdr.seq == f.hdr.seq && l.req.hdr.addr == f.hdr.addr)) } := by
  rw [endOut, hlocal]
  rfl

/-- A completion for another module goes on. -/
theorem arrive_passes {a : Arrival} {b : PortBind} {p : Nat} (hbind : s.bind a.port.toNat = some b) (hfabric : b.fabric = true)
    (hlive : portLive s a.port.toNat = true) (here : State → Req → State) (hr : r = portReq s b a.port.toNat none (asCompletion a.frame))
    (hdest : r.hdr.dest ≠ s.self)
    (hnext : nextPort (endOut (frameHeard s a.port.toNat r.hdr) (reqFrame r)) r.hdr.src r.hdr.dest r.hdr.cls = some p) :
    arrive s a.port.toNat none (asCompletion a.frame) here = forwardReq (endOut (frameHeard s a.port.toNat r.hdr) (reqFrame r)) r p := by
  have hresp : r.hdr.isResp = true := by
    rw [hr]
    simp [portReq, hfabric, newReq, asCompletion, Header.isResp, flagResp]
  have hself : (frameHeard s a.port.toNat r.hdr).self = s.self := by
    simp only [frameHeard]
    split <;> rfl
  have hother : ¬ r.hdr.dest = (frameHeard s a.port.toNat r.hdr).self := by
    rw [hself]
    exact hdest
  simp only [arrive, hbind, hlive, if_true, ← hr, sortFrame, hresp, passCompletion, if_neg hother, hnext]

section Window
variable {id : Nat} {c : Combine} (hfind : KMap.find s.xb.combine id = some c) (hopen : c.isOpen = true) (hdue : c.opened + (s.port c.egress).w ≤ s.now)
include hfind hopen hdue

theorem windowEnds_read (hread : c.isRead = true) :
    windowEnds s id = s.setXb { s.xb with combine := KMap.put s.xb.combine id { c with isOpen := false } } := by
  simp only [windowEnds, hfind, hopen, decide_eq_false (Nat.not_lt.mpr hdue), hread, Bool.not_true, Bool.or_self, Bool.false_eq_true, if_false, if_true]

theorem windowEnds_fadd (hread : c.isRead = false) : windowEnds s id = closeFadd s id c := by
  simp only [windowEnds, hfind, hopen, decide_eq_false (Nat.not_lt.mpr hdue), hread, Bool.not_true, Bool.or_self, Bool.false_eq_true, if_false]

end Window

/-- Settles O49: what each completion ends, what passes, and the window, each by its lemma. -/
theorem completionsEndWaits : Obligations.CompletionsEndWaits := by
  unfold Obligations.CompletionsEndWaits
  refine ⟨fun s a u f o key hret hpois hown => ⟨fun line ep hwhy => ?_, fun id x hwhy hfind => ?_, fun e hwhy => ?_⟩,
    fun s line b d ep hbinv hlast hdir hend => ?_, fun s a b p e hbind hfabric hlive hdest hlocal hnext => ⟨endOut_local hlocal, ?_⟩,
    fun s id c hfind hopen hdue => ⟨fun hread => ?_, fun hread => ?_⟩⟩
  · rw [exec, execBinvCompletion, returned hret, ownCompletion_binv hpois hown hwhy]
  · rw [exec, execTrayCompletion, returned hret, ownCompletion_fetch hpois hown hwhy hfind]
  · rw [exec, execCombinedReply, returned hret, ownCompletion_combine hpois hown hwhy]
  · rw [binvDone_last hbinv hlast hdir hend]
    exact ⟨(KMap.find_del _ _ _).trans (if_pos rfl), (KMap.find_del _ _ _).trans (if_pos rfl)⟩
  · rw [exec, execCompletionReturn, arriveResp, arrive_passes hbind hfabric hlive _ rfl hdest hnext, After]
  · rw [exec, execCombineWindowClose, windowEnds_read hfind hopen hdue hread, After]
  · rw [exec, execCombineWindowClose, windowEnds_fadd hfind hopen hdue hread, After]

end Sys2Proof.Machine
end

section
/-! SUPPORT. The timers of the Chronicle (R350, R354, R355, R361). -/

namespace Sys2Proof.Machine
variable {s : State}

theorem leads_of_role (hrole : s.ch.role = 3) : leads s = true := by
  rw [leads, hrole]
  rfl

theorem leaderNop_due (hrun : s.running = true) (hrole : s.ch.role = 3) (hdue : s.ch.lastSent + 64 ≤ s.day) :
    execLeaderNop s = AfterEntry s (append s 0 .nop 0 none) := by
  have hgo : (s.running && leads s && decide (s.day ≥ s.ch.lastSent + 64)) = true := by
    rw [hrun, leads_of_role hrole, decide_eq_true hdue]
    rfl
  rw [execLeaderNop, if_pos hgo, AfterEntry]

theorem electionTimeout_due (hrun : s.running = true) (hrole : s.ch.role = 1) (hdue : s.ch.lastHeard + 256 + 64 * s.ch.rank ≤ s.day) :
    execElectionTimeout s = AfterEntry s (becomeCandidate s) := by
  have hgo : (s.running && s.ch.role == 1 && decide (s.day ≥ s.ch.lastHeard + 256 + 64 * s.ch.rank)) = true := by
    rw [hrun, hrole, decide_eq_true hdue]
    rfl
  rw [execElectionTimeout, if_pos hgo, AfterEntry]

theorem candidateTimeout_due (hrun : s.running = true) (hrole : s.ch.role = 2) (hdue : s.ch.candSince + 128 ≤ s.day) :
    execCandidateTimeout s = AfterEntry s (s.setCh { s.ch with role := 1, lastHeard := s.day, votes := [] }) := by
  have hgo : (s.running && s.ch.role == 2 && decide (s.day ≥ s.ch.candSince + 128)) = true := by
    rw [hrun, hrole, decide_eq_true hdue]
    rfl
  rw [execCandidateTimeout, if_pos hgo, AfterEntry]

/-- An entry whose one silent module was last asked 16 Days ago goes to it again. -/
theorem resendEntry_due {m : Ep} {i d : Nat} {e : Entry} (hlog : KMap.find s.ch.log i = some e)
    (hsilent : KMap.find s.ch.unacked i = some [(m, d)]) (hdue : d + 16 ≤ s.day) :
    resendEntry s m i = sendEntry (s.setCh { s.ch with unacked := KMap.put s.ch.unacked i [(m, s.day)] }) m e false := by
  have hwaits : ([(m, d)] : List (Ep × Nat)).any (fun p => p.1 == m && decide (s.day ≥ p.2 + 16)) = true := by
    simp [hdue]
  simp only [resendEntry, hlog, KMap.getD, hsilent, Option.getD_some, hwaits, if_true, List.map_cons, List.map_nil]

theorem settleTimeout_due {i : Nat} {x : Settle} (hfind : KMap.find s.ch.settle i = some x) (hdue : x.day + 64 ≤ s.day) :
    settleTimeout s i = settleEntry s i x := by
  simp only [settleTimeout, hfind, ge_iff_le, if_pos hdue]

theorem graceEnds_due {c : BitVec 12} {d : Nat} (hend : (s.comp c).graceEnd = some d) (hdue : d ≤ s.day) :
    graceEnds s c = s.updComp c (fun x => { x with graceEnd := none, old := [] }) := by
  simp only [graceEnds, hend, ge_iff_le, if_pos hdue]

/-- What only a running leader does, it does. -/
theorem leading_after {α : Type} (f : State → α → State) (x : α) {t : State} (hrun : s.running = true) (hrole : s.ch.role = 3) (hf : f s x = t) :
    commit s (if s.running && leads s then finish (f s x) else s) = AfterEntry s t := by
  have hgo : (s.running && leads s) = true := by
    rw [hrun, leads_of_role hrole]
    rfl
  rw [if_pos hgo, hf, AfterEntry]

/-- Settles O51: each timer that is due does its one action. -/
theorem chronicleTimersAct : Obligations.ChronicleTimersAct := by
  unfold Obligations.ChronicleTimersAct
  refine ⟨fun s hrun hrole hdue => ?_, fun s hrun hrole hdue => ?_, fun s hrun hrole hdue => ?_,
    fun s m i e d hrun hrole hlog hsilent hdue => ?_, fun s i x hrun hrole hfind hdue => ?_, fun s c d hend hdue => ?_⟩
  · rw [exec, leaderNop_due hrun hrole hdue]
  · rw [exec, electionTimeout_due hrun hrole hdue]
  · rw [exec, candidateTimeout_due hrun hrole hdue]
  · rw [exec, execEntryResend, leading_after (fun s i => resendEntry s m i) i.toNat hrun hrole (resendEntry_due hlog hsilent hdue)]
  · rw [exec, execSettleQueryTimeout, leading_after settleTimeout i.toNat hrun hrole (settleTimeout_due hfind hdue)]
  · rw [exec, execGraceEnd, graceEnds_due hend hdue]

end Sys2Proof.Machine
end

section
/-! SUPPORT. Votes and entries of the Chronicle (R351, R353 to R356). -/

namespace Sys2Proof.Machine
variable {s u : State} {r : Req}

/-! ## Votes -/

theorem adoptTerm_term {t : Nat} (h : t > s.ch.term) : (adoptTerm s t).ch.term = t := by
  rw [adoptTerm, if_pos h]
  rfl

theorem adoptTerm_votedTerm (s : State) (t : Nat) : (adoptTerm s t).ch.votedTerm = s.ch.votedTerm := by
  rw [adoptTerm]
  split <;> rfl

theorem adoptTerm_alm (s : State) (t : Nat) : (adoptTerm s t).alm = s.alm := by
  rw [adoptTerm]
  split <;> rfl

theorem adoptTerm_role_ne_zero {t : Nat} (h : s.ch.role ≠ 0) : (adoptTerm s t).ch.role ≠ 0 := by
  rw [adoptTerm]
  split
  · simp
  · exact h

/-- The log of the candidate whose request this is reaches as far as this module's own (R351). -/
def upToDate (s : State) (r : Req) : Bool :=
  decide (wordAt r.payload 4 > lastTerm s ∨ (wordAt r.payload 4 = lastTerm s ∧ wordAt r.payload 5 ≥ lastIndex s))

section Vote
variable {t : Nat} (hterm : bits 63 32 (wordAt r.payload 1) = t)
include hterm

theorem voteRequest_grants (hnew : t > s.ch.term) (hrole : s.ch.role ≠ 0) (hmember : s.alm.cur.members.contains r.hdr.src = true)
    (hfree : s.ch.votedTerm < t) (hlog : upToDate (adoptTerm s t) r = true) :
    voteRequest s r =
      (let v := adoptTerm s t
       let w := v.setCh { v.ch with votedTerm := v.ch.term, lastHeard := v.day }
       complete w r w.self 0 (voteBytes w true) false 0) := by
  have hok : ((adoptTerm s t).ch.role != 0 && (adoptTerm s t).alm.cur.members.contains r.hdr.src
      && decide (t = (adoptTerm s t).ch.term ∧ (adoptTerm s t).ch.votedTerm < t)
      && upToDate (adoptTerm s t) r) = true := by
    rw [adoptTerm_term hnew, adoptTerm_votedTerm, adoptTerm_alm, hmember, hlog, decide_eq_true ⟨rfl, hfree⟩,
      bne_iff_ne.mpr (adoptTerm_role_ne_zero hrole)]
    rfl
  simp only [upToDate] at hok
  simp only [voteRequest, hterm, hok, if_true]
  rw [adoptTerm_term hnew]

theorem voteRequest_refuses (hlog : upToDate (adoptTerm s t) r = false) :
    voteRequest s r = complete (adoptTerm s t) r (adoptTerm s t).self 0 (voteBytes (adoptTerm s t) false) false 0 := by
  rw [upToDate] at hlog
  simp only [voteRequest, hterm, hlog, Bool.and_false, Bool.false_eq_true, if_false]

end Vote

/-- A vote that comes back without an error waits to be counted. -/
theorem ownCompletion_vote {f : Frame} {key i : Nat} {o : OwnReq} {query : Bool} (hpois : f.poisoned = false) (hown : findOwn s f = some (key, o))
    (hwhy : o.why = .vote i query) (hok : f.hdr.status.toNat < 0x10) :
    ownCompletion s f =
      (let t := s.setXb { s.xb with own := KMap.del s.xb.own key }
       let v : VoteIn := { src := f.hdr.src, term := bits 63 32 (wordAt f.payload 0), granted := bit 31 (wordAt f.payload 0),
                           last := wordAt f.payload 1, about := i, query := query }
       t.setCh { t.ch with inbox := t.ch.inbox ++ [v] }) := by
  simp only [ownCompletion, hown, hpois, hwhy, Bool.false_and, Bool.false_eq_true, if_false, ge_iff_le, decide_eq_false (Nat.not_le.mpr hok),
    Bool.not_false, Bool.true_and]

/-! ## Entries -/

section Entry
variable {e : Entry} {c : Nat} (hentry : bits 31 24 (wordAt r.payload 1) ≠ 1) (hparse : parseEntry r.payload = some (e, c))
include hentry hparse

theorem entryArrives_query (haddr : r.hdr.addr = 1) :
    entryArrives s r = complete s r s.self 0 (voteBytes s (holdsEntry s e.index)) false 0 := by
  simp only [entryArrives, if_neg hentry, hparse, if_pos haddr]

/-- What a module knows of the Chronicle once it has heard the entry of a leader (R351, R353). -/
def heardEntry (s : State) (leader : Ep) (e : Entry) (c : Nat) : State :=
  let v := adoptTerm s e.term
  let v := v.setCh { v.ch with leader := leader, lastHeard := v.day, role := if v.ch.role = 2 then 1 else v.ch.role }
  if v.ch.role = 0 then v else v.setCh { v.ch with log := KMap.put v.ch.log e.index e, commit := max v.ch.commit c }

/-- What a heard entry does: a committed one that concerns this module and is new is held for its Day, or fences the module. -/
def actOnEntry (s : State) (e : Entry) (c : Nat) : State :=
  let free := match e.body with | .nop => true | .void .. => true | .almRollback .. => true | _ => false
  if e.index > c ∨ holdsEntry s e.index = true ∨ (involved s e.comp e.body).contains s.self = false then s
  else if e.day ≤ s.day ∧ free = false then selfFence s
  else holdEntry s e

theorem entryArrives_heard {w : State} (haddr : r.hdr.addr ≠ 1) (hterm : s.ch.term ≤ e.term) (hact : actOnEntry (heardEntry s r.hdr.src e c) e c = w) :
    entryArrives s r = complete w r w.self 0 (voteBytes w true) false 0 := by
  subst hact
  have hfresh : ¬ (e.term < s.ch.term ∧ r.hdr.src ≠ s.ch.leader) := fun h => Nat.not_lt.mpr hterm h.1
  simp only [entryArrives, if_neg hentry, hparse, if_neg haddr, if_neg hfresh]
  rfl

end Entry

section Act
variable {e : Entry} {c : Nat}

theorem actOnEntry_none (h : c < e.index ∨ holdsEntry s e.index = true ∨ (involved s e.comp e.body).contains s.self = false) : actOnEntry s e c = s := by
  simp only [actOnEntry, gt_iff_lt, if_pos h]

variable (hcommitted : e.index ≤ c) (hnew : holdsEntry s e.index = false) (hhere : (involved s e.comp e.body).contains s.self = true)
include hcommitted hnew hhere

theorem acts : ¬ (e.index > c ∨ holdsEntry s e.index = true ∨ (involved s e.comp e.body).contains s.self = false) := by
  rw [hnew, hhere]
  simpa using hcommitted

theorem actOnEntry_holds (hday : s.day < e.day) : actOnEntry s e c = holdEntry s e := by
  have hahead : ∀ free : Bool, ¬ (e.day ≤ s.day ∧ free = false) := fun _ h => Nat.not_le.mpr hday h.1
  simp only [actOnEntry, if_neg (acts hcommitted hnew hhere), if_neg (hahead _)]

theorem actOnEntry_fences (hday : e.day ≤ s.day) {b : ExtBody} (hbody : e.body = .grant b) : actOnEntry s e c = selfFence s := by
  simp only [actOnEntry, if_neg (acts hcommitted hnew hhere)]
  simp only [hbody, hday, and_self, if_true]

end Act

/-- A module that has not fenced itself takes an entry as it comes. -/
theorem chEntry_after {a : Arrival} (hfree : s.rst.selfFenced = false) (hreach : Reaches s a 0x80 u r) {t : State} (ht : entryArrives u r = t) :
    execChEntry a s = AfterEntry s t := by
  have hnote : noteAdmission s a = s := by
    simp only [noteAdmission, hfree, Bool.false_and, Bool.false_eq_true, if_false]
  rw [execChEntry, hnote, arrive_reaches hreach (by decide) (by decide), ht, AfterEntry]

theorem voteReq_after {a : Arrival} (hreach : Reaches s a 0x80 u r) {t : State} (ht : voteRequest u r = t) : execVoteReq a s = AfterEntry s t := by
  rw [execVoteReq, arrive_reaches hreach (by decide) (by decide), ht, AfterEntry]

/-- Settles O52: a vote request is granted or refused, an entry heard and acted on, and a vote that comes back kept for the count. -/
theorem chronicleFramesAreTaken : Obligations.ChronicleFramesAreTaken := by
  unfold Obligations.ChronicleFramesAreTaken
  refine ⟨fun s a u r hreach hnew => ⟨adoptTerm_term hnew, fun hrole hmember hfree hlog => ?_, fun hlog => ?_⟩,
    fun s a u r e c hfree hreach hentry hparse => ⟨fun haddr => ?_, fun haddr hterm => ?_⟩, fun s a u f o key i q hret hpois hown hwhy hok => ?_⟩
  · exact voteReq_after hreach (voteRequest_grants rfl hnew hrole hmember hfree (decide_eq_true hlog))
  · exact voteReq_after hreach (voteRequest_refuses rfl (decide_eq_false hlog))
  · exact chEntry_after hfree hreach (entryArrives_query hentry hparse haddr)
  · have hheard {w : State} (hact : actOnEntry (heardEntry u r.hdr.src e c) e c = w) := chEntry_after hfree hreach (entryArrives_heard hentry hparse haddr hterm hact)
    refine ⟨fun hnone => ?_, fun hcom hnew hhere hday => ?_, fun hcom hnew hhere hday ⟨b, hbody⟩ => ?_⟩
    · exact hheard (actOnEntry_none hnone)
    · exact hheard (actOnEntry_holds hcom hnew hhere hday)
    · exact hheard (actOnEntry_fences hcom hnew hhere hday hbody)
  · rw [exec, execChVote, arrive_returns hret, ownCompletion_vote hpois hown hwhy hok, AfterEntry]

end Sys2Proof.Machine
end

section
/-! SUPPORT. Heartbeats, verdicts, reports, fence orders and lend notices (R32, R206, R207, R414, R417 to R426). -/

namespace Sys2Proof.Machine
variable {s u : State} {r : Req}

/-! ## Frames without completion -/

/-- The port and the kind of port that a frame came in by. -/
theorem lands_port {p : Nat} {f : Frame} {b : PortBind} (h : Lands s p f u r) (hbind : s.bind p = some b) : r.port = p ∧ r.edge = !b.fabric := by
  obtain ⟨b', hb, -, rfl, -⟩ := h
  obtain rfl : b' = b := Option.some.inj (hb.symm.trans hbind)
  exact ⟨rfl, rfl⟩

theorem lands_bound {p : Nat} {f : Frame} (h : Lands s p f u r) : r.port = p := by
  obtain ⟨b, -, -, rfl, -⟩ := h
  rfl

theorem toHere_opcode (s : State) (f : Frame) (op : Nat) (hop : op < 256) : (toHere s f op).hdr.opcode.toNat = op :=
  asRequest_opcode op f hop

theorem toHere_isResp (s : State) (f : Frame) (op : Nat) : (toHere s f op).hdr.isResp = false :=
  asRequest_isResp op f

/-! ## Heartbeats and verdicts -/

theorem takeHeartbeat_bound {b : PortBind} (hbind : s.bind r.port = some b) :
    takeHeartbeat s r =
      (let w := wordAt r.payload 0
       let t := s.updPort r.port (fun p => { p with health := { p.health with hbSeen := true, hbEcc := bits 63 56 w, hbTemp := bits 55 48 w } })
       t.setHealth { t.health with linkDownSeen := t.health.linkDownSeen.filter (fun p => p.1 != b.ep.toNat) }) := by
  have hkept (f : PortSt → PortSt) : (s.updPort r.port f).bind r.port = some b := hbind
  simp only [takeHeartbeat, hkept]

/-- A port whose soft score is still low after 64 Days repeats its verdict. -/
theorem softDue_again {score d : Nat} (hlow : score < s.alm.cur.policy.scoreSoft) (hdue : d + 64 ≤ s.day) : softDue s score (some d) = true := by
  simp [softDue, hlow, hdue]

section Repeat
variable {p : PortNo} {b : PortBind} {d : Nat} (hrun : s.running = true) (hbind : s.bind p.toNat = some b) (hup : (s.port p.toNat).up = true)
  (hdue : d + 64 ≤ s.day)
include hrun hbind hup hdue

theorem softVerdictRepeat_peer (hlow : (s.port p.toNat).health.peerScore < s.alm.cur.policy.scoreSoft)
    (hday : (s.port p.toNat).health.softPeerDay = some d) : execSoftVerdictRepeat p true s = commit s (softVerdicts s p.toNat b) := by
  simp only [execSoftVerdictRepeat, hbind, hup, hrun, decide_eq_true hlow, hday, softDue_again hlow hdue, Option.isSome_some, Bool.and_self, if_true]

theorem softVerdictRepeat_link (hlow : (s.port p.toNat).health.linkScore < s.alm.cur.policy.scoreSoft)
    (hday : (s.port p.toNat).health.softLinkDay = some d) : execSoftVerdictRepeat p false s = commit s (softVerdicts s p.toNat b) := by
  simp only [execSoftVerdictRepeat, hbind, hup, hrun, decide_eq_true hlow, hday, softDue_again hlow hdue, Option.isSome_some, Bool.and_self, if_true,
    Bool.false_eq_true, if_false]

end Repeat

/-- The verdict of a home switch on a subject that is silent (R418). -/
def silentReport (s : State) (e : Ep) (b : PortBind) : Report :=
  { subject := e, port := 0, kind := .ofNat 3 (partnerKind s b), cls := 1, score := 0xFF, witnesses := 1, first := s.self, day := s.day }

theorem hbLost_sends {e : Ep} {n : Nat} {b : PortBind} (hport : s.alm.cur.ports.find? (fun p => p.2.ep == e) = some (n, b))
    (hhome : homeSwitch s (silentReport s e b) = s.self) (hin : isFenced s e = false)
    (hsilent : s.alm.cur.policy.hbDead ≤ KMap.getD s.health.hbTable e.toNat 0) (hgone : linksGone s e = true)
    (hfirst : KMap.find s.health.resend (resendKey (silentReport s e b)) = none) : hbLost s e = sendMerged s (silentReport s e b) := by
  have hgo : ¬ (homeSwitch s (silentReport s e b) ≠ s.self ∨ isFenced s e = true ∨ KMap.getD s.health.hbTable e.toNat 0 < s.alm.cur.policy.hbDead
      ∨ linksGone s e = false ∨ (KMap.find s.health.resend (resendKey (silentReport s e b))).isSome = true) := by
    simp [hhome, hin, hsilent, hgone, hfirst]
  simp only [silentReport] at hgo
  simp only [hbLost, hport, if_neg hgo, silentReport]

theorem resendVerdicts_due {e : Ep} {k d : Nat} {x : Report} (hlist : s.health.resend = [(k, (x, d))]) (hsubject : x.subject = e) (hdue : d + 64 ≤ s.day) :
    resendVerdicts s e = toDetector (s.setHealth { s.health with resend := KMap.put s.health.resend k (x, s.day) }) x := by
  have hgo : x.subject = e ∧ s.day ≥ d + 64 := ⟨hsubject, hdue⟩
  rw [resendVerdicts, hlist, List.foldl_cons, List.foldl_nil]
  simp only [if_pos hgo, hlist]

/-! ## Reports -/

theorem rootTells_other (x : Report) (hroot : s.time.root = false) : rootTells s x = s := by
  simp only [rootTells, hroot, Bool.false_and, Bool.false_eq_true, if_false]

theorem rootTells_absent {x : Report} (hroot : s.time.root = true) (hkind : x.kind = 1) (hcls : x.cls = 8) :
    rootTells s x = note s 0 (reportWords x) := by
  simp only [rootTells, hroot, hkind, hcls, beq_self_eq_true, Bool.and_self, if_true]

@[simp] theorem note_ch (s : State) (stream : Nat) (body : List W64) : (note s stream body).ch = s.ch :=
  foldl_keeps State.ch (by intros; split <;> rfl) _ _

theorem rootTells_ch (s : State) (x : Report) : (rootTells s x).ch = s.ch := by
  rw [rootTells]
  split
  · exact note_ch s 0 (reportWords x)
  · rfl

theorem takeReport_verdict (hfirst : (parseReport r.payload).first ≠ 0) (hleads : leads s = true) :
    takeReport s r = takeVerdict (rootTells s (parseReport r.payload)) (parseReport r.payload) := by
  have hstill : leads (rootTells s (parseReport r.payload)) = true := by
    rw [leads, rootTells_ch]
    exact hleads
  simp only [takeReport, if_pos hfirst, hstill, if_true]

theorem takeReport_witness (hfirst : (parseReport r.payload).first = 0) (hcls : (parseReport r.payload).cls ≠ 2) :
    takeReport s r = mergeReport (rootTells s (parseReport r.payload)) { parseReport r.payload with first := r.hdr.src, witnesses := 1 } := by
  simp only [takeReport, hfirst, ne_eq, not_true_eq_false, if_false, hcls, false_and]

/-! ## Fence orders -/

/-- The composition that a fence order is for: the request's own between modules, the port's at the edge. -/
def orderComp (b : PortBind) (r : Req) : Option (BitVec 12) := if b.fabric then some r.hdr.comp else b.comp

theorem takeFenceOrder_detector {b : PortBind} {c : BitVec 12} (hbind : s.bind r.port = some b) (hcomp : orderComp b r = some c) (hleads : leads s = true)
    (hsame : r.edge = true → ∃ x, s.compEntry c = some x ∧ x.edges.contains (.ofNat 16 (bits 63 48 (wordAt r.payload 0))) = true) :
    takeFenceOrder s r =
      (let f : FenceBody := { fenceOf (.ofNat 16 (bits 63 48 (wordAt r.payload 0))) 0 1 (bits 47 43 (wordAt r.payload 0)) 1 s.day with comp := c, witnesses := 1 }
       s.setHealth { s.health with orders := addOnce s.health.orders f }) := by
  rw [orderComp] at hcomp
  simp only [takeFenceOrder, hbind, hcomp]
  cases hedge : r.edge with
  | false => simp only [Bool.false_eq_true, false_and, if_false, hleads, if_true]
  | true =>
    obtain ⟨x, hx, hin⟩ := hsame hedge
    simp only [hx, hin, Bool.true_eq_false, and_false, if_false, hleads, if_true]

/-! ## Lend notices -/

section Notice
variable {l : Lend} (hfind : KMap.find s.home.lends (bits 63 56 (wordAt r.payload 0)) = some l) (hask : bit 55 (wordAt r.payload 0) = false)
  (hlender : l.lender = r.hdr.src)
include hfind hask hlender

theorem takeNotice_ended (hended : l.ended = true) : takeNotice s r = sendRelease s (bits 63 56 (wordAt r.payload 0)) l.lender := by
  simp only [takeNotice, hfind, hask, hlender, hended, Bool.false_eq_true, ne_eq, not_true_eq_false, or_self, if_false, if_true]

theorem takeNotice_first (hopen : l.ended = false) (hfirst : l.notice = none) :
    takeNotice s r =
      withdrawLend (s.setHome { s.home with lends := KMap.put s.home.lends (bits 63 56 (wordAt r.payload 0)) { l with notice := some s.day } })
        (bits 63 56 (wordAt r.payload 0)) := by
  simp only [takeNotice, hfind, hask, hlender, hopen, hfirst, Bool.false_eq_true, ne_eq, not_true_eq_false, or_self, if_false, Option.isSome_none]

end Notice

theorem faultReport_after {a : Arrival} {t : State} (hland : Lands s a.port.toNat (asRequest 0x82 a.frame) u r) (ht : takeReport u r = t) :
    execFaultReport a s = AfterEntry s t := by
  rw [execFaultReport, arrive_lands hland (asRequest_opcode 0x82 a.frame (by decide)) (asRequest_isResp 0x82 a.frame) (by decide), ht, AfterEntry]

theorem lendNotice_after {a : Arrival} {t : State} (hland : Lands s a.port.toNat (asRequest 0x84 a.frame) u r) (ht : takeNotice u r = t) :
    execLendNotice a s = After s t := by
  rw [execLendNotice, arrive_lands hland (asRequest_opcode 0x84 a.frame (by decide)) (asRequest_isResp 0x84 a.frame) (by decide), ht, After]

/-- Settles O53: each frame is taken, and each verdict sent, as its lemma says. -/
theorem healthFramesAndVerdicts : Obligations.HealthFramesAndVerdicts := by
  unfold Obligations.HealthFramesAndVerdicts
  refine ⟨fun s a u r b hland hbind => ?_, fun s p peer b d hrun hbind hup => ⟨fun hpeer hlow hday hdue => ?_, fun hpeer hlow hday hdue => ?_⟩,
    fun s e b hrun hport hhome hin hsilent hgone hfirst => ?_, fun s e k d x hrun hlist hsubject hdue => ?_,
    fun s a u r hland => ⟨fun hfirst hleads => ?_, fun hfirst hcls => ?_, rootTells_other _, rootTells_absent⟩,
    fun s a u r b c hbind hkept hleads hland => ?_, fun s a u r l hland hfind hask hlender => ⟨fun hended => ?_, fun hopen hfirst => ?_⟩⟩
  · have hport := lands_bound hland
    have htaken := takeHeartbeat_bound (r := r) (s := u) (b := b) (by rw [hport]; exact hbind)
    rw [hport] at htaken
    rw [exec, execHeartbeat, arrive_lands hland (toHere_opcode s a.frame 0x81 (by decide)) (toHere_isResp s a.frame 0x81) (by decide), htaken, After]
  · rw [hpeer, exec, softVerdictRepeat_peer hrun hbind hup hdue hlow hday]
  · rw [hpeer, exec, softVerdictRepeat_link hrun hbind hup hdue hlow hday]
  · rw [exec, execHbLost, if_pos hrun, hbLost_sends hport hhome hin hsilent hgone hfirst, AfterEntry, silentReport]
  · rw [exec, execVerdictResend, if_pos hrun, resendVerdicts_due hlist hsubject hdue, AfterEntry]
  · exact faultReport_after hland (takeReport_verdict hfirst hleads)
  · exact faultReport_after hland (takeReport_witness hfirst hcls)
  · rcases hland with ⟨hfabric, hcomp, hland⟩ | ⟨hedge, hcomp, hdevice, hland⟩
    · obtain ⟨hport, hinner⟩ := lands_port hland hbind
      have htaken := takeFenceOrder_detector (s := u) (r := r) (b := b) (c := c) (by rw [hport]; exact hkept) (by rw [orderComp, if_pos hfabric, hcomp])
        hleads (by rw [hinner, hfabric]; exact fun h => absurd h (by decide))
      simp only [exec, execFenceDevice, hbind, hfabric, Bool.not_true, Bool.false_eq_true, if_false]
      rw [arrive_lands hland (asRequest_opcode 0x85 a.frame (by decide)) (asRequest_isResp 0x85 a.frame) (by decide), htaken, AfterEntry]
    · have hport := lands_bound hland
      have htaken := takeFenceOrder_detector (s := u) (r := r) (b := b) (c := c) (by rw [hport]; exact hkept)
        (by rw [orderComp, hedge]; exact hcomp) hleads (fun _ => hdevice)
      simp only [exec, execFenceDevice, hbind, hedge, Bool.not_false, if_true]
      rw [arrive_lands hland (toHere_opcode s a.frame 0x85 (by decide)) (toHere_isResp s a.frame 0x85) (by decide), htaken, AfterEntry]
  · exact lendNotice_after hland (takeNotice_ended hfind hask hlender hended)
  · exact lendNotice_after hland (takeNotice_first hfind hask hlender hopen hfirst)

end Sys2Proof.Machine
end

section
/-! SUPPORT. Coded groups: members held for the decode cycle, delivered and rebuilt (R46, R51 to R55). -/

namespace Sys2Proof.Machine
variable {s : State}

/-- A member on its path and in its cycle is held, or noted as lost where its tail is poisoned. -/
theorem memberArrives_inTime {flow group member port cycle e : Nat} {x : Flow} (f : Frame) (mir : Option Nat) (hflow : decodedFlow s flow = some x)
    (hmember : (x.groupMembers group)[member]? = some (port, e)) (hlate : cycle ≤ e + 4) (hearly : e ≤ cycle + 4) :
    memberArrives s flow group member port cycle f mir =
      (let g := KMap.getD s.xb.ec (groupKey flow group) { members := [], day := s.day }
       s.setXb { s.xb with
         ec := KMap.put s.xb.ec (groupKey flow group) { g with members := KMap.put g.members member (if f.poisoned then none else some f) } }) := by
  have hkept : (if (true && !f.poisoned) = true then some f else none) = if f.poisoned = true then none else some f := by
    cases f.poisoned <;> rfl
  simp only [memberArrives, hflow, Option.bind_some, hmember, hlate, hearly, and_self, decide_true, if_true, hkept]

/-! ## Two data members delivered as one (R53, R54) -/

section Pair
variable {ports : List (Nat × Nat)} {f second : Frame}

theorem eachMember_pair (act : State → Nat → Frame → State) :
    eachMember s ports [some f, some second] act = act (act s (ports.getD 0 (0, 0)).1 f) (ports.getD 1 (0, 0)).1 second := rfl

theorem deliverGroup_allowed (hfirst : memberViolation s f = none) (hsecond : memberViolation s second = none) :
    deliverGroup s ports [some f, some second] = deliverMember (deliverMember s (ports.getD 0 (0, 0)).1 f) (ports.getD 1 (0, 0)).1 second := by
  simp only [deliverGroup, List.any_cons, List.any_nil, hfirst, hsecond, Option.isSome_none, Bool.or_self, Bool.false_eq_true, if_false, eachMember_pair]

theorem deliverGroup_violation {k : Nat} (hfirst : memberViolation s f = none) (hsecond : memberViolation s second = some k) :
    deliverGroup s ports [some f, some second] =
      (let r := memberReq s (ports.getD 0 (0, 0)).1 f
       let w := complete s r s.self 0 (violPayload f.hdr) false (violTime r)
       violation w (memberReq w (ports.getD 1 (0, 0)).1 second) w.self k) := by
  simp only [deliverGroup, List.any_cons, List.any_nil, hfirst, hsecond, Option.isSome_none, Option.isSome_some, Bool.or_false, Bool.or_true,
    if_true, eachMember_pair]

end Pair

/-! ## The decode cycle (R51, R52) -/

/-- A state with a group taken out of the decoder. -/
def groupTaken (s : State) (flow group : Nat) : State := s.setXb { s.xb with ec := KMap.del s.xb.ec (groupKey flow group) }

/-- A member that was lost and rebuilt is counted (R52). -/
def countRebuilt (s : State) : State := s.setXb { s.xb with ecRebuilt := satAdd 64 s.xb.ecRebuilt 1 }

section Decode
variable {flow group : Nat} {x : Flow} {f g : Frame} {e : CompEntry} {day : Nat} (hflow : decodedFlow s flow = some x)
  (hports : x.groupMembers group ≠ []) (hcycle : x.decodeAt group ≤ s.time.cycle) (hk : x.ecK = 2)
  (hcomp : (groupTaken s flow group).compEntry x.comp = some e) (hcheck : groupCheck (groupTaken s flow group) f.hdr = none)
  (hf : f.hdr.comp = x.comp ∧ f.hdr.tenant = e.tenant) (hg : g.hdr.comp = x.comp ∧ g.hdr.tenant = e.tenant)
include hflow hports hcycle hk hcomp hcheck hf hg

theorem decodeGroup_whole {f' : Frame} (hf' : f'.hdr.comp = x.comp ∧ f'.hdr.tenant = e.tenant)
    (hheld : KMap.find s.xb.ec (groupKey flow group) = some { members := [(0, some f), (1, some f'), (2, some g)], day := day }) :
    decodeGroup s flow group = deliverGroup (groupTaken s flow group) (x.groupMembers group) [some f, some f'] := by
  have hgo : ((x.groupMembers group).isEmpty || decide (s.time.cycle < x.decodeAt group)) = false := by simp [hports, hcycle]
  have hall : List.range (2 + 1) = [0, 1, 2] := rfl
  have hdata : List.range 2 = [0, 1] := rfl
  simp only [groupTaken] at hcomp hcheck ⊢
  simp only [decodeGroup, hflow, hgo, Bool.false_eq_true, if_false, hk, KMap.getD, hheld, Option.getD_some, hall, hdata, hcomp]
  simp [KMap.find, hf, hf', hg, hcheck]

theorem decodeGroup_rebuilds (hheld : KMap.find s.xb.ec (groupKey flow group) = some { members := [(0, some f), (2, some g)], day := day }) :
    decodeGroup s flow group =
      deliverGroup (countRebuilt (groupTaken s flow group)) (x.groupMembers group) [some f, some (rebuild g [f] x.comp e.tenant)] := by
  have hgo : ((x.groupMembers group).isEmpty || decide (s.time.cycle < x.decodeAt group)) = false := by simp [hports, hcycle]
  have hall : List.range (2 + 1) = [0, 1, 2] := rfl
  have hdata : List.range 2 = [0, 1] := rfl
  simp only [groupTaken, countRebuilt] at hcomp hcheck ⊢
  simp only [decodeGroup, hflow, hgo, Bool.false_eq_true, if_false, hk, KMap.getD, hheld, Option.getD_some, hall, hdata, hcomp]
  simp [KMap.find, hf, hg, hcheck]

end Decode

theorem ecDecodeCycle_after {flow group : BitVec 16} {t : State} (hrun : s.running = true) (ht : decodeGroup s flow.toNat group.toNat = t) :
    execEcDecodeCycle flow group s = After s t := by rw [execEcDecodeCycle, if_pos hrun, ht, After]

/-- Settles O50: a member in time is held; a group, whole or with its second member rebuilt, is delivered as one or ends as one. -/
theorem codedGroupsDecode : Obligations.CodedGroupsDecode := by
  unfold Obligations.CodedGroupsDecode
  refine ⟨fun s flow group member a x p e hlive hflow hmember hport hlate hearly => ?_,
    fun s flow group x f f' g e whole day hrun hflow hports hcycle hk hheld hown hcomp hcheck hfirst => ?_⟩
  · subst hport
    rw [exec, execEcMemberArrival, if_pos hlive, memberArrives_inTime a.frame _ hflow hmember hlate hearly, After]
  · simp only [List.forall_mem_cons] at hown
    obtain ⟨hf, hf', hg, -⟩ := hown
    cases whole with
    | true =>
      have hgroup := decodeGroup_whole hflow hports hcycle hk hcomp hcheck hf hg hf' hheld
      exact ⟨fun hsecond => ecDecodeCycle_after hrun (hgroup.trans (deliverGroup_allowed hfirst hsecond)),
        fun k hsecond => ecDecodeCycle_after hrun (hgroup.trans (deliverGroup_violation hfirst hsecond))⟩
    | false =>
      have hgroup := decodeGroup_rebuilds hflow hports hcycle hk hcomp hcheck hf hg hheld
      exact ⟨fun hsecond => ecDecodeCycle_after hrun (hgroup.trans (deliverGroup_allowed hfirst hsecond)),
        fun k hsecond => ecDecodeCycle_after hrun (hgroup.trans (deliverGroup_violation hfirst hsecond))⟩

end Sys2Proof.Machine
end
